-- ==== Sys2Proof/Word.lean ====
section
/-! DEFINITION. The word types of the module's interfaces. -/

namespace Sys2Proof

/-- An octet. -/
abbrev Byte := BitVec 8
/-- An FP32 bit pattern or any 32-bit field. -/
abbrev Word32 := BitVec 32
/-- A 64-bit field. -/
abbrev Word64 := BitVec 64
/-- A data word of the end-to-end code, 128 bits (R279). -/
abbrev Data128 := BitVec 128
/-- A code word: data in [127:0], check bytes p0 to p3 in [159:128] (R280). -/
abbrev Code160 := BitVec 160

end Sys2Proof
end

