-- ==== Sys2Proof/Types.lean ====
section
/-! DEFINITION. Enumerations and records that commands carry and State holds: the manual's names for a tile, a
handling, a module state, a record of the error log, a program image's structures. -/

namespace Sys2Proof

/-- A logical tile (R171 ff., Table 5.3 field TILE): quarter, tile group, logical tile T00 to T18. -/
structure TileRef where
  q : Nat
  g : Nat
  t : Nat
  deriving DecidableEq, Repr, Inhabited

/-- Who an access is made for (Table 14.4 field PRINCIPAL). -/
inductive Principal where
  | host | tenant | maint | vendor | peer | anonymous
  deriving DecidableEq, Repr, Inhabited

/-- The transports of Table 14.7. -/
inductive Transport where
  | pf
  | vf (p : Nat)
  | mgmt
  | halyard (port : Nat)
  deriving DecidableEq, Repr, Inhabited

/-- The principal a transport has established for one access, with the slot of a tenant (R537). -/
structure Via where
  tr : Transport := .pf
  who : Principal := .host
  slot : Nat := 0
  deriving DecidableEq, Repr, Inhabited

/-- Handling of an error record, Table 12.2. -/
inductive Handling where
  | event | retry | program | rollback | spare | failover | halfMast | strike | refused
  deriving DecidableEq, Repr, Inhabited

/-- Module states, Table 16.1. -/
inductive ModState where
  | dark | proving | joining | hoisted | halfMast | dipping | struck
  deriving DecidableEq, Repr, Inhabited

/-- Pennant states, Table 13.2. -/
inductive SlotState where
  | free | granting | granted | running | halted | releasing | restored
  deriving DecidableEq, Repr, Inhabited

/-- PASS_KIND, Table 12.4 (none: 0). -/
inductive PassKind where
  | none | forward | backward | gather | update | reload | checkpoint
  deriving DecidableEq, Repr, Inhabited

/-- SITE_KIND, Table 12.12. -/
inductive SiteKind where
  | module | tile | group | stack | cartridge | chip | port | fabric | domain | partner
  deriving DecidableEq, Repr, Inhabited

/-- Power state of a domain, Table 15.12 subindex 0x01. -/
inductive DomState where
  | off | on | poweringOn | retired
  deriving DecidableEq, Repr, Inhabited

/-- Power state of a stack bank (R303). -/
inductive BankState where
  | active | retention | off
  deriving DecidableEq, Repr, Inhabited

/-- Link state of a port, Table 11.13 subindex 0x01. -/
inductive LinkState where
  | noLight | training | up | retraining | closed | down
  deriving DecidableEq, Repr, Inhabited

/-- Mirror state, Table 12.14 subindex 0x01. -/
inductive MirrorState where
  | notMirrored | paired | lone | stale | reloading | rollingBack
  deriving DecidableEq, Repr, Inhabited

/-- Causes of a dip, 0x2800:02. -/
inductive DipCause where
  | none | brownout | overvoltage | reset | strike
  deriving DecidableEq, Repr, Inhabited

/-- Status of a signal-book access, Table 14.6. -/
inductive Status where
  | ok | objectAbsent | accessDenied | valueRefused | lengthMismatch | busy | version | nonce | segment
  | opUndefined
  deriving DecidableEq, Repr, Inhabited

/-- Access codes of Table 14.3. -/
inductive Acc where
  | none | ro | rw | rwd | wo | w1c | rc
  deriving DecidableEq, Repr, Inhabited

/-- Predicates of the lane engine's compare: R91 says quiet predicates and lists none; these six are the model's
(DESIGN CHOICE, log 29). -/
inductive Cmp where
  | eq | ne | lt | le | gt | ge
  deriving DecidableEq, Repr, Inhabited

/-- Instructions of the scan chain's devices (R622). -/
inductive ScanInstr where
  | bypass | samplePreload | extest | idcode | clamp | highz
  deriving DecidableEq, Repr, Inhabited

/-- Row reductions of the lane engine (R162). -/
inductive RowOp where
  | sum | sumSq | max | min
  deriving DecidableEq, Repr, Inhabited

/-- The content of an error record that its cause fills (Table 12.12); RECORD_NO and REF_COUNT are added when
it is logged (R479). -/
structure ErrRec where
  code : Nat
  handling : Handling := .event
  transient : Bool := false
  attempt : Nat := 0
  passKind : PassKind := .none
  pennant : Nat := 0x1F
  tenant : Nat := 0
  siteKind : SiteKind := .module
  site : Nat := 0
  block : Nat := 0
  mb : Nat := 0
  step : Nat := 0
  detail0 : Nat := 0
  detail1 : Nat := 0
  deriving DecidableEq, Repr, Inhabited

/-- A record as it stands in the log. -/
structure LogRec where
  no : Nat
  ref : Nat
  body : ErrRec
  deriving DecidableEq, Repr, Inhabited

/-- Who issues a tile operation: the logical tile and the pass context the operation belongs to (R251). -/
structure OpCtx where
  tile : TileRef
  pass : Nat
  deriving DecidableEq, Repr, Inhabited

/-- Where a HALLOC finds its entry image and leaves the number it takes: two code words of the tile's scratchpad (R179). -/
structure AllocArgs where
  image : Nat
  result : Nat
  deriving DecidableEq, Repr, Inhabited

/-- One scheduled access of an issue step (R202): port in the order of R202 (A ports 0 to 3, B ports 4 to 7,
lane-engine ports from 8, result path 255), the scratchpad word, whose bank R166 gives, and direction. -/
structure BankAccess where
  port : Nat
  word : Nat
  write : Bool
  deriving DecidableEq, Repr, Inhabited

/-- A bit of an accumulator that a fault flips before the fly lane reads it (R156): output row, column, bit. -/
structure Flip where
  row : Nat
  col : Nat
  bit : Nat
  deriving DecidableEq, Repr, Inhabited

/-- What a lane-engine operation names: handles of its operand rows, its result, and the extent (R159), the logical token
index of its first row (R162, R269), and the accesses of its issue steps (R201). The lane descriptor's layout is not in the
manual (log 6). -/
structure LaneArgs where
  in1 : Nat
  in2 : Nat := 0
  in3 : Nat := 0
  in4 : Nat := 0
  out : Nat
  rows : Nat
  cols : Nat
  token : Nat := 0
  plan : List (List BankAccess) := []
  deriving DecidableEq, Repr, Inhabited

/-- Which unit of the die takes or waits for a handshake step: an engine (R123, R623) or a crossing (R75). -/
inductive Engine where
  | cube (t : TileRef) (n : Nat)
  | lane (t : TileRef)
  | stream (t : TileRef)
  | queueEngine (q : Nat) (n : Nat)
  | crossing (a : Nat) (b : Nat)
  deriving DecidableEq, Repr, Inhabited

/-- What the engine finds at its ports in one tick (R50, R623). -/
structure Offer where
  inputs : Bool      -- inputs have been offered
  outputs : Bool     -- output space is present
  gated : Bool := false    -- R143
  issued : Bool := true    -- an operation has been issued to it
  cause : Nat := 0x3       -- the cause its oldest outstanding request carries (R624)
  width : Nat := 8         -- width class of the product's wider operand: 32, 16, 8 or 4 (Table 4.2)
  slower : Bool := true    -- at a crossing: the slower side also completes a step (R75)
  tick : Bool := false     -- this step ends a tick of the domain
  deriving DecidableEq, Repr, Inhabited

/-- A resource of Table 6.7 and the requesting unit numbers it serves. -/
inductive Resource where
  | scratchSlots (t : TileRef)
  | remotePort (t : TileRef)
  | cachePort (q : Nat)
  | bankQueue (stack pch bank : Nat)
  | boundary (from_ to_ : Nat)
  | queueEngine (q n : Nat)
  deriving DecidableEq, Repr, Inhabited

/-- A page move of a queue engine (R232). -/
inductive PageDir where
  | tailToHead | tailToMiddle | middleToHead
  deriving DecidableEq, Repr, Inhabited

/-- A parsed packet header with its data units and, where ENC = 1, its trailer unit, as they stand on the link (R402, R403,
R425). -/
structure Packet where
  hdr : BitVec 256
  units : List (BitVec 256) := []
  trailer : BitVec 256 := 0
  bad : List Nat := []      -- code words of the data units that are poison or cannot be corrected (R283, R284)
  deriving DecidableEq, Repr, Inhabited

/-- A sensor reading of a domain: domain number and hottest junction in 0.125 degrees C. -/
structure JReading where
  dom : Nat
  junction : Int
  deriving DecidableEq, Repr, Inhabited

/-- A topology announcement (R421). Peers in the order E, W, C+, C-, M; 0xFF: none. -/
structure Announce where
  ring : Nat
  pos : Nat
  epoch : Nat
  version : Nat
  peers : List Nat
  deriving DecidableEq, Repr, Inhabited

/-- A reduction message (R332, R333): header of Table 9.4, wire blocks as bytes, trailer entries of Table 9.5. -/
structure RedMsg where
  hdr : BitVec 256
  blocks : List (List Byte)
  trailer : List (BitVec 64)
  deriving DecidableEq, Repr, Inhabited

/-- A recovery message (R468): header of Table 12.9 and its code words. -/
structure RecMsg where
  hdr : BitVec 256
  words : List Code160 := []
  last : Bool := true
  deriving DecidableEq, Repr, Inhabited

/-- A record of the owner exchange (R367, R368): the step count and finite flag of round 0, the partial sums of
a later round. -/
structure ExMsg where
  round : Nat
  count : Nat := 0
  finite : Bool := true
  partials : List Word32 := []
  deriving DecidableEq, Repr, Inhabited

/-- A guidon schedule record (Table 10.10). -/
structure Sched where
  peak : Word32 := 0
  warm : Nat := 0
  warmSteps : Nat := 0
  decay : Nat := 0
  decaySteps : Nat := 1
  rho : Word32 := 0
  gamma : Word32 := 0x3F800000#32
  mult : Nat := 0
  deriving DecidableEq, Repr, Inhabited

/-- A tensor header of the image (R103): identity, format, logical shape, block axis (0 innermost, 1 second),
whether a scale array region is provided, and the handles that read it (tile, handle, scale handle). -/
structure TensorHdr where
  tensor : Nat
  fmt : Nat
  rows : Nat
  cols : Nat
  axis : Nat
  hasScale : Bool
  readers : List (TileRef × Nat × Nat)
  deriving DecidableEq, Repr, Inhabited

/-- A descriptor of an op list in issue order (R248). -/
inductive OpDesc where
  | product (d : BitVec 192) (window : List Word64)
  | stream (d : BitVec 256)
  | lane (conv : Option Word64) (ins : List Nat) (out : Nat)
  | handle (n : Nat) (entry : BitVec 128)
  deriving DecidableEq, Repr, Inhabited

/-- The handle entries the loader writes on one tile (R179, R181). -/
structure TileOps where
  tile : TileRef
  handles : List (Nat × BitVec 128)
  deriving DecidableEq, Repr, Inhabited

/-- One tile's part of an op list (R248): its 32-byte header (tile in [15:0], descriptor count in the second 32-bit word)
and its descriptors in issue order. -/
structure OpPart where
  header : BitVec 256
  ops : List OpDesc
  deriving DecidableEq, Repr, Inhabited

/-- An op list at its word offset, as the block descriptors name it (R248, Table 7.2). -/
structure OpList where
  offset : Nat
  parts : List OpPart
  deriving DecidableEq, Repr, Inhabited

/-- The initial or checkpointed values the image supplies for a shard (R360). -/
structure ShardInit where
  master : List Word32 := []
  state : List (List Word32) := []
  counts : List Nat := []
  deriving DecidableEq, Repr, Inhabited

/-- A chip header with its update descriptors, retention descriptor and initial values (R356, R461). -/
structure ChipImage where
  header : BitVec 256
  descs : List (BitVec 640)
  retention : BitVec 128
  inits : List ShardInit
  deriving DecidableEq, Repr, Inhabited

/-- A program image as read from its bytes (R29, R248). The container layout is not in the manual (log 6); the
structures are those the manual lays out. `bytes` are the LENGTH bytes themselves, for the measurement (R520). -/
structure Image where
  major : Nat
  minor : Nat
  seed : Word64
  stash : BitVec 192
  blocks : List (BitVec 256)
  wsets : List (BitVec 128)
  tiles : List TileOps
  lists : List OpList := []
  tensors : List TensorHdr
  queues : List (BitVec 192)
  placeHdr : Option (BitVec 64)
  places : List (BitVec 64)
  buckets : List (BitVec 128)
  chips : List ChipImage
  scheds : List Sched
  frozen : List (Nat × List Byte)      -- initial working copies of frozen sets, by TENSOR_ID
  bytes : List Byte
  deriving DecidableEq, Repr, Inhabited

/-- What is measured during a dip: bank voltage at step 3 and at its end in mV, energy drawn in mJ, duration in
microseconds, and the sections whose commit marker was written (sections 0 to 4). -/
structure DipObs where
  bankStart : Nat := 50000
  bankEnd : Nat := 0
  energy : Nat := 0
  duration : Nat := 0
  committed : List Bool := [true, true, true, true, true]
  deriving DecidableEq, Repr, Inhabited

/-- An operation of a signal-book request (Table 14.5); `other` is a reserved value. -/
inductive BookOp where
  | read | write | readSegment | writeSegment | writeFinal | describe | next | other (n : Nat)
  deriving DecidableEq, Repr, Inhabited

/-- A signal-book request (Table 14.4) with its data; `dip` is what is measured in the dip that a write of 0x1020:03 starts. -/
structure Request where
  op : BookOp
  index : Nat
  sub : Nat
  offset : Nat := 0
  data : List Byte := []
  transId : Nat := 0
  bootNonce : Word64 := 0
  seq : Nat := 0
  principal : Nat := 0
  slot : Nat := 0
  dip : DipObs := {}
  deriving DecidableEq, Repr, Inhabited

/-- The response to a request (R528). -/
structure Response where
  status : Status
  detail : Nat := 0
  data : List Byte := []
  index : Nat := 0
  sub : Nat := 0
  deriving DecidableEq, Repr, Inhabited

/-- An identity memory as a device answers (R596): absent, or the bytes of its copies. -/
structure IdMem where
  present : Bool := false
  copies : List (List Byte) := []
  deriving DecidableEq, Repr, Inhabited

/-- A failure that a step of Proving finds (Table 16.3). -/
inductive ProveFail where
  | tile (q g t : Nat)            -- physical tile
  | fabric (q : Nat)
  | stackInterface (n : Nat)
  | halyardGroup (n : Nat)
  | tierLinkGroup
  | controlDomain
  | stackWord (stack pch bank row : Nat)
  | cartridgeWord (k ch row : Nat)
  | chip (n : Nat)
  | loopback (port depth : Nat)
  deriving DecidableEq, Repr, Inhabited

/-- What one Proving reads and measures (Table 16.2): straps, identity memories, oscillator counts, the bank
measurement of R576, and the failures its tests find, each with its step. -/
structure ProveIn where
  straps : Nat                       -- SLOT_ID7..0
  ringStrap : Nat
  slotMem : IdMem := {}
  bankMem : IdMem := {}
  cartMems : List IdMem := []        -- K0 to K3
  cableMems : List IdMem := []       -- port codes 0 to 5
  oscCounts : List Nat := []         -- 68 counts over the calibration window
  oscTemps : List Int := []          -- junctions of the 68 domains at their calibration, 0.125 degrees C
  bankCharged : Bool := true         -- step 7 of Table 15.4 within its bound
  vc : Nat := 50000                  -- VBANK before the load, mV
  stepMv : Nat := 0                  -- voltage step when the load is applied, mV
  fallUs : Nat := 0                  -- time for VBANK to fall by 5.00 V, microseconds
  dipOk : List Bool := []            -- sections 0 to 4 of the newest area verify
  fails : List (Nat × ProveFail) := []
  deriving DecidableEq, Repr, Inhabited

/-- A firmware image in a slot (R516): the header of Table 13.11, the body, the public key and the signature. -/
structure FwImage where
  header : BitVec 512
  body : List Byte
  pubKey : List Byte
  sig : List Byte
  deriving DecidableEq, Repr, Inhabited

/-- The junction sensors nearest one crossing (R74): the two domains and their readings in 0.125 degrees C. -/
structure XReading where
  a : Nat
  b : Nat
  ja : Int
  jb : Int
  deriving DecidableEq, Repr, Inhabited

/-- Operands of a conversion (R110): the control word, the scale handles of source and result, the linear index of the
first element within its tensor and the tensor's row length, 0 where the operand spans whole rows (R118). -/
structure ConvArgs where
  word : Word64
  scaleIn : Nat := 0
  scaleOut : Nat := 0
  first : Nat := 0
  rowLen : Nat := 0
  deriving DecidableEq, Repr, Inhabited

/-- Operands of a draw (R163, R118): tensor, linear index of the first element, whether the draw is returned as FP32
(else as an integer), and the tensor's row length, 0 where the operand spans whole rows. -/
structure DrawArgs where
  tensor : Nat
  first : Nat
  float : Bool
  rowLen : Nat := 0
  deriving DecidableEq, Repr, Inhabited

/-- A word of a stack: 256-byte unit address within the stack and word 0 to 15 within the unit (R287). -/
structure StackAddr where
  unit : Nat
  word : Nat
  deriving DecidableEq, Repr, Inhabited

/-- What disturbs one access to stored cells: the bits flipped in the first read and in its one re-read, and how many
times in a row the check at the cipher fails (R287). -/
structure Noise where
  first : BitVec 160 := 0
  again : BitVec 160 := 0
  cipher : Nat := 0
  deriving DecidableEq, Repr, Inhabited

/-- What scrub runs over. -/
inductive ScrubUnit where
  | stack (n : Nat)
  | cartridge (n : Nat)
  deriving DecidableEq, Repr, Inhabited

/-- A gradient push as it arrives over the tier link (R361): its header and code words, with the step count and the
micro-batch index that the tier-link group adds. -/
structure PushMsg where
  hdr : BitVec 256
  words : List Code160
  step : Nat
  mb : Nat
  deriving DecidableEq, Repr, Inhabited

/-- What a LOAD delivers to a chip (R358). -/
inductive LoadMsg where
  | header (h : BitVec 256)
  | desc (d : BitVec 640)
  | retention (d : BitVec 128)
  | init (ix : Nat) (x : ShardInit)
  | sched (k : Nat) (x : Sched)
  deriving DecidableEq, Repr, Inhabited

/-- A link codeword as the port's FEC hands it over (R395 to R399): whether it decoded, the symbols corrected, KIND, SEQ
and ACK of its header, and its 32 slots. -/
structure Codeword where
  fecOk : Bool
  corrected : Nat := 0
  kind : Nat := 0
  sq : Nat
  ack : Nat
  slots : List Code160 := []
  deriving DecidableEq, Repr, Inhabited

/-- A key offer as received: its 248 bytes (Table 13.7), the burgee fields read from the sender with its chain, and the
outcomes of the checks of R503 steps 2 and 3. -/
structure KeyOffer where
  bytes : List Byte
  mirrored : Bool
  span : Nat
  vcs : Nat
  chainOk : Bool
  ensign : List Byte
  deriving DecidableEq, Repr, Inhabited

/-- A queue pair (R542). -/
inductive QPair where
  | host (p : Nat)
  | tenant (p : Nat)
  | module
  deriving DecidableEq, Repr, Inhabited

/-- Outcome of a loopback run as the interface measures it (R613, R615): units received, FEC symbols corrected, codewords or
words that were uncorrectable or different, and the lowest lane power in 0.01 dBm. -/
structure LoopResult where
  units : Nat := 0
  corrected : Nat := 0
  bad : Nat := 0
  power : Int := 0
  deriving DecidableEq, Repr, Inhabited

end Sys2Proof
end

