-- ==== Sys2Proof/Syntax.lean ====
section
/-! DEFINITION. The commands of the block, one constructor per row of the table of operations and events. -/

namespace Sys2Proof

/-- The commands. The docstring of each names its rule of spec/. -/
inductive Instr where
  /-- HANDSHAKE_STEP (R50). A unit of the Eohar die completes one request/acknowledge step once its inputs are offered and its outputs accepted. -/
  | handshakeStep (e : Engine) (o : Offer)
  /-- CALIBRATION_WINDOW_END (R61). The 2,048-period calibration window of a replica oscillator ends and the control domain publishes its ticks-per-ns rate. -/
  | calibrationWindowEnd (n : Nat) (count : Nat)
  /-- RECALIBRATION_DUE (R62). A setpoint change, a junction move of 8 °C or the 100 ms limit starts a new calibration of an oscillator. -/
  | recalibrationDue (n : Nat)
  /-- REGION_SAMPLE (R76). Every 2.0 µs a region controller samples the setpoints and sensors of adjacent domains and begins a correction where an operating limit is exceeded. -/
  | regionSample (q : Nat) (xs : List XReading)
  /-- REGION_STEP (R76). Each 1.0 µs during a correction the region controller lowers the faster side by 10 mV and compares counted tick rates, or places the crossing in widened mode. -/
  | regionStep (q : Nat) (a : Nat) (b : Nat) (count : Nat)
  /-- REGION_CAP_RELEASE (R76). After a pair has stayed within 80 mV and 20 °C for 1 ms, the region cap or widened mode is lifted and REGION_HELD cleared. -/
  | regionCapRelease (q : Nat) (a : Nat) (b : Nat)
  /-- CROSSING_FREEZE (R78). A comparator at a crossing that reaches a guard limit freezes the crossing and raises 0x2041. -/
  | crossingFreeze (x : XReading)
  /-- CROSSING_RESUME (R78). A frozen crossing resumes when the pair is back within the operating limits. -/
  | crossingResume (x : XReading)
  /-- CROSSING_FROZEN_TIMEOUT (R78). A crossing frozen for 1 ms becomes a lasting fault of its faster side. -/
  | crossingFrozenTimeout (a : Nat) (b : Nat)
  /-- SEED_COMMIT (R120). A write of the commit step E commits the staged seed for step E onwards, or is refused. -/
  | seedCommit (via : Via) (p : Nat) (e : Nat)
  /-- MATRIX (R131). A MATRIX product descriptor issues and its cubes compute OUT = A · B after the transposition flags, with issue-time checks. -/
  | matrix (c : OpCtx) (d : BitVec 192) (plan : List (List BankAccess)) (flips : List Flip)
  /-- WINDOW_FWD (R140). A WINDOW_FWD product issues and computes a convolution or transposed convolution by address walk. -/
  | windowFwd (c : OpCtx) (d : BitVec 192) (plan : List (List BankAccess)) (flips : List Flip)
  /-- WINDOW_WGRAD (R142). A WINDOW_WGRAD product issues and computes a kernel gradient, reducing over output positions. -/
  | windowWgrad (c : OpCtx) (d : BitVec 192) (plan : List (List BankAccess)) (flips : List Flip)
  /-- FLY_LANE_CHECK (R154). The fly lane completes the check of a drained fragment against its column tolerance. -/
  | flyLaneCheck (t : TileRef)
  /-- LANE_ADD (R160). The lane engine adds element-wise under nearest-even. -/
  | laneAdd (c : OpCtx) (a : LaneArgs)
  /-- LANE_SUB (R160). The lane engine subtracts element-wise under nearest-even. -/
  | laneSub (c : OpCtx) (a : LaneArgs)
  /-- LANE_MUL (R160). The lane engine multiplies element-wise under nearest-even. -/
  | laneMul (c : OpCtx) (a : LaneArgs)
  /-- LANE_FMA (R160). The lane engine computes a fused multiply-add element-wise. -/
  | laneFma (c : OpCtx) (a : LaneArgs)
  /-- LANE_MIN (R92). The lane engine takes the IEEE minimum element-wise. -/
  | laneMin (c : OpCtx) (a : LaneArgs)
  /-- LANE_MAX (R92). The lane engine takes the IEEE maximum element-wise. -/
  | laneMax (c : OpCtx) (a : LaneArgs)
  /-- LANE_COMPARE (R91). The lane engine compares elements with the quiet predicates. -/
  | laneCompare (c : OpCtx) (a : LaneArgs) (p : Cmp)
  /-- LANE_SELECT (R160). The lane engine selects between elements. -/
  | laneSelect (c : OpCtx) (a : LaneArgs)
  /-- LANE_ABS (R160). The lane engine clears the sign bit of each element. -/
  | laneAbs (c : OpCtx) (a : LaneArgs)
  /-- LANE_NEG (R160). The lane engine inverts the sign bit of each element. -/
  | laneNeg (c : OpCtx) (a : LaneArgs)
  /-- LANE_COPYSIGN (R160). The lane engine copies a sign onto each element. -/
  | laneCopysign (c : OpCtx) (a : LaneArgs)
  /-- LANE_CONVERT (R110). The lane engine converts elements under a conversion control word, checking the word on first read. -/
  | laneConvert (c : OpCtx) (a : LaneArgs) (v : ConvArgs)
  /-- LANE_EXP2 (R161). The special-function units compute 2^x. -/
  | laneExp2 (c : OpCtx) (a : LaneArgs)
  /-- LANE_EXP (R161). The special-function units compute e^x. -/
  | laneExp (c : OpCtx) (a : LaneArgs)
  /-- LANE_RCP (R161). The special-function units compute 1/x. -/
  | laneRcp (c : OpCtx) (a : LaneArgs)
  /-- LANE_RSQRT (R161). The special-function units compute 1/√x. -/
  | laneRsqrt (c : OpCtx) (a : LaneArgs)
  /-- LANE_SQRT (R161). The lane engine computes √x correctly rounded. -/
  | laneSqrt (c : OpCtx) (a : LaneArgs)
  /-- LANE_DIV (R161). The lane engine divides with one correction step. -/
  | laneDiv (c : OpCtx) (a : LaneArgs)
  /-- LANE_SIGMOID (R160). The lane engine computes the sigmoid. -/
  | laneSigmoid (c : OpCtx) (a : LaneArgs)
  /-- LANE_ROW_REDUCE (R162). The lane engine reduces a row in the fixed positional order. -/
  | laneRowReduce (c : OpCtx) (a : LaneArgs) (op : RowOp) (byCol : Bool)
  /-- LANE_DRAW (R163). The lane engine returns the stochastic draw of each element. -/
  | laneDraw (c : OpCtx) (a : LaneArgs) (v : DrawArgs)
  /-- SOFT_MAXIMUM (R164). The lane engine computes the soft-maximum of a row as one operation. -/
  | softMaximum (c : OpCtx) (a : LaneArgs)
  /-- RMS_NORM_BWD (R267). The lane engine computes the RMS norm backward of a row. -/
  | rmsNormBwd (c : OpCtx) (a : LaneArgs)
  /-- LAYER_NORM_BWD (R267). The lane engine computes the layer norm backward of a row. -/
  | layerNormBwd (c : OpCtx) (a : LaneArgs)
  /-- SOFTMAX_BWD (R267). The lane engine computes the soft-maximum backward of a row. -/
  | softmaxBwd (c : OpCtx) (a : LaneArgs)
  /-- HSET (R180). A tile program writes one handle entry after the entry checks. -/
  | hset (c : OpCtx) (n : Nat) (w : Nat)
  /-- HALLOC (R180). A tile program writes the lowest invalid handle entry and returns its number. -/
  | halloc (c : OpCtx) (a : AllocArgs)
  /-- HCLEAR (R179). A tile program invalidates a handle entry, waiting for held receive-area units to be returned. -/
  | hclear (c : OpCtx) (n : Nat)
  /-- WSET (R195). A tile program writes one of its window registers, opening or closing the window. -/
  | wset (c : OpCtx) (w : Nat) (e : BitVec 128)
  /-- REMOTE_TILE_READ (R185). A target tile serves or refuses a read through a KIND 0b01 handle. -/
  | remoteTileRead (c : OpCtx) (h : Nat) (off : Nat) (len : Nat)
  /-- CREQ (R187). A credit request for a range of receive-area units arrives at the target's credit keeper. -/
  | creq (c : OpCtx) (h : Nat) (first : Nat) (count : Nat)
  /-- CREDIT_GRANT (R187). Once the requested units are free, the keeper marks them held and returns a grant. -/
  | creditGrant (t : TileRef) (area : Nat)
  /-- CDLV (R188). A delivery marks held units full and raises the receive area's event. -/
  | cdlv (c : OpCtx) (h : Nat) (first : Nat) (count : Nat)
  /-- CREL (R190). A release returns full units to free, or is counted as misuse. -/
  | crel (c : OpCtx) (area : Nat) (first : Nat) (count : Nat)
  /-- CREDIT_HOLD_TIMEOUT (R192). Held units without delivery within the hold timeout return to free and 0x613A is logged. -/
  | creditHoldTimeout (t : TileRef) (area : Nat) (first : Nat) (count : Nat)
  /-- HOIST (R225). A stream moves a stack region into a local buffer, optionally under a hoist lease. -/
  | hoist (c : OpCtx) (d : BitVec 256)
  /-- SPILL (R210). A stream moves a local buffer into a stack region. -/
  | spill (c : OpCtx) (d : BitVec 256)
  /-- TILE_READ (R185). A stream copies a region on another tile into a local buffer. -/
  | tileRead (c : OpCtx) (d : BitVec 256)
  /-- TILE_WRITE (R186). A stream writes a local buffer into a receive area on another tile under credit. -/
  | tileWrite (c : OpCtx) (d : BitVec 256)
  /-- WINDOW_WRITE (R214). A stream writes a local buffer into a window on another module and waits for answers. -/
  | windowWrite (c : OpCtx) (d : BitVec 256)
  /-- QUEUE_PUSH (R231). A stream pushes messages into a bunting queue against producer credit. -/
  | queuePush (c : OpCtx) (d : BitVec 256)
  /-- QUEUE_POP (R232). A stream pops messages from a bunting queue and returns their credit. -/
  | queuePop (c : OpCtx) (d : BitVec 256)
  /-- TIER_PUSH (R361). A stream sends a push header and gradients over the tier link to the owning Bortis chip. -/
  | tierPush (c : OpCtx) (d : BitVec 256)
  /-- SADV (R213). A tenant program passes the current section of a stream for reuse. -/
  | sadv (c : OpCtx) (id : Nat)
  /-- TRANSFER_COMPLETE (R212). A stream transfer completes into or out of its section and returns its DMA tag. -/
  | transferComplete (t : TileRef) (id : Nat)
  /-- STREAM_ANSWER_TIMEOUT (R214). A window-write transfer without an answer within the answer timeout faults the block with 0x6147. -/
  | streamAnswerTimeout (t : TileRef) (id : Nat) (sq : Nat)
  /-- DRAIN_RATE_UPDATE (R219). The block sequencer recomputes an ingest stream's drain rate after a new tick-rate publication. -/
  | drainRateUpdate (t : TileRef) (id : Nat)
  /-- ARBITER_GRANT (R238). After each transfer's handshake an arbiter grants its resource to the next request by rotation, slack or reserved grant. -/
  | arbiterGrant (x : Resource)
  /-- STALE_NOTICE (R225). A logic die's notice of a write into a leased unit marks the unit stale and issues its refetch. -/
  | staleNotice (t : TileRef) (id : Nat) (unit : Nat)
  /-- LEASE_REFETCH_DONE (R225). The refetch of a stale leased unit completes and waiting reads proceed. -/
  | leaseRefetchDone (t : TileRef) (id : Nat) (unit : Nat)
  /-- LEASE_RELEASE (R225). RELEASE_EVENT is raised and the lease entries are freed at every stack logic die. -/
  | leaseRelease (t : TileRef) (ev : Nat)
  /-- PAGE_MOVE (R232). A queue engine moves a 4 KiB page from tail to head or middle, or from middle to head. -/
  | pageMove (q : Nat) (n : Nat) (d : PageDir)
  /-- TAIL_TIMEOUT (R233). A queue's tail timer fires and the partial tail is emitted as a short page. -/
  | tailTimeout (q : Nat) (n : Nat)
  /-- FORWARD_PASS_ISSUE (R254). The block sequencer issues the forward pass of a block and micro-batch once its input and version are ready. -/
  | forwardPassIssue (p : Nat) (b : Nat)
  /-- BACKWARD_PASS_ISSUE (R254). The block sequencer issues a backward pass, running the fallback list first where needed, then recompute and backward. -/
  | backwardPassIssue (p : Nat) (b : Nat) (mb : Nat)
  /-- PASS_RELEASE (R256). A pass whose checks and digest compare have passed pushes its outputs, frees its held inputs and records retirement. -/
  | passRelease (id : Nat)
  /-- GATHER_PASS (R271). When every use of a tie group has released its backward pass, the slots are summed in use order and pushed. -/
  | gatherPass (p : Nat) (tensor : Nat) (mb : Nat) (stp : Nat)
  /-- RETRY_ATTEMPT (R440). Once an abandoned attempt's operations have finished, the next attempt of the pass issues from held inputs. -/
  | retryAttempt (id : Nat)
  /-- STACK_WRITE (R286). A logic die checks, encrypts and stores an arriving word, writing a fresh unit whole. -/
  | stackWrite (n : Nat) (a : StackAddr) (who : Nat) (w : Code160) (nz : Noise)
  /-- STACK_READ (R287). A logic die reads, corrects, decrypts and delivers a word, or returns zeros for a fresh unit. -/
  | stackRead (n : Nat) (a : StackAddr) (who : Nat) (nz : Noise)
  /-- CACHE_READ (R310). A quarter cache serves a read as hit or miss in the pennant's ways. -/
  | cacheRead (q : Nat) (p : Nat) (n : Nat) (a : StackAddr) (nz : Noise)
  /-- CACHE_FILL (R312). A line fill returns from the stack and is delivered, and installed unless a write met it. -/
  | cacheFill (q : Nat) (p : Nat) (n : Nat) (a : StackAddr)
  /-- SCRUB_PASS_START (R300). At the end of the scrub period a new scrub pass of the stack or cartridge begins. -/
  | scrubPassStart (u : ScrubUnit)
  /-- SCRUB_UNIT (R298). Scrub reads, corrects and writes back one unit, storing poison on a failed re-read. -/
  | scrubUnit (n : Nat) (noise : List (BitVec 160)) (again : List (BitVec 160))
  /-- PSEUDO_CHANNEL_MOVE_DONE (R448). The copy of a pseudo-channel to PC32 completes and the logic die switches to it. -/
  | pseudoChannelMoveDone (n : Nat)
  /-- CARTRIDGE_SCRUB_UNIT (R317). The cartridge controller scrubs one stored unit without a key. -/
  | cartridgeScrubUnit (n : Nat) (noise : List (BitVec 160)) (again : List (BitVec 160))
  /-- BANK_IDLE_PROPOSAL (R304). A bank idle for the threshold is proposed for Retention or Off and gated when no tag targets it. -/
  | bankIdleProposal (n : Nat) (pc : Nat) (bank : Nat)
  /-- BANK_WAKE (R306). A transfer that finds its bank gated wakes it and completes once the bank is Active. -/
  | bankWake (n : Nat) (pc : Nat) (bank : Nat)
  /-- PUSH (R362). A Bortis chip receives a gradient push, checks it, and adds it, holds it or waits it. -/
  | push (p : Nat) (chip : Nat) (m : PushMsg)
  /-- HELD_PUSH_ADD (R365). A held push of a later micro-batch is added once the previous micro-batch is complete. -/
  | heldPushAdd (p : Nat) (chip : Nat) (ix : Nat)
  /-- REDUCTION_CONTRIBUTION (R342). A shard owner receives a reduction contribution message and adds complete contributions in position order. -/
  | reductionContribution (p : Nat) (src : Nat) (m : RedMsg)
  /-- REDUCTION_RESULT (R343). A replica applies a reduction result message to its accumulator and scale table. -/
  | reductionResult (p : Nat) (src : Nat) (m : RedMsg)
  /-- UPDATE_START (R366). When its conditions hold, a chip begins the update of a shard with round 0 of the owner exchange. -/
  | updateStart (p : Nat) (chip : Nat) (ix : Nat)
  /-- EXCHANGE (R367). An owner receives an exchange message of a round and, when the round is complete, applies, skips or withholds the update. -/
  | exchange (p : Nat) (chip : Nat) (ix : Nat) (src : Nat) (m : ExMsg)
  /-- OWNER_EXCHANGE_TIMEOUT (R368). An owner waiting beyond the exchange timeout raises 0x7106 and withholds its update. -/
  | ownerExchangeTimeout (p : Nat) (chip : Nat) (ix : Nat)
  /-- PERMIT (R383). A chip receives a write-back permit and accepts or refuses it. -/
  | permit (p : Nat) (chip : Nat) (set : Nat) (stp : Nat)
  /-- WRITEBACK (R384). A chip converts new masters and writes the working copy to the stacks. -/
  | writeback (p : Nat) (chip : Nat) (ix : Nat)
  /-- DONE (R385). The block sequencer receives an owner's DONE and releases the new version once every owner's has arrived. -/
  | done (p : Nat) (src : Nat) (set : Nat) (stp : Nat)
  /-- LOAD (R358). A chip receives headers, descriptors, schedules or checkpoint state reads from the control domain. -/
  | load (p : Nat) (chip : Nat) (m : LoadMsg)
  /-- SCHEDULE_COMMIT (R382). A write of the commit step commits a guidon schedule's staged fields, or is refused. -/
  | scheduleCommit (via : Via) (p : Nat) (k : Nat) (e : Nat)
  /-- LIGHT_DETECTED (R416). Light on a port starts a series of link training attempts. -/
  | lightDetected (k : Nat)
  /-- LOSS_OF_LIGHT (R416). Loss of light on a port starts a retrain or takes the link out of service. -/
  | lossOfLight (k : Nat)
  /-- TRAINING_STEP_TIMEOUT (R416). A training step that misses its bound ends its attempt, or after three attempts logs 0x510E. -/
  | trainingStepTimeout (k : Nat)
  /-- CODEWORD_RECEIVE (R399). A port receives a codeword, checks FEC, slots and SEQ, and accepts it or discards it and requests a resend. -/
  | codewordReceive (k : Nat) (cw : Codeword)
  /-- RETRY_REQUEST (R399). A transmitter receives a retry request and resends from the next codeword. -/
  | retryRequest (k : Nat) (sq : Nat)
  /-- RETRY_REQUEST_TIMEOUT (R399). A resend not begun 2,000 ns after the request makes the receiver repeat it. -/
  | retryRequestTimeout (k : Nat)
  /-- LINK_HOLD_TIMEOUT (R401). A link not up again within the link hold time goes down and logs 0x5101. -/
  | linkHoldTimeout (k : Nat)
  /-- TRANSMIT_PACKET (R410). A transmitter picks the next credited packet to send by VC priority and weighted round-robin. -/
  | transmitPacket (k : Nat)
  /-- QUEUE_DATA (R407). A QUEUE_DATA packet arrives and is delivered to its queue or discarded. -/
  | queueData (k : Nat) (pk : Packet)
  /-- WINDOW_WRITE_PACKET (R424). A WINDOW_WRITE packet arrives, is checked under R196 and answered with WINDOW_ACK or WINDOW_REFUSE. -/
  | windowWritePacket (k : Nat) (pk : Packet)
  /-- WINDOW_ACK (R424). A sending stream receives an acceptance answer and counts the write complete. -/
  | windowAck (k : Nat) (pk : Packet)
  /-- WINDOW_REFUSE (R197). A sending stream receives a refusal and the sending block faults with 0x6139. -/
  | windowRefuse (k : Nat) (pk : Packet)
  /-- FRAME (R428). Port F receives frame data and writes it into the ingest queue in clip order. -/
  | frame (pk : Packet)
  /-- STREAM_DECLARE (R427). Port F accepts or refuses a feeder's stream declaration. -/
  | streamDeclare (pk : Packet)
  /-- CREDIT (R408). A sender receives a CREDIT packet returning units per VC. -/
  | credit (k : Nat) (pk : Packet)
  /-- CREDIT_RETURN_TIMEOUT (R408). 1,000 ns after the first unreturned unit was freed, the receiver returns credits. -/
  | creditReturnTimeout (k : Nat)
  /-- CAPS (R414). A port receives capability TLVs and negotiates version and features. -/
  | caps (k : Nat) (pk : Packet)
  /-- TOPOLOGY (R421). A module receives a topology announcement, stores and forwards it if newer, and recomputes routes. -/
  | topology (k : Nat) (a : Announce)
  /-- INSERT_PERMIT (R418). A write of insert permit lets the module move its switch to insert and join the ring. -/
  | insertPermit (via : Via) (v : Nat)
  /-- JOIN_HOLD (R418). A write of join hold makes a neighbour stop scheduling on its through-link for a join. -/
  | joinHold (via : Via) (v : Nat)
  /-- BYPASS_SWITCH_FAULT (R417). A bypass switch whose sensed position disagrees for 10 ms raises 0x510D and is driven to through. -/
  | bypassSwitchFault
  /-- DIGEST_RECORD (R455). A digest record arrives on VC 3 and is compared with the local record of the same pass. -/
  | digestRecord (p : Nat) (d : BitVec 512)
  /-- DIGEST_WAIT_TIMEOUT (R456). The digest wait expires and the partner-loss check starts. -/
  | digestWaitTimeout (p : Nat) (id : Nat)
  /-- PROBE (R469). A module receives a PROBE on VC 7 and answers it. -/
  | probe (p : Nat) (m : RecMsg)
  /-- PROBE_ANSWER (R469). A PROBE_ANSWER arrives and ends the partner-loss check. -/
  | probeAnswer (p : Nat) (m : RecMsg)
  /-- PROBE_TIMEOUT (R469). No PROBE_ANSWER within a second digest wait declares the partner lost. -/
  | probeTimeout (p : Nat)
  /-- HALT (R465). A HALT on VC 7 starts or merges with a rollback of the pennant. -/
  | halt (p : Nat) (m : RecMsg)
  /-- TARGET (R465). A TARGET message is exchanged and the lowest rollback target adopted. -/
  | target (p : Nat) (ring : Nat) (pos : Nat) (m : RecMsg)
  /-- RETAINED_CHUNK (R464). A retained chunk arrives on VC 6 and restores a chunk for rollback. -/
  | retainedChunk (p : Nat) (m : RecMsg)
  /-- SELF_TEST (R459). A self-test result arrives on VC 7 during a rollback. -/
  | selfTest (p : Nat) (m : RecMsg) (own : Option (SiteKind × Nat))
  /-- ROLLBACK_RESUME (R466). A write of resume ends a rollback and the pennant runs its step from micro-batch 0. -/
  | rollbackResume (via : Via) (p : Nat)
  /-- REJOIN_SOURCE (R472). A write of rejoin source starts the reload and rejoin of a stale ring. -/
  | rejoinSource (via : Via) (p : Nat) (v : Nat)
  /-- BOUNDARY (R472). A BOUNDARY message fixes the rejoin step E. -/
  | boundary (p : Nat) (ring : Nat) (m : RecMsg)
  /-- WORKING_COPY_MESSAGE (R472). A working copy arrives on VC 7 during a reload. -/
  | workingCopyMessage (p : Nat) (m : RecMsg)
  /-- SCALE_TABLE_MESSAGE (R472). A scale table arrives on VC 7 during a reload. -/
  | scaleTableMessage (p : Nat) (m : RecMsg)
  /-- STATE_MESSAGE (R472). Shard state arrives on VC 2 during a reload. -/
  | stateMessage (p : Nat) (m : RecMsg)
  /-- PART_DIGEST (R472). A part digest arrives and is compared with the received part. -/
  | partDigest (p : Nat) (f : Bool) (m : RecMsg)
  /-- RELOAD_DONE (R472). A RELOAD_DONE arrives and the target's shard updates may proceed. -/
  | reloadDone (p : Nat) (m : RecMsg)
  /-- EXPORTED_PART (R474). An exported part from the checkpoint store arrives on port F during an import. -/
  | exportedPart (p : Nat) (m : RecMsg)
  /-- SPARE_MAPPING (R444). A lasting tile fault maps the group's spare into the logical position and replays the attempts. -/
  | spareMapping (q : Nat) (g : Nat) (t : Nat) (lost : Bool)
  /-- STRIKE (R477). A Strike cause halts every pennant, zeroises keys, saves the log and powers down all but the control domain. -/
  | strike
  /-- GRANT (R493). The GRANT command checks the staged burgee and runs the grant of a slot. -/
  | grant (via : Via) (p : Nat)
  /-- RELEASE (R495). The RELEASE command runs the release of a slot. -/
  | release (via : Via) (p : Nat)
  /-- HALT_COMMAND (R497). The HALT command moves a slot from Running to Halted. -/
  | haltCommand (via : Via) (p : Nat)
  /-- RESUME (R497). The RESUME command resumes a Halted slot or starts a Restored slot's rollback. -/
  | resume (via : Via) (p : Nat)
  /-- KEY_OFFER (R503). A key offer arrives on VC 4 and is verified and used to derive link and digest keys. -/
  | keyOffer (k : KeyOffer)
  /-- KEY_AGREEMENT_RETRY (R522). A slot left Granting by a failed key agreement retries each second. -/
  | keyAgreementRetry (p : Nat)
  /-- METER_SNAPSHOT (R512). A write of the snapshot subindex latches every meter and increments the snapshot number. -/
  | meterSnapshot (via : Via) (p : Nat)
  /-- FIRMWARE_IMAGE_WRITE (R518). A completed value of 0x3800:04 is verified into the inactive firmware slot. -/
  | firmwareImageWrite (via : Via) (f : FwImage)
  /-- FIRMWARE_ACTIVATE (R518). A write of activate makes the verified slot boot at the next Proving. -/
  | firmwareActivate (via : Via)
  /-- FIRMWARE_COMMIT (R518). A write of commit raises the fused minimum security version. -/
  | firmwareCommit (via : Via)
  /-- ATTESTATION_NONCE (R519). A write of a nonce requests a module or slot attestation report. -/
  | attestationNonce (via : Via) (p : Option Nat) (nonce : List Byte)
  /-- REPORT_READY (R519). The signed attestation report of the newest nonce becomes readable. -/
  | reportReady (p : Option Nat)
  /-- CHECKPOINT_KEY_INSTALL (R508). A write of 0x3850 + p:01 unwraps and loads a tenant's checkpoint key. -/
  | checkpointKeyInstall (via : Via) (p : Nat) (v : List Byte)
  /-- CHASSIS_KEY_WRITE (R551). A write of 0x3840:01 sets or clears the chassis key. -/
  | chassisKeyWrite (via : Via) (v : List Byte)
  /-- VENDOR_UNLOCK (R550). A write of a vendor unlock opens a vendor session or is refused with 0x3113. -/
  | vendorUnlock (via : Via) (v : List Byte)
  /-- VENDOR_SESSION_END (R550). A write of 0xF000:03 ends the vendor session. -/
  | vendorSessionEnd (via : Via)
  /-- READ (R529). A signal-book READ returns the value of one subindex. -/
  | read (via : Via) (r : Request)
  /-- WRITE (R532). A signal-book WRITE sets one subindex that has no row of its own, or is refused. -/
  | write (via : Via) (r : Request)
  /-- READ_SEGMENT (R536). A READ_SEGMENT returns bytes of a BLOB from an offset. -/
  | readSegment (via : Via) (r : Request)
  /-- WRITE_SEGMENT (R534). A WRITE_SEGMENT writes one segment of a BLOB transfer. -/
  | writeSegment (via : Via) (r : Request)
  /-- WRITE_FINAL (R534). A WRITE_FINAL writes the last segment and completes a BLOB transfer. -/
  | writeFinal (via : Via) (r : Request)
  /-- DESCRIBE (R523). A DESCRIBE returns the entry descriptor of a subindex. -/
  | describe (via : Via) (r : Request)
  /-- NEXT (R525). A NEXT returns the next subindex the principal can reach. -/
  | next (via : Via) (r : Request)
  /-- BLOB_TRANSFER_TIMEOUT (R534). A BLOB transfer with no segment for 10 s is abandoned. -/
  | blobTransferTimeout (ix : Nat) (sub : Nat)
  /-- REGISTER_WRITE (R16). A write to a BAR register that has no row of its own updates it under its access code. -/
  | registerWrite (tr : Transport) (bar : Nat) (off : Nat) (v : List Byte)
  /-- GO (R540). A write of GO submits the mailbox request, or is ignored and counted while BUSY or DONE. -/
  | go (tr : Transport) (d : DipObs)
  /-- DONE_CLEAR (R539). A write of 1 to DONE clears it and GO_IGNORED. -/
  | doneClear (tr : Transport)
  /-- SQ_TAIL (R543). A submission doorbell makes the module take commands of the queue pair in ring order. -/
  | sqTail (qp : QPair) (v : Nat) (ents : List (BitVec 512))
  /-- CQ_HEAD (R545). A completion doorbell frees ring space for held notifications and completions. -/
  | cqHead (qp : QPair) (v : Nat)
  /-- QUEUE_PAIR_DISABLE (R542). Clearing ENABLE lets the current command finish, discards the others and stops postings. -/
  | queuePairDisable (qp : QPair)
  /-- LOAD_IMAGE (R543). The LOAD_IMAGE command reads, checks and loads a program image and writes or imports its state. -/
  | loadImage (qp : QPair) (e : BitVec 512) (im : Option Image)
  /-- CHECKPOINT_EXPORT (R474). The CHECKPOINT_EXPORT command sends the slot's state at step E to the checkpoint store. -/
  | checkpointExport (qp : QPair) (e : BitVec 512)
  /-- CHECKPOINT_META (R543). The CHECKPOINT_META command writes one metadata entry per update descriptor to host memory. -/
  | checkpointMeta (qp : QPair) (e : BitVec 512)
  /-- MANAGEMENT_FRAME (R548). A management UDP frame arrives and is authenticated, checked for nonce and SEQ, and served. -/
  | managementFrame (f : List Byte) (d : DipObs)
  /-- REMOTE_REQUEST (R553). A signal-book request arrives from a peer module over VC 4 and is served or denied. -/
  | remoteRequest (k : Nat) (pk : Packet)
  /-- REMOTE_RESPONSE (R552). A signal-book response arrives from a peer module over VC 4. -/
  | remoteResponse (k : Nat) (pk : Packet)
  /-- TURN_ON (R558). VIN at or above 47.0 V for 100 ms in Dark starts the power-on sequence. -/
  | turnOn
  /-- POWER_ON_STEP_TIMEOUT (R563). A power-on step that misses its bound removes every rail and logs 0x2058. -/
  | powerOnStepTimeout (n : Nat)
  /-- BROWNOUT (R570). Input below 46.0 V for more than 2 µs starts a dip. -/
  | brownout (d : DipObs)
  /-- OVERVOLTAGE (R570). Input above 57.0 V for more than 10 µs starts a dip. -/
  | overvoltage (d : DipObs)
  /-- RIDE_THROUGH (R558). An input excursion of 2 µs or less is counted without response. -/
  | rideThrough
  /-- THERMAL_SAMPLE (R564). Every 100 µs the power controller lowers, holds or raises each domain by its hottest junction. -/
  | thermalSample (js : List JReading)
  /-- POWER_CAP_SAMPLE (R565). Every 100 µs the power controller lowers or raises tile-group domains against the power cap. -/
  | powerCapSample (vin : Nat) (w : Nat) (die : Nat) (mw : List (Nat × Nat)) (calm : Bool)
  /-- JUNCTION_CRITICAL_TIMEOUT (R566). A tile group not below 100 °C within 10 ms is retired. -/
  | junctionCriticalTimeout (d : Nat)
  /-- REGULATOR_FAULT (R567). A regulator deviating by more than 30 mV for 100 µs retires its group or makes the module Strike. -/
  | regulatorFault (d : Nat)
  /-- COOLANT_RISE_HIGH (R568). An outlet more than 20 °C above the inlet for 1 s logs 0x2059. -/
  | coolantRiseHigh (inlet : Int) (outlet : Int)
  /-- VBANK_LOW (R578). VBANK below 48.0 V for 1 s marks the bank failed. -/
  | vbankLow (mv : Nat)
  /-- PRSNT_N_ASSERTED (R631). PRSNT_N held low for 100 ms closes the input switch with limited inrush. -/
  | prsntNAsserted
  /-- PRSNT_N_DEASSERTED (R632). PRSNT_N going high opens the input switch and starts a dip from the bank. -/
  | prsntNDeasserted (d : DipObs)
  /-- MRST_N (R638). MRST_N low for at least 10 µs resets the module as a reset write does. -/
  | mrstN (us : Nat) (d : DipObs)
  /-- PERST (R639). PERST# resets the PCIe endpoint only, abandoning unfinished image DMA. -/
  | perst
  /-- FUNCTION_LEVEL_RESET (R639). A function-level reset of the PF acts as PERST#, and of a VF resets that function alone. -/
  | functionLevelReset (fn : Nat)
  /-- MODULE_RESET (R575). A write of 0x1020:03 runs the reset dip from VIN and takes the module to Dark and Proving. -/
  | moduleReset (via : Via) (d : DipObs)
  /-- PROVING (R589). After the power-on sequence and an accepted firmware slot, the module runs the Proving steps. -/
  | proving (x : ProveIn)
  /-- PROVING_STEP_TIMEOUT (R591). A Proving step that exceeds its bound logs 0x1109 and the module Strikes. -/
  | provingStepTimeout (n : Nat)
  /-- BOUNDARY_SCAN_ENTRY (R621). BSCAN_EN_N asserted at turn-on puts the module into boundary-scan mode. -/
  | boundaryScanEntry
  /-- CARTRIDGE_REMOVED (R599). A cartridge removed outside Dark logs 0x1107 and its chip is handled as failed. -/
  | cartridgeRemoved (k : Nat)
  /-- CARTRIDGE_INSERTED (R599). A cartridge inserted outside Dark is ignored until the next Proving. -/
  | cartridgeInserted (k : Nat)
  /-- TEST_MODE (R608). A write of 1 to 0x9004:01 enters test mode or is refused with 0x9101. -/
  | testMode (via : Via) (v : Nat)
  /-- FLY_LANE_DISABLED (R609). A maintainer write of 0x9004:02 in test mode disables or enables fly-lane checks. -/
  | flyLaneDisabled (via : Via) (v : Nat)
  /-- DEEP_MODE_TEST_ENABLE (R224). A maintainer write of 0x6060:02 sets deep mode, or is refused with 0x6146. -/
  | deepModeTestEnable (via : Via) (v : Nat)
  /-- LOOPBACK_START (R612). A write of Start begins a loopback at the chosen depth, or is refused. -/
  | loopbackStart (via : Via) (k : Nat) (v : Nat)
  /-- LOOPBACK_END (R616). A loopback run ends at its duration and is classed passed or failed. -/
  | loopbackEnd (k : Nat) (res : LoopResult)
  /-- SPARE_MAP_RESET (R620). A test-mode write of 0x9040:01 clears stored spares and retirements from the next Proving. -/
  | spareMapReset (via : Via) (v : Nat)
  /-- STALL_TILE_SELECT (R625). A write of 0x9060:01 selects the tile counted in 0xA250 and clears it. -/
  | stallTileSelect (via : Via) (v : Nat)
  /-- LOG_CLEAR (R481). A maintainer write of 0x8000:04 empties the error log. -/
  | logClear (via : Via) (v : Nat)
  /-- DEADLINE_MISS (R218). A deadline-class stream whose slack reaches 0 while a request still waits counts one deadline miss in the pennant's stream counters. -/
  | deadlineMiss (t : TileRef) (id : Nat)
  deriving DecidableEq, Repr

end Sys2Proof
end

