-- ==== Sys2Proof/Decode.lean ====
section
/-! DEFINITION. The words of the table's rows. -/

namespace Sys2Proof

/-- The command a word spells. The rows of the table are operations and events and give no bits, so no word spells one. -/
def decodeTableWord (_nbits _w : Nat) : Option Instr := none

end Sys2Proof
end

