-- ==== Sys2Proof/Config.lean ====
section
/-! DEFINITION. What one module fixes and the manual leaves open: free values (no body, so no proof can see them). -/

namespace Sys2Proof.Config

/-- Which of the two FP32 values nearest the exact result a special function gives (R160): operation, operands.
True: the upper one. Operations: 0 rcp, 1 rsqrt, 2 div. -/
opaque pickUpper : Nat → Word32 → Word32 → Bool
/-- Offset of exp2, exp and sigmoid inside the range their accuracy allows (R160): operation 0, 1, 2. -/
opaque within : Nat → Word32 → Nat
/-- The word a comparison writes for a predicate that holds or does not hold (04 gives none). -/
opaque compareWord : Bool → Word32
/-- What a selection does on a mask word that no comparison writes. -/
opaque selects : Word32 → Bool

/-- The deterministic random bit generator's output for a request number: its seed comes from an entropy source (R502). -/
opaque drbg : Nat → BitVec 512
/-- Fuse entries: SHA-384 of vendor key n (R517), the root secret the storage key comes from, and the private scalar of the
ensign key (R501). -/
opaque vendorKeyHash : Nat → BitVec 384
opaque rootSecret : List Byte
opaque ensignKey : BitVec 384
/-- Whether a vendor unlock is signed under R516 and binds a serial number and a boot nonce (R550), and the ephemeral
public key it carries; its layout is in vendor documents. -/
opaque vendorUnlockOk : List Byte → Word64 → Word64 → Bool
opaque vendorUnlockKey : List Byte → List Byte
/-- Dictionary revision of a firmware build (R556). -/
opaque dictionary : Nat → Nat
/-- Ensign certificate chain of the module (R501). -/
opaque ensignChain : List Byte

/-- The row of a stack bank or cartridge channel that a unit lies in (08 gives no row size). -/
opaque rowOf : Nat → Nat
/-- The fixed hash that picks a cache set (R309). -/
opaque cacheSet : Nat → Nat
/-- Which of the FP64 words within 1 ulp of the exact result the guidon's fixed functions give (R380): operation (0 sqrt,
1 cospi, 2 powr), operands. -/
opaque within64 : Nat → Word64 → Word64 → Nat
/-- Whether an elimination step of the LDLᵀ factorisation, a − l · u, is one fused operation or a product and a difference,
each rounded (R376 fixes its order and R352 that every operator rounds once; neither says which operators it has). -/
opaque ldlFused : Bool
/-- Codes of the scan instructions SAMPLE/PRELOAD, EXTEST, IDCODE, CLAMP and HIGHZ (0 to 4) for an instruction register of a
length (17 gives none). -/
opaque scanCode : Nat → Nat → Nat
/-- Whether an MRST_N low of 1 to 10 microseconds resets the module (R638). -/
opaque shortMrst : Nat → Bool
/-- Whether a clock is on REFCLK± when the module looks for one (R642); no row carries the level of that pin. -/
opaque refclk : Nat → Bool
/-- The scale entry of a block of a converting stream's scaled source (06 gives no place): descriptor, pass, block. -/
opaque streamScale : BitVec 256 → Nat → Nat → BitVec 16

end Sys2Proof.Config
end

