-- ==== Sys2Proof/Machine/State.lean ====
section
/-! DEFINITION. The state of the module: every register, table, queue, counter and memory the manual gives it, the
queue of waiting commands, and the state at first power. -/

namespace Sys2Proof.Machine

/-- Why a command stops the model. No command of the manual does: every fault of the module is an effect on its
state (R437). -/
inductive Fault where
  /-- Raised by no command; the type needs a constructor of its own name. Safe: a run that stopped here would only
  prove less. -/
  | none
  deriving DecidableEq, Repr

/-- Why the model has no meaning for a command. -/
inductive Refusal where
  /-- Raised by a dispatch arm whose meaning is not written yet. Safe: the command then proves nothing. -/
  | notModelled (mnemonic : String)
  deriving DecidableEq, Repr

/-- A sparse table in rising key order; an absent key reads as the value its reader names. -/
abbrev Tbl (α : Type) := List (Nat × α)

/-- An addressed memory: cells in strictly rising address order, none holding 0; an unlisted byte reads 0. -/
abbrev Mem := List Host.Cell

/-! ### Timing (02) -/

/-- Calibration of a replica oscillator (Tables 2.4, 2.5). -/
structure Osc where
  rate : Nat := 0
  count : Nat := 0
  mv : Nat := 0
  junction : Int := 0
  failed : Bool := false
  inWindow : Bool := false
  valid : Bool := false
  deriving DecidableEq, Repr, Inhabited

/-- A correction of a crossing by a region controller (R76): the pair, the side being lowered, whether temperature was
exceeded, the peak differences (mV, 0.125 degrees C), the caps in force (domain, mV), widened mode, and whether it is
`held`: no side is being lowered. A new excess lowers again under the caps that stand. -/
structure Correction where
  q : Nat
  a : Nat
  b : Nat
  fast : Nat
  tempEx : Bool
  peakV : Nat
  peakT : Nat
  caps : Tbl Nat := []
  widened : Bool := false
  held : Bool := false
  deriving DecidableEq, Repr, Inhabited

/-- A crossing between two domains (R75, R78): whether it is frozen and the side that was faster then, the steps its
slower side has taken towards the next transfer, the transfers completed, and whether its faster side waits with a
request for the next one. -/
structure Crossing where
  a : Nat
  b : Nat
  frozen : Bool := false
  fast : Nat := 0
  steps : Nat := 0
  moved : Nat := 0
  waiting : Bool := false
  deriving DecidableEq, Repr, Inhabited


/-! ### Error log, mirror and recovery (12) -/

/-- The error log (R479 to R481). -/
structure Log where
  recs : List LogRec := []          -- newest first, at most 1,024
  next : Nat := 0                   -- RECORD_NO of the next record, modulo 2^32
  newest : Nat := 0
  lost : Nat := 0
  deriving DecidableEq, Repr, Inhabited

/-- Mirror and recovery settings (Table 13 of 12). -/
structure RecSettings where
  digestWait : Nat := 0x80000000
  reloadRate : Nat := 90
  strikeLimit : Nat := 3
  strikeWindow : Nat := 24
  deriving DecidableEq, Repr, Inhabited

/-- The spare map (Table 12.15), with the logical tile each mapped spare serves, the spare rows in use per bank
key and the pseudo-channels moved (R450). -/
structure SpareMap where
  spares : Tbl Nat := []            -- 16q+g ↦ logical tile served by the spare (R444)
  retired : List Nat := []          -- groups 16q+g
  withdrawn : List Nat := []        -- granules
  lasting : List Nat := []          -- those withdrawn by a retirement kept in flash (R450)
  chipsFailed : List Nat := []
  resetPending : Bool := false      -- R620
  waiting : List Nat := []          -- logical tiles (320q+20g+t) with a lasting fault, awaiting the spare (R444)
  deriving DecidableEq, Repr, Inhabited

/-- Recovery counters of a slot (Table 12.16). -/
structure RecCtrs where
  retries : Nat := 0
  transients : Nat := 0
  compared : Nat := 0
  mismatches : Nat := 0
  rollbacks : Nat := 0
  lone : Nat := 0
  deriving DecidableEq, Repr, Inhabited

/-- A digest record's content (Table 12.5). -/
structure Digest where
  kind : PassKind
  attempt : Nat := 0
  replay : Bool := false
  block : Nat := 0
  mb : Nat := 0xFFFF
  tensor : Nat := 0
  chip : Nat := 0
  step : Nat := 0
  words : Nat := 0
  lane0 : BitVec 128 := 0
  lane1 : BitVec 128 := 0
  deriving DecidableEq, Repr, Inhabited

/-- Steps of a rollback (Table 12.8): targets are exchanged, self-test runs (R618), chunks are restored, resume is
awaited. -/
inductive RbStep where
  | idle | targets | testing | restoring | awaiting
  deriving DecidableEq, Repr, Inhabited

/-- Steps of a rejoin (Table 12.10): the boundary is agreed, the source's shards reach it, the copies move, step E runs
while shard state moves. -/
inductive RjStep where
  | idle | boundary | ready | copies | running
  deriving DecidableEq, Repr, Inhabited

/-- Mirror state of a slot (Table 12.14, R455 to R473). Parts are (TENSOR_ID, CHIP, PART). -/
structure Mirror where
  state : MirrorState := .notMirrored
  partner : Word64 := 0
  restart : Nat := 0
  target : Nat := 0
  source : Nat := 0xFF
  rb : RbStep := .idle
  rbTarget : Nat := 0
  pending : Bool := false           -- a rollback is pending (R497)
  loneRb : Bool := false            -- it runs without the partner
  reported : List (Nat × Nat) := [] -- modules (ring, position) whose TARGET has arrived
  need : List (Nat × Nat × Nat) := []   -- words awaited from the partner: chip, shard, words
  testing : Bool := false           -- the rollback follows 0x8312 or 0x8316 (R459)
  lastDis : Option Nat := none      -- rollback target of the last disagreement (R460)
  rj : RjStep := .idle
  rjSource : Bool := false          -- this module is on the source ring
  boundary : Nat := 0
  todo : List (Nat × Nat × Nat) := []   -- parts not yet matched at the target
  rx : List ((Nat × Nat × Nat) × List Code160) := []   -- words received of parts under way
  remote : List Digest := []        -- the partner's unpaired records (R455)
  lateDigests : Nat := 0            -- R456: discarded and counted
  probing : Bool := false
  deriving DecidableEq, Repr, Inhabited

/-! ### Power and the dip (15) -/

/-- A power domain (Tables 15.12, 15.13) with its controllers' marks. -/
structure Domain where
  state : DomState := .off
  mv : Nat := 0
  thermal : Bool := false
  cap : Bool := false
  critical : Bool := false
  junction : Int := 0
  mw : Nat := 0
  since : Nat := 0                  -- samples since the last raise (R561)
  deriving DecidableEq, Repr, Inhabited

/-- Power settings and status (Tables 15.10, 15.11) with the controllers' own state. -/
structure Power where
  capW : Nat := 2450
  targetMv : Nat := 720
  vin : Nat := 0
  inW : Nat := 0
  dieW : Nat := 0
  hottest : Int := 0
  inlet : Int := 0
  outlet : Int := 0
  bankMv : Nat := 0
  ride : Nat := 0
  switchOn : Bool := false          -- the input switch (R631)
  railsUp : Bool := false           -- the sequence of Table 15.4 has begun
  stopped : Bool := false           -- R563: Dark until the input has been absent
  capOn : Bool := false             -- R565: the cap is engaged
  coolantHigh : Bool := false
  deriving DecidableEq, Repr, Inhabited

/-- The newest dip (0x2800) and the bank (0x2810). -/
structure DipObj where
  dips : Nat := 0
  cause : DipCause := .none
  sections : Nat := 0
  energy : Nat := 0
  duration : Nat := 0
  bankEnd : Nat := 0
  deriving DecidableEq, Repr, Inhabited

structure Bank where
  uF : Nat := 0
  mOhm : Nat := 0
  mJ : Nat := 0
  outcome : Nat := 0
  cycles : Nat := 0
  refused : Bool := false           -- under R9
  late : Bool := false              -- step 7 of Table 15.4 missed its bound
  drained : Bool := false           -- a dip has been drawn from it since the last Proving (R579)
  deriving DecidableEq, Repr, Inhabited

/-! ### Module, identity and test (00, 16, 17, 18) -/

/-- Identity memory object (Table 16.13). -/
structure IdObj where
  status : Nat := 0
  copy : Nat := 0xFF
  contents : List Byte := []
  deriving DecidableEq, Repr, Inhabited

/-- Pins sampled as levels (R633, R635): PRSNT_N, and the straps as Proving sampled them. -/
structure Pins where
  prsnt : Bool := true
  ringSel : Nat := 0
  slotId : Nat := 1
  refclk : Bool := false            -- a clock was on REFCLK± at power-on or at the last PERST# release (R642)
  deriving DecidableEq, Repr, Inhabited

/-- The module's own registers. -/
structure Module where
  state : ModState := .dark
  boundaryScan : Bool := false
  limited : Bool := false           -- Struck under R592: limited service
  nonce : Word64 := 0
  ref : Nat := 0                    -- 0x2010:01
  causes : List Nat := []           -- Half-mast causes recorded since Proving began (codes)
  serial : Word64 := 0
  ordering : List Byte := [0x43, 0x4C, 0x2D, 0x39, 0x36, 0x30, 0x2D, 0x41, 0x34]
  boardRev : Nat := 0x43
  stepping : Nat := 0xB0
  fwVersion : Nat := 0
  accepted : List Bool := [false, false, false, false]   -- cartridges
  ids : Tbl IdObj := []             -- m of 0x1100 + m
  ringClash : Bool := false         -- R601
  cleanSince : Bool := true         -- R595: nothing of its fourth line logged since the last full test
  located : List Nat := []          -- reference counts of located faults (R475)
  bscanLogged : Bool := false       -- 0x9105 has been logged since Proving (R621)
  deriving DecidableEq, Repr, Inhabited

/-- Proving settings and report (Table 16.14). -/
structure Prov where
  force : Bool := false
  interval : Nat := 16
  since : Nat := 0
  serials : List Word64 := []       -- bank and cartridges at the last full test
  path : Nat := 0
  lastStep : Nat := 0
  failures : Nat := 0
  refEnd : Nat := 0
  badPorts : List Nat := []         -- ports whose loopback, or whose group, failed in this Proving (Table 16.3)
  deriving DecidableEq, Repr, Inhabited

/-! ### Numbers and cubes (03, 04) -/

/-- Format event counts (R94), summed over one operation before they reach the pennant's meters. -/
structure Events where
  invalid : Nat := 0
  overflow : Nat := 0
  saturate : Nat := 0
  nanBlock : Nat := 0
  deriving DecidableEq, Repr, Inhabited

/-- Seed object (Table 3.7a): the image seed and the accepted commits (commit step, seed), newest first; `pending` until
the newest commit's step has issued a forward pass. -/
structure Seed where
  image : Word64 := 0
  commits : List (Nat × Word64) := []
  inForce : Word64 := 0
  staged : Word64 := 0
  pending : Bool := false
  earlier : Word64 := 0
  earlierLast : Nat := 0xFFFFFFFFFFFFFFFF
  deriving DecidableEq, Repr, Inhabited

/-- An exact dyadic value m · 2^e. -/
structure Dy where
  m : Int
  e : Int
  deriving DecidableEq, Repr, Inhabited

/-- What the fly lane holds of one output column of a drained fragment (R151 to R153). -/
structure ColCheck where
  support : Bool        -- every value of the support, r and A are finite
  r : Dy
  mag : Dy
  sumOk : Bool          -- every accumulator of the column is finite
  c : Dy
  deriving DecidableEq, Repr, Inhabited

/-- A drained fragment whose check is not complete. -/
structure Check where
  pass : Nat
  attempt : Nat
  block : Nat
  product : Nat
  row0 : Nat
  col0 : Nat
  groups : Nat
  cols : List ColCheck
  deriving DecidableEq, Repr, Inhabited

/-! ### Tiles, streams and queues (05, 06) -/

/-- State of a credit unit (R187): `held` names the holding logical tile, its handle and the pass it writes
for. -/
inductive UnitState where
  | free | held (tile handle pass : Nat) | full
  deriving DecidableEq, Repr, Inhabited

/-- A queued credit request (R187): writer's logical tile, its handle, range. -/
structure CreditReq where
  tile : Nat
  handle : Nat
  pass : Nat
  first : Nat
  count : Nat
  deriving DecidableEq, Repr, Inhabited

/-- A receive area's units, its queue of at most 16 requests, the requests that wait for a place in it (R189), and the logical
tile that delivered each full unit, plus one (R255). -/
structure Area where
  units : List UnitState
  queue : List CreditReq := []
  late : List CreditReq := []
  src : Tbl Nat := []
  deriving DecidableEq, Repr, Inhabited

/-- An active stream of a stream unit (R210 to R214, R225, R241). -/
structure Stream where
  id : Nat
  desc : BitVec 256
  pass : Nat
  slot : Nat
  step : Nat := 0                   -- of its pass
  mb : Nat := 0
  done : Nat := 0                   -- bytes completed
  sent : Nat := 0                   -- bytes whose transfers have been issued
  granted : Nat := 0                -- issued transfers that have been granted every resource on their path
  part : List Code160 := []         -- words of a message under way
  passed : Nat := 0                 -- sections passed by SADV
  age : Nat := 0                    -- ticks of the consumer's group since issue
  filled : Bool := false            -- FILL_EVENT raised
  tags : Nat := 0                   -- DMA tags held (one per transfer in flight)
  deepTags : Nat := 0               -- of them, those taken in deep mode
  leased : Bool := false
  stale : List Nat := []            -- stale units of a lease, by index from the first
  wrote : Bool := false             -- 0x6144 logged for this lease (R228)
  answers : List (Nat × Nat × Nat) := []  -- window writes awaiting an answer: sequence, offset, length
  nextSeq : Nat := 0
  held : Bool := false              -- an output that waits for its pass's release (R235, R264)
  drain : Nat := 0                  -- DRAIN_RATE in force
  missed : Bool := false
  due : Nat := 0                    -- SADVs on an input that wait for the pass's release (R255)
  seen : List (Nat × Nat) := []     -- byte ranges an operation has read in sections not yet passed (R228)
  wrote32 : Nat := 0                -- bytes the producer has written in the current outbound section (R215)
  conv : Option Word64 := none      -- conversion control word, read at issue (R110)
  src : Option Nat := none          -- stack address in force where it is not the descriptor's (R272)
  base : Nat := 0                   -- logical index of its first element, and the tensor's row length (R118)
  rowLen : Nat := 0
  cin : List Byte := []             -- source bytes not yet converted
  cdone : Nat := 0                  -- source elements converted
  cout : List Byte := []            -- converted bytes that still wait
  moved : Nat := 0                  -- converted bytes that have left, or have entered the buffer
  skipped : List (Nat × Nat) := []  -- transfers that wait at a bank: offset, length (R223)
  stuck : Bool := false             -- its next transfer has been counted as waiting for the pool or its engine (R223)
  deriving DecidableEq, Repr, Inhabited

/-- A handle operation of a tile program (R179, R184, R193): its pass, the entry (128: the lowest invalid one), the code word
of the scratchpad that holds its 128-bit image (none: HCLEAR), and the code word that takes HALLOC's number. -/
structure HWait where
  pass : Nat
  n : Nat
  image : Option Nat
  result : Nat
  deriving DecidableEq, Repr, Inhabited

/-- A tile: scratchpad, handle table, window registers, credit keeper, streams, fly lane (05). -/
structure Tile where
  mem : Mem := []
  handles : Tbl (BitVec 128) := []
  windows : Tbl (BitVec 128) := []
  areas : Tbl Area := []
  events : List Nat := []
  streams : List Stream := []
  queued : List (OpCtx × BitVec 256) := []    -- stream issues that wait for a free place (R210)
  checks : List Check := []
  conflicts : List (Nat × Nat) := []          -- attempts whose 0x6131 is logged: pass, attempt (R203)
  waits : Tbl Nat := []                       -- cause an engine's oldest request carries: 0 cubes, 1 lane, 2 stream
  cur : Nat := 0                              -- pass whose product the cubes took last (R515)
  hwaits : List HWait := []                   -- entry writes that wait, oldest first
  plan : List (List BankAccess) := []         -- scheduled accesses of the issue steps to come (R201)
  issue : Nat := 0                            -- issue steps taken (R205)
  accs : List (List Word32) := []             -- accumulator sets: set k of cube n at 16k + n, 64 values row by row (R127)
  drain : Nat := 0                            -- cube steps that the product's short fragments wait for the result path (R127)
  deriving DecidableEq, Repr, Inhabited

/-- An arbitrated request (R237 to R241): the slot it serves (16: module), the requesting tile (10,000 + n: the queue engine
for queue n), its stream, for each transfer of its burst still to come the resources on its path from this one on, the
transfers of the burst, and those granted so far. -/
structure ArbReq where
  slot : Nat
  tile : Nat
  stream : Nat
  paths : List (List Nat)
  burst : Nat := 1
  done : Nat := 0
  deriving DecidableEq, Repr, Inhabited

/-- An arbiter: its last served slot, running grant count, waiting requests in the order in which their current
transfers began to wait. -/
structure Arbiter where
  last : Nat := 16
  count : Nat := 0
  reqs : List ArbReq := []
  holder : Option (Nat × Nat) := none         -- the request served last where its burst goes on: tile, stream
  deriving DecidableEq, Repr, Inhabited

/-- A bunting queue (R229 to R236). Messages are lists of 160-bit code words, oldest first. -/
structure Queue where
  desc : BitVec 192
  slot : Nat
  head : List (List Code160) := []
  mbs : List Nat := []      -- micro-batch index of each message held, oldest first (R252)
  middle : List Nat := []   -- messages of each page, oldest first; their bytes lie in the stack region of the middle
  start : Nat := 0          -- byte of the middle at which the oldest page begins
  part : List Code160 := []   -- words of a message that is arriving from a port
  tail : List (List Code160) := []
  credit : Nat := 0
  armed : Bool := false
  high : Nat := 0
  spilled : Nat := 0
  partials : Nat := 0
  short : Nat := 0          -- messages of a partial tail that is emitted as a short page, 0: none (R233)
  move : Option PageDir := none       -- the page move that the queue engine has asked for
  engine : Bool := false              -- its engine has granted it
  flying : List (Nat × Nat) := []     -- its transfers that hold tags: stack, unit
  todo : List (Nat × Nat) := []       -- its transfers that wait for a tag
  granted : Nat := 0                  -- its transfers that have been granted their path
  counted : Bool := false             -- its wait for a tag has been counted
  deriving DecidableEq, Repr, Inhabited

/-- Tag counters and pools of a quarter (Table 6.9, R222). -/
structure TagPool where
  inUse : Nat := 0
  banks : Tbl Nat := []             -- tags per target bank, 4096·stack + 64·pch + bank
  deepUse : Nat := 0
  peak : Nat := 0
  poolWaits : Nat := 0
  bankWaits : Nat := 0
  atCap : Nat := 0
  deriving DecidableEq, Repr, Inhabited

/-- Scratchpad counters of a tile group (Table 5.9). -/
structure GroupCtrs where
  sched : Nat := 0
  unsched : Nat := 0
  refusals : Nat := 0
  expiries : Nat := 0
  misuse : Nat := 0
  deriving DecidableEq, Repr, Inhabited

/-- Stream counters of a slot (Table 6.10). -/
structure StreamCtrs where
  misses : Nat := 0
  refetches : Nat := 0
  consumed : Nat := 0
  partials : Nat := 0
  withdrawals : Nat := 0
  reserved : Nat := 0
  late : Nat := 0
  deriving DecidableEq, Repr, Inhabited

/-! ### Block execution (07) -/

/-- A pass context (R251) with what R255 holds for it. -/
structure Pass where
  id : Nat
  slot : Nat
  kind : PassKind
  block : Nat := 0
  mb : Nat := 0
  step : Nat := 0
  tensor : Nat := 0                 -- gather passes
  homeQ : Nat := 0
  attempt : Nat := 0
  abandoned : Bool := false         -- the current attempt is abandoned
  faults : List ErrRec := []        -- the RETRY faults met, one per attempt, oldest first
  spared : Bool := false            -- a spare was mapped for attempt 1's fault
  reserve : Bool := false           -- it holds the fallback reserve (R260)
  stashed : Tbl (List Code160) := []  -- stash or gather words written, by 256·tile + STREAM_INDEX (R454)
  digest : Option Digest := none
  original : Option Digest := none  -- the record that mismatched (R458)
  partner : Option Digest := none
  matched : Bool := false           -- digest compare passed
  replaying : Bool := false         -- the replay of R458
  replayDue : Bool := false         -- the replay has not issued
  outs : List (Nat × PushMsg) := [] -- a gather pass's pushes: chip, message
  cubes : Nat := 0                  -- cube steps of the current attempt (R515)
  ran : Tbl Nat := []               -- descriptors of its op lists issued in this attempt, by logical tile (R248, R256)
  rels : List (TileRef × Nat × Nat × Nat) := []  -- releases of input units that wait for the pass's: tile, area, first, count
  waitTicks : Bool := false         -- waits for the partner's record (R456)
  deriving DecidableEq, Repr, Inhabited

/-- A stash reservation of a micro-batch (R258). -/
structure Resv where
  step : Nat
  mb : Nat
  fallback : Bool
  pages : Nat                       -- pages still reserved
  deriving DecidableEq, Repr, Inhabited

/-- Where the stash of a block and micro-batch lies: a scratchpad slot, or stack pages numbered from REGION_ADDR
(R257). -/
structure StashEnt where
  block : Nat
  mb : Nat
  step : Nat
  slot : Option Nat
  pages : List Nat
  deriving DecidableEq, Repr, Inhabited

/-- Block sequencer state of a slot (Table 7.7, R252 to R275). -/
structure Sequencer where
  step : Nat := 0                   -- highest step reached (that of the next forward pass before any has issued)
  newest : Nat := 0                 -- step of the newest forward pass issued, 0x6200 + p:01
  mbPerStep : Nat := 0
  pages : Nat := 0
  high : Nat := 0
  full : Nat := 0
  fall : Nat := 0
  recomputes : Nat := 0
  permits : Nat := 0
  vwaits : Nat := 0
  start : Nat := 0                  -- s₀
  issued : Bool := false            -- a forward pass has issued since load or resume
  nextMb : Nat := 0                 -- micro-batches begun since s₀ (R253)
  clips : Nat := 0                  -- clips committed since load or resume
  clipNo : List (Nat × Nat) := []   -- clip number of micro-batch 0 of a step
  resv : List Resv := []
  stash : List StashEnt := []
  fwd : List (Nat × Nat × Nat) := []  -- forward passes released: block, mb, step
  bwd : List (Nat × Nat × Nat) := []  -- backward passes released
  vwait : List (Nat × Nat × Nat) := []           -- forward passes counted as waiting under R272
  cwait : List (Nat × PassKind) := []            -- blocks whose next pass of a kind waits for a context or the reserve (R251, R260)
  retired : List (Nat × Nat × Nat) := []         -- block, step, count
  versions : Tbl Nat := []          -- released version per trainable set
  doneFrom : List (Nat × Nat × Nat) := []        -- DONE received: tensor, step, chip
  permitted : List (Nat × Nat) := []             -- permits sent: tensor, step
  gathered : List (Nat × Nat × Nat) := []        -- gather passes pushed: tensor, mb, step
  stopped : Bool := false           -- R262, R204: issues nothing further
  byHost : Bool := false            -- halted as R262 describes: nothing is released and only the host resumes it
  reserveBy : Nat := 0              -- pass that holds the fallback reserve, 0: none
  deriving DecidableEq, Repr, Inhabited

/-! ### Memory tiers (08) -/

/-- A stack bank: power state and outstanding tags (R303, R305). -/
structure BankSt where
  state : BankState := .active
  tags : Nat := 0
  proposed : Bool := false
  offOk : Bool := false             -- the proposal may end in Off (R318: the setting as the bank was proposed)
  scrubbed : Bool := false          -- the pass under way has scrubbed it at a wake (R307)
  deriving DecidableEq, Repr, Inhabited

/-- A hoist lease entry at a logic die (R225). -/
structure Lease where
  tile : Nat
  stream : Nat
  units : List Nat                  -- physical unit addresses of this stack
  read : List Nat := []             -- those the hoist has read
  deriving DecidableEq, Repr, Inhabited

/-- A Tsuton stack with its logic die. -/
structure Stack where
  mem : Mem := []                   -- byte 20·(16·unit+word)+n, unit: bits [29:0] of Table 8.4
  used : List Nat := []             -- 4 KiB units whose fresh tag is clear
  keys : Tbl (BitVec 512) := []     -- key slots
  banks : Tbl BankSt := []          -- 64·pch + bank
  slotTags : Tbl Nat := []
  leases : List Lease := []
  notices : List (Nat × Nat × Nat) := []         -- stale notices on their way: tile, stream, unit
  spareRows : Tbl Nat := []         -- spare rows in use per bank
  rowCorr : Tbl Nat := []           -- corrections per row in this scrub period (R447)
  laneCorr : List (Nat × Nat × Nat) := []        -- pseudo-channel, byte lane, unit (R448)
  moving : Option Nat := none       -- pseudo-channel whose copy to PC32 runs
  pc32 : Nat := 0                   -- 0: unused, else 1 + replaced pseudo-channel
  scrubAt : Nat := 0                -- next unit
  scrubOn : Bool := false
  corrected : Nat := 0
  transients : Nat := 0
  poisoned : Nat := 0
  poisonReads : Nat := 0
  passes : Nat := 0
  overruns : Nat := 0
  wakes : Nat := 0
  deriving DecidableEq, Repr, Inhabited

/-- A line of a quarter cache (R309): set, way, unit it holds, sectors valid, code words of the unit. -/
structure Line where
  set : Nat
  way : Nat
  stack : Nat
  unit : Nat
  words : List Code160
  sectors : BitVec 8 := 0xFF#8      -- valid bits of its 32-byte sectors
  deriving DecidableEq, Repr, Inhabited

/-- A pending fill (R312). -/
structure Fill where
  slot : Nat
  stack : Nat
  unit : Nat
  word : Nat
  words : List Code160              -- as read when the fill was requested
  met : Bool := false               -- a write met it: not installed
  deriving DecidableEq, Repr, Inhabited

/-- Cache counters (Table 8.10). -/
structure CacheCtrs where
  hits : Nat := 0
  misses : Nat := 0
  notInstalled : Nat := 0
  corrected : Nat := 0
  refetched : Nat := 0
  deriving DecidableEq, Repr, Inhabited

/-- A quarter cache. -/
structure Cache where
  lines : List Line := []
  plru : Tbl (BitVec 15) := []      -- tree bits per set
  fills : List Fill := []
  ctrs : CacheCtrs := {}
  deriving DecidableEq, Repr, Inhabited

/-- An Ozsavex cartridge with its controller. -/
structure Cart where
  mem : Mem := []                   -- byte 20·(16·unit+word)+n, unit: channel in [33:30], unit in [29:0]
  used : List Nat := []             -- 64 KiB units whose fresh tag is clear
  cleared : List Nat := []          -- quarters whose fresh tags are all clear (Table 16.2, step 8)
  toWrite : List (Nat × Nat) := []  -- rows replaced since the spare map was written: channel, row
  rowCorr : Tbl Nat := []
  spareRows : Tbl Nat := []         -- spare rows in use per channel
  spareFree : Tbl Nat := []         -- free spare rows per channel, from the identity memory's spare map
  scrubAt : Nat := 0
  scrubOn : Bool := false
  corrected : Nat := 0
  poisoned : Nat := 0
  passes : Nat := 0
  overruns : Nat := 0
  deriving DecidableEq, Repr, Inhabited

/-- Memory settings (Table 8.8). -/
structure MemSettings where
  stackScrub : Nat := 8
  cartScrub : Nat := 24
  idle : Nat := 50000
  offAllowed : Bool := true
  deriving DecidableEq, Repr, Inhabited

/-! ### Reduction and Bortis chips (09, 10) -/

/-- Progress of a bucket at this module (R338 to R343). -/
structure Bucket where
  desc : BitVec 128
  base : Int := -1                  -- last step completed at load, rollback or restore (R342)
  lastSum : Int := -1               -- last step whose sum this module, as owner, has completed
  lastRes : Int := -1               -- last step whose result has been applied
  held : List (Nat × Nat × RedMsg) := []         -- complete contributions: step, position, message
  pending : List (Nat × Nat × RedMsg) := []      -- E4M3 contributions whose resend is awaited
  summed : List Nat := []           -- positions already added for step lastSum + 1
  acc : List Word32 := []
  amax : List (List Nat) := []      -- AMAX codes of the contributions added
  resHeld : List (Nat × RedMsg) := []            -- complete results of the step after the next
  resPending : List (Nat × RedMsg) := []         -- E4M3 results whose resend is awaited
  scaleC : List Nat := []           -- contribution scale per wire block, 0xFF: none agreed
  scaleR : List Nat := []
  withheld : List Nat := []         -- steps withheld under R339
  resent : List (Nat × Nat) := []   -- contributions whose resend came before what it replaces: step, position (R342)
  resentRes : List Nat := []        -- results, likewise
  deriving DecidableEq, Repr, Inhabited

/-- Counters of Table 9.9. -/
structure RedCtrs where
  c1 : Nat := 0
  c2 : Nat := 0
  c3 : Nat := 0
  c4 : Nat := 0
  c5 : Nat := 0
  c6 : Nat := 0
  deriving DecidableEq, Repr, Inhabited

/-- The bookkeeping of one shard: its descriptor, count, accumulation, owner exchange and write-back (10). Its tensors
lie in the state area (R360). -/
structure Shard where
  desc : BitVec 640
  count : Nat := 0
  mb : Nat := 0                     -- micro-batches complete of the step the accumulator takes
  added : Nat := 0                  -- elements, or pushes where SPARSE, added of the micro-batch under way
  accRead : Bool := false           -- the update of step `count` has read the accumulator (R344)
  updating : Bool := false          -- between round 0 and the end of the update
  round : Nat := 0
  sentEx : List (Nat × ExMsg) := [] -- exchange messages on their way to another owner, oldest first: chip, message
  inbox : List (Nat × ExMsg) := []  -- source chip, message
  begun : Nat := 0                  -- 1 + the highest step whose update has begun (R382)
  withheld : Bool := false
  permits : Tbl Nat := []                        -- permits held, by step: stack address of the target copy
  awaitRes : Bool := false          -- with N ≥ 2: updated, the exchange's result not applied (R347)
  wbPending : Bool := false         -- updated, working copy not written
  wbRows : List Nat := []           -- touched rows of that update
  digest : Option Digest := none    -- update record that awaits its compare (R455)
  partner : Option Digest := none
  doneStep : Option Nat := none     -- version of the DONE on its way
  retStep : Option Nat := none      -- the retention area holds the start of this step (R463)
  torn : Bool := false
  exported : Option Nat := none     -- step whose export still sends the shard (R366)
  reload : Bool := false            -- its state has not matched in a rejoin (R472)
  owed : Bool := false              -- rejoin source: its state has not been sent
  saturated : Bool := false         -- 0x7102 has been logged
  deriving DecidableEq, Repr, Inhabited

/-- A Bortis chip: its state enumeration, settings and key slots. -/
structure Chip where
  state : Nat := 0
  keys : Tbl (BitVec 512) := []
  applied : Nat := 0
  high : Nat := 0
  lost : Nat × Nat × Bool := (0, 0, false)  -- the last word it could not use: unit, word, on a stack (R322)
  deriving DecidableEq, Repr, Inhabited

/-- A push in a hold area (R365): its first byte there, its header, the code words that follow the header's two, and what the
tier-link group added. The words themselves lie in the state space. -/
structure HeldPush where
  at_ : Nat
  hdr : BitVec 256
  words : Nat
  step : Nat
  mb : Nat
  deriving DecidableEq, Repr, Inhabited

/-- What a pennant has on one chip. -/
structure ChipSlot where
  header : BitVec 256 := 0
  retention : BitVec 128 := 0
  shards : List Shard := []
  hold : List HeldPush := []        -- the pushes in its hold area (R365)
  deriving DecidableEq, Repr, Inhabited

/-- Updater counters of a slot (Table of R390). -/
structure UpdCtrs where
  c1 : Nat := 0
  c2 : Nat := 0
  c3 : Nat := 0
  c4 : Nat := 0
  c5 : Nat := 0
  c6 : Nat := 0
  deriving DecidableEq, Repr, Inhabited

/-- A guidon schedule with its commit (R382, R388). -/
structure SchedSt where
  inForce : Sched := {}
  start : Nat := 0                  -- step from which it applies
  earlier : Sched := {}             -- what applies below that step
  staged : Sched := {}
  committed : Sched := {}           -- the staged values at the commit that waits
  commitStep : Nat := 0
  pending : Bool := false
  deriving DecidableEq, Repr, Inhabited

/-! ### Halyard (11) -/

/-- A Halyard port (R394 to R416, Tables 11.13 to 11.15). -/
structure Port where
  state : LinkState := .noLight
  light : Bool := false
  step : Nat := 0                   -- training step (Table 11.7)
  run : Nat := 0                    -- codewords decoded in a row in step 2
  tries : Nat := 0                  -- training attempts of this series
  version : Nat := 0
  features : Nat := 0
  peerRing : Nat := 0xFF
  peerPos : Nat := 0xFF
  peerSerial : Word64 := 0
  unacked : List (Nat × List (BitVec 256)) := []
  nextSeq : Nat := 0
  expect : Nat := 0
  retryReq : Bool := false          -- the expected codeword has failed and its resend is awaited
  rxLeft : Nat := 0                 -- units of the packet under way still to arrive
  free : List Nat := [0, 0, 0, 0, 0, 0, 0, 0]    -- freed units not yet returned, per VC
  credits : List Nat := [0, 0, 0, 0, 0, 0, 0, 0] -- sender credits per VC
  sendQ : List Packet := []
  weights : List Nat := [8, 4, 1, 0, 0, 8, 1, 2] -- weights in force, taken at its last training (R431)
  rr : Nat := 0                     -- virtual channel whose turn it is (R410)
  deficit : List Nat := [0, 0, 0, 0, 0, 0, 0, 0] -- units each channel may still send in its turns
  since : Nat := 7                  -- packets sent since the last of VC 3 or 4
  heldRx : List Packet := []        -- packets waiting in the receive buffer for queue credit
  downs : Nat := 0
  ctrs : List Nat := [0, 0, 0, 0, 0, 0, 0, 0]
  deriving DecidableEq, Repr, Inhabited

/-- Ring object 0x5000 and the module's own position. -/
structure Ring where
  strap : Nat := 0
  ring : Nat := 0
  pos : Nat := 0xFF
  bypass : Nat := 0
  joinHold : Nat := 0
  permit : Bool := false
  epoch : Nat := 0
  version : Nat := 0
  hint : Nat := 0xFF
  deriving DecidableEq, Repr, Inhabited

/-- Link settings 0x5020. -/
structure LinkSettings where
  credits : List Nat := [4096, 4096, 1024, 256, 256, 4096, 1024, 2048]
  weights : List Nat := [8, 4, 1, 0, 0, 8, 1, 2]
  hold : Nat := 100
  deriving DecidableEq, Repr, Inhabited

/-- The ingest stream of a slot (R426 to R429). -/
structure Ingest where
  declared : Option (BitVec 256) := none
  next : Option (BitVec 256) := none
  clip : Nat := 0                   -- the clip expected
  frame : Nat := 0                  -- and the next frame and word of it
  word : Nat := 0
  words : List Code160 := []        -- its uncommitted words
  committed : Nat := 0
  discarded : Nat := 0
  deriving DecidableEq, Repr, Inhabited

/-! ### Slots and security (13) -/

/-- Staged burgee fields (Table 13.8). -/
structure Staged where
  tenant : Nat := 0
  granules : Nat := 0
  rights : Nat := 0
  mirrored : Bool := false
  span : Nat := 0
  vcs : Nat := 0
  bortis : Nat := 0
  deriving DecidableEq, Repr, Inhabited

/-- Meters of a slot, subindexes 0x01 to 0x13 of Table 13.9. -/
structure Meters where
  v : List Nat := List.replicate 19 0
  deriving DecidableEq, Repr, Inhabited

/-- A release record (R513). -/
structure RelRec where
  v : List Nat := List.replicate 19 0
  snap : Nat := 0
  ref : Nat := 0
  tenant : Nat := 0
  grant : Nat := 0
  deriving DecidableEq, Repr, Inhabited

/-- Scratchpad policy (Table 5.8). -/
structure Policy where
  conflictHalt : Bool := false
  hold : Nat := 65536
  answer : Nat := 16777216
  deriving DecidableEq, Repr, Inhabited

/-- An attestation nonce and report (R519). -/
structure Attest where
  nonce : Option (List Byte) := none
  report : List Byte := []
  done : Nat := 0
  deriving DecidableEq, Repr, Inhabited

/-- A shard record of section 4. -/
structure ShardSave where
  p : Nat
  chip : Nat
  ix : Nat
  count : Nat
  torn : Bool
  saturated : Bool
  deriving DecidableEq, Repr, Inhabited

/-- What a pennant shares with a peer whose offer it has accepted: the salt and the X coordinate of R504. -/
structure Agreed where
  ring : Nat
  pos : Nat
  salt : BitVec 384
  secret : List Byte
  deriving DecidableEq, Repr, Inhabited

/-- An import under way (R474): the queue pair and command that wait for it, the image, the step, the parts to come with
their words, and the words received. -/
structure Import where
  qp : Nat
  id : Nat
  image : Image
  step : Nat
  todo : List ((Nat × Nat × Nat) × Nat)
  rx : List ((Nat × Nat × Nat) × List Code160) := []
  done : List ((Nat × Nat × Nat) × List Code160) := []
  deriving DecidableEq, Repr, Inhabited

/-- An export under way: the queue pair and command that wait for it, and the 64 KiB units sent. -/
structure Export where
  qp : Nat
  id : Nat
  step : Nat
  units : Nat := 0
  sent : List Nat := []             -- sets sent whose messages the store has not all acknowledged
  deriving DecidableEq, Repr, Inhabited

/-- A pennant slot. -/
structure Slot where
  state : SlotState := .free
  staged : Staged := {}
  last : Nat := 0
  burgee : BitVec 256 := 0
  grantNo : Nat := 0
  stackKey : Option (BitVec 512) := none
  cartKey : Option (BitVec 512) := none
  linkKeys : Bool := false
  digestKey : Option (BitVec 256) := none
  ckptKey : Option (BitVec 256) := none
  persist : Option (List Byte) := none          -- persistent key-store entry (wrapped key)
  agreed : List Agreed := []
  eph : Option (BitVec 384) := none -- ephemeral private key of an agreement under way (R503)
  offer : List Byte := []           -- the key offer sent to the peers
  meters : Meters := {}
  pj : Nat := 0                     -- energy below one microjoule, in pJ
  latched : Meters := {}
  snap : Nat := 0
  snapRef : Nat := 0
  release : RelRec := {}
  policy : Policy := {}
  attest : Attest := {}
  seed : Seed := {}
  seq : Sequencer := {}
  mirror : Mirror := {}
  image : Option Image := none
  measure : BitVec 384 := 0
  stage : Nat := 0
  replica : Nat := 0
  stages : Nat := 0
  replicas : Nat := 0
  thin : Nat := 0
  satLimit : Nat := 0
  buckets : List Bucket := []
  chips : Tbl ChipSlot := []
  scheds : List SchedSt := [{}, {}, {}, {}]
  ingest : Ingest := {}
  redoTo : Option Nat := none       -- highest step issued before the last rollback: steps up to it are re-run (R515)
  str : StreamCtrs := {}
  red : RedCtrs := {}
  upd : UpdCtrs := {}
  recC : RecCtrs := {}
  cacheC : CacheCtrs := {}
  imp : Option Import := none
  exp : Option Export := none
  saved : List ShardSave := []      -- the dip's shard records of a Restored slot
  deriving DecidableEq, Repr, Inhabited

/-- Firmware slots and security objects (Tables 13.11, 13.13). -/
structure Firmware where
  slots : List (Option FwImage) := [none, none]
  active : Nat := 0
  fusedMin : Nat := 0
  inactive : Nat := 0
  buf : List Byte := []             -- transfers of 0x3800:04 accumulated so far (R535)
  activate : Bool := false
  measure : BitVec 384 := 0
  intakePub : List Byte := []
  intakeSig : List Byte := []
  revoked : List Nat := []
  deriving DecidableEq, Repr, Inhabited

/-- Module-wide keys (Table 13.6): held or not. -/
structure Keys where
  storage : Option (BitVec 256) := none
  transport : Option (BitVec 256) := none
  module : Option (BitVec 512) := none
  intake : Option (BitVec 384) := none
  vendor : Option (BitVec 384) := none           -- the per-boot ephemeral key of 0xF000:02 (R550)
  session : Option (BitVec 256) := none          -- vendor session key
  deriving DecidableEq, Repr, Inhabited

/-! ### Signal book (14) -/

/-- A mailbox (Table 14.9, R538, R539). -/
structure Mailbox where
  irqEn : Bool := false
  done : Bool := false
  busy : Bool := false
  ignored : Nat := 0
  version : Nat := 0x0400
  reqHdr : List Byte := []
  reqData : List Byte := []
  respHdr : List Byte := []
  respData : List Byte := []
  deriving DecidableEq, Repr, Inhabited

/-- A completion or notification (Table 14.14). -/
structure Completion where
  code : Nat
  id : Nat
  head : Nat
  kind : Nat
  phase : Bool := true
  result : Nat := 0
  recNo : Nat := 0
  deriving DecidableEq, Repr, Inhabited

/-- A queue pair (Table 14.10). -/
structure QPState where
  sqBase : Nat := 0
  cqBase : Nat := 0
  sqLog : Nat := 0
  cqLog : Nat := 0
  enable : Bool := false
  sqHead : Nat := 0
  cqTail : Nat := 0
  sqTail : Nat := 0
  cqHead : Nat := 0
  dropped : Nat := 0
  phase : Bool := true
  held : List Completion := []      -- notifications waiting
  comp : Option Completion := none  -- a command completion waiting for ring space
  cmds : List (BitVec 512) := []    -- commands taken from the ring, oldest first
  ring : List Completion := []      -- entries written and not yet consumed, oldest first
  deriving DecidableEq, Repr, Inhabited

/-- A BLOB transfer in progress (R534). -/
structure BlobXfer where
  index : Nat
  sub : Nat
  via : Via
  next : Nat
  bytes : List Byte
  deriving DecidableEq, Repr, Inhabited

/-- Management transport (R546 to R551). -/
structure Mgmt where
  lastSeq : Tbl Nat := []           -- last SEQ accepted, by principal
  lastFrame : Tbl (List Byte) := [] -- last accepted frame, by principal
  lastResp : Tbl (List Byte) := []  -- and the response to it
  chassisKey : Option (List Byte) := none
  vendorOpen : Bool := false
  ctrs : List Nat := [0, 0, 0]      -- 0x1030:01 to 03
  silent : Bool := false
  deriving DecidableEq, Repr, Inhabited

/-! ### Test (17) -/

/-- A loopback object (R616). -/
structure Loopback where
  depth : Nat := 0
  duration : Nat := 4000
  status : Nat := 0
  run : Bool := false               -- a run is under way
  serv : Bool := false              -- in service (R614)
  units : Nat := 0
  errors : Nat := 0
  power : Int := 0
  deriving DecidableEq, Repr, Inhabited

/-- Stall object (Table 17.8): elapsed ticks and category counts of cubes, lane engines, stream units. -/
structure Stall where
  elapsed : Nat := 0
  cats : Tbl Nat := []              -- 16·kind + category, kind 1 cubes, 2 lanes, 3 streams
  deriving DecidableEq, Repr, Inhabited

/-- A device of the scan chain: its instruction register's length, its IDCODE, and the instruction selected (R622). -/
structure ScanDev where
  irLen : Nat
  code : BitVec 32
  ir : ScanInstr := .idcode
  deriving DecidableEq, Repr, Inhabited

/-- The scan chain in order from TDI (Table 17.6): the Eohar package, Bortis U0 to U3, Halyard optical groups 0 and 1, as a
reset of the test access port leaves it. -/
def scanChain : List ScanDev :=
  ⟨8, 0x10960573#32, .idcode⟩ :: (List.replicate 4 ⟨6, 0x10961573#32, .idcode⟩ ++ List.replicate 2 ⟨6, 0x10962573#32, .idcode⟩)

/-- Test state (R608 to R625). -/
structure Test where
  mode : Bool := false
  flyOff : Bool := false
  deepTest : Bool := false
  grantPeriod : Nat := 8
  loops : Tbl Loopback := []
  selfGroups : Nat := 0             -- 0x9030 (R619)
  selfChips : Nat := 0
  selfStacks : Nat := 0
  selfRef : Nat := 0
  groupStall : Tbl Stall := []
  queueStall : Tbl Stall := []
  tileStall : Stall := {}
  tileSel : Nat := 0
  scan : List ScanDev := scanChain
  deriving DecidableEq, Repr, Inhabited

/-! ### What a dip saves -/

/-- A slot record of dip section 3 (Table 15.6). -/
structure SlotSave where
  p : Nat
  state : SlotState
  burgee : BitVec 256
  meters : Meters
  release : RelRec
  step : Nat
  mbPerStep : Nat
  versions : Tbl Nat
  scheds : List SchedSt
  seed : Seed
  measure : BitVec 384
  persist : Option (List Byte)
  releasing : Bool
  serials : List (Nat × Word64)     -- cartridges that hold its parts and their serial numbers
  deriving DecidableEq, Repr, Inhabited

/-- A dip area in flash (R572, R593). -/
structure DipArea where
  cause : DipCause
  ref : Nat
  epoch : Nat
  vbank : Nat
  partialRec : Bool
  marks : List Bool                 -- commit markers of sections 0 to 4
  log : Log
  slots : List SlotSave
  shards : List ShardSave
  releases : List RelRec            -- release records of the slots (R513)
  deriving DecidableEq, Repr, Inhabited

/-! ### The state -/

/-- A packet the module has put on a port. -/
structure SentPacket where
  port : Nat
  pk : Packet
  deriving DecidableEq, Repr, Inhabited

/-- What the commands have put on the interfaces: the newest response, value and words; packets, host writes and
interrupts since power, newest last. -/
structure Outbox where
  response : Option Response := none     -- the response to a signal-book request
  value : List Word32 := []              -- a value a tile operation returns to its program
  words : List Code160 := []             -- words delivered by a memory read
  refusal : Nat := 0                     -- refusal code returned to the sender of a request, 0: none
  tier : List (Nat × Nat × PushMsg) := []   -- pushes on the tier link: slot, chip
  sent : List SentPacket := []           -- packets and messages handed to ports
  requests : List (Nat × Nat) := []      -- retry requests sent: port, ACK
  resends : List (Nat × Nat) := []       -- resends begun: port, SEQ of the first codeword
  written : List (Nat × List Byte) := [] -- bytes written to host memory: address, bytes
  frames : List (List Byte) := []        -- management payloads sent
  irq : List (Nat × Nat) := []           -- MSI-X vectors raised: function (0: physical, p + 1: virtual p), vector
  deriving DecidableEq, Repr, Inhabited

/-- The state of the module. -/
structure State where
  pending : List Instr := []
  free : Nat := 0
  out : Outbox := {}
  mod : Module := {}
  pins : Pins := {}
  prov : Prov := {}
  oscs : Tbl Osc := []
  doms : Tbl Domain := []
  corrections : List Correction := []
  crossings : List Crossing := []
  power : Power := {}
  dip : DipObj := {}
  bank : Bank := {}
  dipAreas : List DipArea := []
  log : Log := {}
  recov : RecSettings := {}
  spare : SpareMap := {}
  tiles : Tbl Tile := []
  groups : Tbl GroupCtrs := []
  arbs : Tbl Arbiter := []
  queues : Tbl Queue := []
  pools : Tbl TagPool := []
  fly : Tbl (List Nat) := []
  passes : List Pass := []
  nextPass : Nat := 1
  dram : Tbl Stack := []
  caches : Tbl Cache := []
  carts : Tbl Cart := []
  memSet : MemSettings := {}
  chips : Tbl Chip := []
  exTimeout : Nat := 30000
  ports : Tbl Port := []
  ring : Ring := {}
  link : LinkSettings := {}
  topo : List Announce := []
  spaces : Tbl Nat := []                 -- sequence spaces: next and expected SEQ by key
  slots : List Slot := List.replicate 16 {}
  fw : Firmware := {}
  keys : Keys := {}
  offers : List KeyOffer := []           -- key offers of tenants whose slot is not yet Granting
  modAttest : Attest := {}
  energy : List Nat := [12, 50, 5, 45, 20, 1750]
  boxes : List Mailbox := List.replicate 17 {}   -- 0: PF, p+1: VF p
  qps : List QPState := List.replicate 33 {}     -- 0-15 host, 16 module, 17-32 tenant
  blobs : List BlobXfer := []
  mgmt : Mgmt := {}
  peerNonce : Tbl Word64 := []           -- boot nonces of peers by 2·position + ring (R553)
  peerChain : Tbl (List Byte) := []      -- certificate chains read from peers, likewise (R503)
  test : Test := {}
  deriving DecidableEq, Repr

/-- The machine at first power: Dark, every object at its reset value (the values no rule gives are named in the
assumption log, entry 3). -/
def State.reset : State := {}

end Sys2Proof.Machine
end

