-- ==== Sys2Proof/Machine/Bits.lean ====
section
/-! DEFINITION. Bit fields, sparse tables, fixed lists and addressed memories. -/

namespace Sys2Proof.Machine

/-- Bits [hi:lo] of a word. -/
def fld {n : Nat} (x : BitVec n) (hi lo : Nat) : Nat := x.toNat / 2 ^ lo % 2 ^ (hi + 1 - lo)

/-- Bit i of a word. -/
def bit {n : Nat} (x : BitVec n) (i : Nat) : Bool := x.toNat / 2 ^ i % 2 = 1

/-- The word with bits [hi:lo] replaced by v. -/
def putFld {n : Nat} (x : BitVec n) (hi lo v : Nat) : BitVec n :=
  BitVec.ofNat n (x.toNat - fld x hi lo * 2 ^ lo + v % 2 ^ (hi + 1 - lo) * 2 ^ lo)

/-- A truth value as a bit. -/
def b2n (b : Bool) : Nat := if b then 1 else 0

/-- Lookup in a sparse table. -/
def tget {α : Type} (t : Tbl α) (k : Nat) (d : α) : α :=
  match t with
  | [] => d
  | (j, v) :: r => if j = k then v else tget r k d

/-- Lookup that says whether the key is listed. -/
def tget? {α : Type} (t : Tbl α) (k : Nat) : Option α :=
  match t with
  | [] => none
  | (j, v) :: r => if j = k then some v else tget? r k

/-- Sets a key, keeping keys in rising order. -/
def tput {α : Type} (t : Tbl α) (k : Nat) (v : α) : Tbl α :=
  match t with
  | [] => [(k, v)]
  | (j, w) :: r => if k < j then (k, v) :: t else if k = j then (k, v) :: r else (j, w) :: tput r k v

/-- Applies a function to every entry. -/
def tmap {α : Type} (f : Nat → α → α) (t : Tbl α) : Tbl α := t.map (fun x => (x.1, f x.1 x.2))

/-- Removes a key. -/
def tdel {α : Type} (t : Tbl α) (k : Nat) : Tbl α := t.filter (fun x => decide (x.1 ≠ k))

/-- Adds to a count. -/
def tadd (t : Tbl Nat) (k n : Nat) : Tbl Nat := tput t k (tget t k 0 + n)

/-- Adds to a count that cannot fall below 0. -/
def tsub (t : Tbl Nat) (k n : Nat) : Tbl Nat := tput t k (tget t k 0 - n)

/-- Adds n to entry i of a list of counters. -/
def addAt (l : List Nat) (i n : Nat) : List Nat := l.modify i (· + n)

/-- Puts a number into a rising set. -/
def sins (l : List Nat) (k : Nat) : List Nat :=
  match l with
  | [] => [k]
  | j :: r => if k < j then k :: l else if k = j then l else j :: sins r k

/-- The byte of an addressed memory; an unlisted byte reads 0. -/
def Memory.read (m : Mem) (a : Nat) : Byte :=
  match m with
  | [] => 0
  | (k, v) :: r => if k = a then v else Memory.read r a

/-- Writes one byte, keeping the canonical form. -/
def Memory.write (m : Mem) (a : Nat) (b : Byte) : Mem :=
  match m with
  | [] => if b = 0 then [] else [(a, b)]
  | (k, v) :: r =>
    if a < k then (if b = 0 then (k, v) :: r else (a, b) :: (k, v) :: r)
    else if a = k then (if b = 0 then r else (a, b) :: r)
    else (k, v) :: Memory.write r a b

/-- The canonical form: addresses strictly rising from `lo`, no byte 0. -/
def Memory.wfFrom (lo : Nat) (m : Mem) : Bool :=
  match m with
  | [] => true
  | (k, v) :: r => decide (lo ≤ k) && decide (v ≠ 0) && Memory.wfFrom (k + 1) r

/-- The canonical form of a memory. -/
def Memory.wf (m : Mem) : Bool := Memory.wfFrom 0 m

/-- `n` bytes from address a, as a little-endian number. -/
def Memory.readLE (m : Mem) (a n : Nat) : Nat :=
  match n with
  | 0 => 0
  | n + 1 => (Memory.read m a).toNat + 256 * Memory.readLE m (a + 1) n

/-- Writes `n` bytes of a little-endian number. -/
def Memory.writeLE (m : Mem) (a n v : Nat) : Mem :=
  match n with
  | 0 => m
  | n + 1 => Memory.writeLE (Memory.write m a (BitVec.ofNat 8 v)) (a + 1) n (v / 256)

/-- Code word w of a memory of 20-byte code words (R280). -/
def Memory.readWord (m : Mem) (w : Nat) : Code160 := BitVec.ofNat 160 (Memory.readLE m (20 * w) 20)

/-- Stores code word w. -/
def Memory.writeWord (m : Mem) (w : Nat) (c : Code160) : Mem := Memory.writeLE m (20 * w) 20 c.toNat

/-- The data bits of a code word. -/
def codeData (c : Code160) : Data128 := BitVec.ofNat 128 c.toNat

/-- Byte i of a number, little-endian. -/
def byteOf (x i : Nat) : Nat := x / 256 ^ i % 256

/-- `n` little-endian bytes of a number. -/
def bytesLE (n x : Nat) : List Byte :=
  match n with
  | 0 => []
  | n + 1 => BitVec.ofNat 8 x :: bytesLE n (x / 256)

/-- The 48 octets of a SHA-384 hash, most significant first. -/
def hashOctets (h : BitVec 384) : List Byte := (bytesLE 48 h.toNat).reverse

/-- The number a little-endian byte list spells. -/
def leNat (l : List Byte) : Nat :=
  match l with
  | [] => 0
  | b :: r => b.toNat + 256 * leNat r

/-- Splits a list into lists of n. -/
def chunks {α : Type} (n : Nat) (l : List α) : List (List α) :=
  (List.range ((l.length + n - 1) / n)).map (fun i => (l.drop (i * n)).take n)

/-- floor(log2) of a positive number. -/
def log2 (n : Nat) : Nat := Nat.log2 n

end Sys2Proof.Machine
end

