-- ==== Sys2Proof/Machine/Code.lean ====
section
/-! DEFINITION. The end-to-end code RS(20,16), its poison word, CRC-32 and the mirror digest (08, 12, 16). -/

namespace Sys2Proof.Machine

/-- Doubling in GF(2^8) modulo 0x11D. -/
def gdbl (a : Nat) : Nat := if a < 128 then 2 * a else (2 * a) ^^^ 0x11D

/-- Multiplication in GF(2^8), over the bits of b from fuel − 1 down. -/
def gmulGo (fuel a b acc : Nat) : Nat :=
  match fuel with
  | 0 => acc
  | n + 1 => let acc := gdbl acc; gmulGo n a b (if b / 2 ^ n % 2 = 1 then acc ^^^ a else acc)
def gmul (a b : Nat) : Nat := gmulGo 8 a b 0

/-- α^n. -/
def gpow (n : Nat) : Nat :=
  match n with
  | 0 => 1
  | k + 1 => gdbl (gpow k)

/-- Check bytes of a data byte list (R280). -/
def rsStep (r : Nat × Nat × Nat × Nat) (d : Nat) : Nat × Nat × Nat × Nat :=
  let f := d ^^^ r.1
  (r.2.1 ^^^ gmul f 0x0F, r.2.2.1 ^^^ gmul f 0x36, r.2.2.2 ^^^ gmul f 0x78, gmul f 0x40)

/-- The check field [159:128] of a data word. -/
def rsCheck (d : Data128) : Nat :=
  let r := (List.range 16).foldl (fun r i => rsStep r (byteOf d.toNat i)) (0, 0, 0, 0)
  r.1 + 256 * r.2.1 + 65536 * r.2.2.1 + 16777216 * r.2.2.2

/-- The code word of a data word. -/
def encodeWord (d : Data128) : Code160 := BitVec.ofNat 160 (d.toNat + rsCheck d * 2 ^ 128)

/-- The poison word (R283). -/
def poison : Code160 := BitVec.ofNat 160 (0x4E000050 * 2 ^ 128)

def isPoison (c : Code160) : Bool :=
  let k := c.toNat / 2 ^ 128
  decide (c.toNat % 2 ^ 128 = 0) && (decide (k = 0x4E000050) || decide (k = 0x50) || decide (k = 0x4E000000))

/-- Syndrome S_k: the word at α^k (R281). -/
def syndrome (c : Code160) (k : Nat) : Nat :=
  let a := gpow k
  (List.range 20).foldl (fun s n => gmul s a ^^^ byteOf c.toNat n) 0

/-- What a checker finds (R281); a corrected word carries the index of the corrected byte. -/
inductive Checked where
  | clean
  | poisoned
  | corrected (w : Code160) (byte : Nat)
  | uncorrectable
  deriving DecidableEq, Repr, Inhabited

def rsDecide (c : Code160) : Checked :=
  let s0 := syndrome c 0; let s1 := syndrome c 1; let s2 := syndrome c 2; let s3 := syndrome c 3
  if s0 = 0 ∧ s1 = 0 ∧ s2 = 0 ∧ s3 = 0 then .clean
  else if isPoison c then .poisoned
  else if s0 ≠ 0 ∧ s1 ≠ 0 then
    match (List.range 20).find? (fun l => decide (gmul s0 (gpow l) = s1)) with
    | some l =>
      let a := gpow l
      if s2 = gmul s1 a ∧ s3 = gmul s2 a then .corrected (c ^^^ BitVec.ofNat 160 (s0 * 256 ^ (19 - l))) (19 - l)
      else .uncorrectable
    | none => .uncorrectable
  else .uncorrectable

/-- The word a checker passes on (R281, R283): corrected where it can be, the poison word where it cannot. -/
def checkedWord (c : Code160) : Code160 :=
  match rsDecide c with
  | .clean => c
  | .corrected w _ => w
  | _ => poison

/-- Whether a word cannot be used. -/
def unusable (c : Code160) : Bool :=
  match rsDecide c with
  | .clean => false
  | .corrected _ _ => false
  | _ => true

/-! ### CRC-32 of IEEE 802.3 (R596) -/

def crcBit (n c : Nat) : Nat :=
  match n with
  | 0 => c
  | k + 1 => crcBit k (if c % 2 = 1 then (c / 2) ^^^ 0xEDB88320 else c / 2)
def crc32 (l : List Byte) : Nat :=
  (l.foldl (fun c b => crcBit 8 (c ^^^ b.toNat)) 0xFFFFFFFF) ^^^ 0xFFFFFFFF

/-! ### The mirror digest (R453) -/

/-- Multiplication in GF(2^128) modulo x^128 + x^7 + x^2 + x + 1, bit i the coefficient of x^i. -/
def gfDbl (a : Data128) : Data128 := if bit a 127 then (a <<< 1) ^^^ 0x87#128 else a <<< 1
def gfMulGo (fuel : Nat) (a b acc : Data128) : Data128 :=
  match fuel with
  | 0 => acc
  | n + 1 => let acc := gfDbl acc; gfMulGo n a b (if bit b n then acc ^^^ a else acc)
def gfMul (a b : Data128) : Data128 := gfMulGo 128 a b 0

/-- The 16-byte blocks of a sequence of code words, zero-padded. -/
def digestBlocks (ws : List Code160) : List Data128 :=
  (chunks 16 (ws.flatMap (fun w => bytesLE 20 w.toNat))).map (fun b => BitVec.ofNat 128 (leNat b))

/-- One lane of mirror_digest. -/
def digestLane (ws : List Code160) (h : Data128) : Data128 :=
  let y := (digestBlocks ws).foldl (fun y x => gfMul (y ^^^ x) h) 0
  gfMul (y ^^^ BitVec.ofNat 128 ws.length) h

end Sys2Proof.Machine
end

