-- ==== Sys2Proof/Machine/Fp.lean ====
section
/-! DEFINITION. Number formats, exact values, rounding and the scalar operations (03, 04). -/

namespace Sys2Proof.Machine

/-- A decoded value: NaN (signalling or not), infinity, or ±m · 2^e. -/
inductive Val where
  | nan (sig : Bool)
  | inf (neg : Bool)
  | num (neg : Bool) (m : Nat) (e : Int)
  deriving DecidableEq, Repr, Inhabited

/-- Shape of a binary format: fraction bits, exponent bits, bias, and whether the top exponent holds infinities and
NaNs as IEEE 754 has them. -/
structure Shape where
  mb : Nat
  eb : Nat
  bias : Nat
  ieee : Bool
  deriving DecidableEq, Repr, Inhabited

def shape32 : Shape := ⟨23, 8, 127, true⟩
def shapeBf : Shape := ⟨7, 8, 127, true⟩
def shape16 : Shape := ⟨10, 5, 15, true⟩
def shape64 : Shape := ⟨52, 11, 1023, true⟩
def shapeE4M3 : Shape := ⟨3, 4, 7, false⟩
def shapeE5M2 : Shape := ⟨2, 5, 15, false⟩
def shapeE3M2 : Shape := ⟨2, 3, 3, false⟩
def shapeE2M3 : Shape := ⟨3, 2, 1, false⟩
def shapeE2M1 : Shape := ⟨1, 2, 1, false⟩

/-- Element shape of a format code (Table 3.1). -/
def fmtShape (f : Nat) : Shape :=
  if f = 0 then shape32 else if f = 1 then shapeBf else if f = 2 then shape16
  else if f = 3 ∨ f = 5 then shapeE4M3 else if f = 4 ∨ f = 6 then shapeE5M2
  else if f = 7 then shapeE3M2 else if f = 8 ∨ f = 10 then shapeE2M3 else shapeE2M1

def fmtDefined (f : Nat) : Bool := f ≤ 11
def fmtScaled (f : Nat) : Bool := 5 ≤ f && f ≤ 11
def fmtNarrow (f : Nat) : Bool := 3 ≤ f && f ≤ 11
def fmtSwallow (f : Nat) : Bool := f = 10 || f = 11

/-- Bits of an element as values are packed (R104). -/
def fmtBits (f : Nat) : Nat :=
  if f = 0 then 32 else if f ≤ 2 then 16 else if f ≤ 6 then 8 else if f = 7 ∨ f = 8 ∨ f = 10 then 6 else 4

/-- Storage width in tiled layout (Table 5.1). -/
def fmtTileBits (f : Nat) : Nat := if fmtBits f = 6 then 8 else fmtBits f

/-- Width class of a format (Table 4.2): lane width. -/
def fmtLane (f : Nat) : Nat := if f = 0 then 32 else if f ≤ 2 then 16 else if f ≤ 8 ∨ f = 10 then 8 else 4

/-- Exponent of the smallest normal value. -/
def Shape.emin (s : Shape) : Int := 1 - (s.bias : Int)

/-- Exponent of the largest finite value (Table 3.3, R117). -/
def Shape.emax (s : Shape) : Int :=
  if s.ieee then (s.bias : Int)
  else if s.eb = 4 then 8 else if s.eb = 5 then 15 else if s.eb = 3 then 4 else 2

/-- Largest finite magnitude as a multiple of 2^(emax − mb): E4M3 stops at S.1111.110. -/
def Shape.top (s : Shape) : Nat := if ¬ s.ieee ∧ s.eb = 4 then 14 else 2 ^ (s.mb + 1) - 1

/-- Decodes an element code of a shape (R88, R95, R96). The NaN codes of E4M3 and E5M2 are quiet: the manual gives these
formats no signalling NaN (DESIGN CHOICE, log 29). -/
def decodeShape (s : Shape) (c : Nat) : Val :=
  let f := c % 2 ^ s.mb
  let e := c / 2 ^ s.mb % 2 ^ s.eb
  let neg : Bool := c / 2 ^ (s.mb + s.eb) % 2 = 1
  if s.ieee ∧ e = 2 ^ s.eb - 1 then
    (if f = 0 then .inf neg else .nan (decide (f < 2 ^ (s.mb - 1))))
  else if ¬ s.ieee ∧ s.eb = 4 ∧ e = 15 ∧ f = 7 then .nan false
  else if ¬ s.ieee ∧ s.eb = 5 ∧ e = 31 then (if f = 0 then .inf neg else .nan false)
  else if e = 0 then .num neg f (s.emin - s.mb)
  else .num neg (2 ^ s.mb + f) ((e : Int) - s.bias - s.mb)

def dec32 (w : Word32) : Val := decodeShape shape32 w.toNat

/-- m · 2^e divided by 2^q: whole part, remainder and divisor. -/
def divPow (m : Nat) (e q : Int) : Nat × Nat × Nat :=
  if q ≤ e then (m * 2 ^ (e - q).toNat, 0, 1)
  else let d := 2 ^ (q - e).toNat; (m / d, m % d, d)

/-- Exponent of the spacing of a shape at m · 2^e, as if the exponent range had no upper end. -/
def Shape.quantum (s : Shape) (m : Nat) (e : Int) : Int :=
  max ((log2 m : Int) + e - s.mb) (s.emin - s.mb)

/-- Ways to round a magnitude. -/
inductive Rnd where
  | even | down | up | draw (r : Nat)
  deriving DecidableEq, Repr

/-- Rounds a positive magnitude to a multiple n · 2^q of its spacing (R116, R117). -/
def roundMag (s : Shape) (rd : Rnd) (m : Nat) (e : Int) : Nat × Int :=
  if m = 0 then (0, s.emin - s.mb) else
  let q := s.quantum m e
  let (n, rem, d) := divPow m e q
  let n' := match rd with
    | .even => if 2 * rem < d then n else if 2 * rem > d then n + 1 else n + n % 2
    | .down => n
    | .up => if rem = 0 then n else n + 1
    | .draw r => if rem * 2 ^ 32 / d + r ≥ 2 ^ 32 then n + 1 else n
  (n', q)

/-- Code of n · 2^q without its sign; q is the spacing roundMag chose, so a carry into the next binade encodes by
addition. -/
def encodeMag (s : Shape) (n : Nat) (q : Int) : Nat :=
  if n < 2 ^ s.mb then n
  else ((q + s.mb - s.emin + 1).toNat * 2 ^ s.mb) + (n - 2 ^ s.mb)

def Shape.infCode (s : Shape) : Nat := (2 ^ s.eb - 1) * 2 ^ s.mb
def Shape.signCode (s : Shape) (neg : Bool) : Nat := if neg then 2 ^ (s.mb + s.eb) else 0
def Shape.nanCode (s : Shape) : Nat := s.infCode + 2 ^ (s.mb - 1)

/-- Rounds ±m · 2^e into an IEEE shape; the flag says that a finite value became an infinity (R111, R116, R117). -/
def roundIeee (s : Shape) (rd : Rnd) (neg : Bool) (m : Nat) (e : Int) : Nat × Bool :=
  let (n, q) := roundMag s rd m e
  let c := encodeMag s n q
  if c ≥ s.infCode then (s.signCode neg + s.infCode, true) else (s.signCode neg + c, false)

/-- Whether m · 2^e exceeds the largest finite magnitude of a shape. -/
def Shape.exceeds (s : Shape) (m : Nat) (e : Int) : Bool :=
  let q := s.emax - s.mb
  let (n, rem, _) := divPow m e q
  decide (s.top < n ∨ (n = s.top ∧ 0 < rem))

/-- Code of the largest finite magnitude. -/
def Shape.topCode (s : Shape) : Nat := encodeMag s s.top (s.emax - s.mb)

/-- Rounds into a narrow shape, saturating on the exact magnitude (R111); the flag says that it saturated. -/
def roundNarrow (s : Shape) (rd : Rnd) (neg : Bool) (m : Nat) (e : Int) : Nat × Bool :=
  if s.exceeds m e then (s.signCode neg + s.topCode, true)
  else let (n, q) := roundMag s rd m e; (s.signCode neg + encodeMag s n q, false)

/-! ### Event counts -/

def Events.add (a b : Events) : Events :=
  ⟨a.invalid + b.invalid, a.overflow + b.overflow, a.saturate + b.saturate, a.nanBlock + b.nanBlock⟩
def evInvalid : Events := { invalid := 1 }
def evOverflow : Events := { overflow := 1 }

/-- One invalid event for a signalling NaN operand (R90, R94). -/
def Val.sigEv (v : Val) : Events := match v with | .nan true => evInvalid | _ => {}
def Val.isNan (v : Val) : Bool := match v with | .nan _ => true | _ => false
def Val.finite (v : Val) : Bool := match v with | .num _ _ _ => true | _ => false

/-- A signed dyadic value. -/
def Val.dy (v : Val) : Dy := match v with
  | .num neg m e => ⟨if neg then -(m : Int) else m, e⟩
  | _ => ⟨0, 0⟩

def Dy.add (a b : Dy) : Dy :=
  if a.m = 0 then b else if b.m = 0 then a else
  let e := min a.e b.e
  ⟨a.m * 2 ^ (a.e - e).toNat + b.m * 2 ^ (b.e - e).toNat, e⟩
def Dy.mul (a b : Dy) : Dy := ⟨a.m * b.m, a.e + b.e⟩
def Dy.neg (a : Dy) : Dy := ⟨-a.m, a.e⟩
def Dy.abs (a : Dy) : Dy := ⟨a.m.natAbs, a.e⟩
def Dy.le (a b : Dy) : Bool := decide (((a.add b.neg).m) ≤ 0)

def nan32 : Word32 := 0x7FC00000#32
def inf32 (neg : Bool) : Word32 := if neg then 0xFF800000#32 else 0x7F800000#32
def zero32 (neg : Bool) : Word32 := if neg then 0x80000000#32 else 0#32
def one32 : Word32 := 0x3F800000#32

/-- Rounds an exact non-zero dyadic value to FP32. -/
def rnd32 (rd : Rnd) (d : Dy) : Word32 × Events :=
  let (c, o) := roundIeee shape32 rd (decide (d.m < 0)) d.m.natAbs d.e
  (BitVec.ofNat 32 c, if o then evOverflow else {})

/-- IEEE addition of two values with one rounding to FP32 (R88 to R93, R116). -/
def addV (a b : Val) : Word32 × Events :=
  let ev := a.sigEv.add b.sigEv
  match a, b with
  | .nan _, _ => (nan32, ev)
  | _, .nan _ => (nan32, ev)
  | .inf x, .inf y => if x = y then (inf32 x, ev) else (nan32, evInvalid)
  | .inf x, _ => (inf32 x, ev)
  | _, .inf y => (inf32 y, ev)
  | .num x m e, .num y m' e' =>
    let d := (Val.num x m e).dy.add (Val.num y m' e').dy
    if d.m = 0 then (zero32 (x && y && decide (m = 0) && decide (m' = 0)), {}) else rnd32 .even d

/-- The exact product; NaN where IEEE multiplication gives one. -/
def mulV (a b : Val) : Val :=
  match a, b with
  | .nan _, _ => .nan false
  | _, .nan _ => .nan false
  | .inf x, .inf y => .inf (x != y)
  | .inf x, .num y m _ => if m = 0 then .nan false else .inf (x != y)
  | .num x m _, .inf y => if m = 0 then .nan false else .inf (x != y)
  | .num x m e, .num y m' e' => .num (x != y) (m * m') (e + e')

/-- Rounds a value to FP32. -/
def toW (v : Val) : Word32 × Events :=
  match v with
  | .nan _ => (nan32, {})
  | .inf x => (inf32 x, {})
  | .num x m e => if m = 0 then (zero32 x, {}) else rnd32 .even (Val.num x m e).dy

/-- An invalid event where a NaN comes of operands none of which is NaN. -/
def freshNan (r : Val) (ops : List Val) : Events :=
  if r.isNan && ops.all (fun v => !v.isNan) then evInvalid else {}

def fadd (a b : Word32) : Word32 × Events := addV (dec32 a) (dec32 b)
def fneg (a : Word32) : Word32 := a ^^^ 0x80000000#32
def fabs (a : Word32) : Word32 := a &&& 0x7FFFFFFF#32
def fsub (a b : Word32) : Word32 × Events :=
  match dec32 b with
  | .nan s => addV (dec32 a) (.nan s)
  | .inf x => addV (dec32 a) (.inf (!x))
  | .num x m e => addV (dec32 a) (.num (!x) m e)
def fmul (a b : Word32) : Word32 × Events :=
  let x := dec32 a; let y := dec32 b
  let r := mulV x y
  let w := toW r
  (w.1, ((x.sigEv.add y.sigEv).add (freshNan r [x, y])).add w.2)
/-- a · b + c with one rounding. -/
def ffma (a b c : Word32) : Word32 × Events :=
  let x := dec32 a; let y := dec32 b; let z := dec32 c
  let p := mulV x y
  let w := addV p z
  let fresh := if (dec32 w.1).isNan && !x.isNan && !y.isNan && !z.isNan then evInvalid else {}
  (w.1, (((x.sigEv.add y.sigEv).add z.sigEv).add fresh).add { overflow := w.2.overflow })

/-- Position of a non-NaN FP32 word in the order that puts −0 before +0. -/
def ordKey (a : Word32) : Int := if bit a 31 then -(fabs a).toNat - 1 else (fabs a).toNat

def minmax (mx : Bool) (a b : Word32) : Word32 × Events :=
  let x := dec32 a; let y := dec32 b
  if x.isNan || y.isNan then (nan32, x.sigEv.add y.sigEv)
  else if mx then (if ordKey a < ordKey b then b else a, {}) else (if ordKey b < ordKey a then b else a, {})
def fmin (a b : Word32) : Word32 × Events := minmax false a b
def fmax (a b : Word32) : Word32 × Events := minmax true a b

/-- Place of a word in the totalOrder of R91, by which ordering operations order: -0 before +0, the canonical NaN after +∞. The
table has no row of an ordering operation (log 29). -/
def totalKey (a : Word32) : Int := if (dec32 a).isNan then 0x7FC00000 else ordKey a

/-- Whether a quiet predicate holds (R91). -/
def fcmp (p : Cmp) (a b : Word32) : Bool × Events :=
  let x := dec32 a; let y := dec32 b
  let ev := x.sigEv.add y.sigEv
  if x.isNan || y.isNan then (decide (p = .ne), ev)
  else
    let k := fun (w : Word32) => if fabs w = 0#32 then (0 : Int) else ordKey w + (if bit w 31 then 1 else 0)
    let (i, j) := (k a, k b)
    (match p with
      | .eq => decide (i = j) | .ne => decide (i ≠ j) | .lt => decide (i < j)
      | .le => decide (i ≤ j) | .gt => decide (j < i) | .ge => decide (j ≤ i), ev)

/-! ### Special functions (R160, R161) -/

/-- Integer square root by digits: fuel bits. -/
def isqrtGo (fuel n r : Nat) : Nat :=
  match fuel with
  | 0 => r
  | k + 1 => let t := r + 2 ^ k; isqrtGo k n (if t * t ≤ n then t else r)
def isqrt (n : Nat) : Nat := isqrtGo (log2 n / 2 + 1) n 0

/-- A quotient a/b as m · 2^e with a sticky last bit: rounding it rounds the exact quotient. -/
def quotient (m : Nat) (e : Int) (m' : Nat) (e' : Int) (prec : Nat) : Nat × Int :=
  let k := prec + 2 + log2 m'
  let n := m * 2 ^ k
  (2 * (n / m') + (if n % m' = 0 then 0 else 1), e - e' - k - 1)

/-- The square root of m · 2^e as a value with a sticky last bit. -/
def root (m : Nat) (e : Int) (prec : Nat) : Nat × Int :=
  let k : Nat := 2 * prec + 4 + (e % 2).toNat
  let n := m * 2 ^ k
  let r := isqrt n
  (2 * r + (if r * r = n then 0 else 1), (e - k) / 2 - 1)

/-- The FP32 value nearest a positive exact value from below or, where it is not representable and the module's fixed
choice says so, from above; past the largest finite value the upper neighbour is infinity. -/
def neighbour (op : Nat) (a b : Word32) (neg : Bool) (m : Nat) (e : Int) : Word32 × Events :=
  let lo := roundIeee shape32 .down neg m e
  let hi := roundIeee shape32 .up neg m e
  let r := if lo = hi then lo else if Config.pickUpper op a b then hi else lo
  (BitVec.ofNat 32 r.1, if r.2 then evOverflow else {})

def frcp (a : Word32) : Word32 × Events :=
  match dec32 a with
  | .nan s => (nan32, (Val.nan s).sigEv)
  | .inf x => (zero32 x, {})
  | .num x m e =>
    if m = 0 then (inf32 x, {})
    else if (fabs a).toNat ≤ 0x00200000 then (inf32 x, evOverflow)
    else
      let (q, f) := quotient 1 0 m e 30
      let r := neighbour 0 a 0#32 x q f
      if fabs r.1 = 0x7F800000#32 then (BitVec.ofNat 32 (shape32.signCode x + 0x7F7FFFFF), {}) else r

def fsqrt (a : Word32) : Word32 × Events :=
  match dec32 a with
  | .nan s => (nan32, (Val.nan s).sigEv)
  | .inf x => if x then (nan32, evInvalid) else (inf32 false, {})
  | .num x m e =>
    if m = 0 then (zero32 x, {}) else if x then (nan32, evInvalid)
    else let (r, f) := root m e 30; rnd32 .even ⟨r, f⟩

def frsqrt (a : Word32) : Word32 × Events :=
  match dec32 a with
  | .nan s => (nan32, (Val.nan s).sigEv)
  | .inf x => if x then (nan32, evInvalid) else (0#32, {})
  | .num x m e =>
    if m = 0 then (inf32 x, {}) else if x then (nan32, evInvalid)
    else
      -- 1/√x = √(1/x); the sticky bits of the quotient and of the root keep the order of values
      let (q, f) := quotient 1 0 m e 80
      let (r, g) := root q f 30
      neighbour 1 a 0#32 false r g

def fdiv (a b : Word32) : Word32 × Events :=
  let x := dec32 a; let y := dec32 b
  let ev := x.sigEv.add y.sigEv
  match x, y with
  | .nan _, _ => (nan32, ev)
  | _, .nan _ => (nan32, ev)
  | .inf _, .inf _ => (nan32, evInvalid)
  | .inf s, .num t _ _ => (inf32 (s != t), {})
  | .num s _ _, .inf t => (zero32 (s != t), {})
  | .num s m e, .num t m' e' =>
    if m' = 0 then (if m = 0 then (nan32, evInvalid) else (inf32 (s != t), {}))
    else if m = 0 then (zero32 (s != t), {})
    else let (q, f) := quotient m e m' e' 30; neighbour 2 a b (s != t) q f

/-- FP32 word of 2^k; 0 below the smallest subnormal, the largest finite value at or above 2^128. -/
def pow2Word (k : Int) : Nat :=
  if k < -149 then 0 else if k < -126 then 2 ^ (k + 149).toNat
  else if k ≤ 127 then (k + 127).toNat * 2 ^ 23 else 0x7F7FFFFF

/-- ln 2 in units of 2^-64 lies between this number and the next. -/
def ln2 : Nat := 12786308645202655659

/-- Terms y^n / n! of e^y in units of 2^-64, each rounded down or up, from term n on. -/
def expTerms (fuel : Nat) (up : Bool) (y n t : Nat) : Nat :=
  match fuel with
  | 0 => 0
  | k + 1 =>
    let d := (n + 1) * 2 ^ 64
    t + expTerms k up y (n + 1) ((t * y + (if up then d - 1 else 0)) / d)

/-- Bounds in units of 2^-64 of e^y for y below 1 in the same units: 26 terms, and less than one unit for the rest. -/
def expLo (y : Nat) : Nat := expTerms 26 false y 0 (2 ^ 64)
def expHi (y : Nat) : Nat := expTerms 26 true y 0 (2 ^ 64) + 1

/-- floor of a dyadic value in units of 2^-k. -/
def fixed (k : Nat) (d : Dy) : Int :=
  if 0 ≤ d.e + k then d.m * 2 ^ (d.e + k).toNat else d.m / 2 ^ (-(d.e + k)).toNat

/-- floor and ceiling of a dyadic value in units of 2^-64. -/
def fixed64 (d : Dy) : Int × Int :=
  if 0 ≤ d.e + 64 then let n := d.m * 2 ^ (d.e + 64).toNat; (n, n)
  else let p : Int := 2 ^ (-(d.e + 64)).toNat; (d.m / p, -(-d.m / p))

/-- e^x, or 2^x where `two`: k, lo, hi so that the value lies from 2^k · lo · 2^-64 to 2^k · hi · 2^-64. -/
def expRange (two : Bool) (d : Dy) : Int × Nat × Nat :=
  let (x, x') := fixed64 d
  let a : Int := ln2; let b : Int := ln2 + 1
  if two then
    let k := x / 2 ^ 64
    let f := (x - k * 2 ^ 64).toNat; let f' := (x' - k * 2 ^ 64).toNat
    (k, expLo (f * ln2 / 2 ^ 64), expHi (f' * (ln2 + 1) / 2 ^ 64 + 1))
  else
    let k := if 0 ≤ x then x / b else x / a
    let r := if 0 ≤ k then x - k * b else x - k * a
    let r' := if 0 ≤ k then x' - k * a else x' - k * b
    (k, expLo r.toNat, expHi r'.toNat)

/-- Number of the word of a shape at or below m · 2^e, and whether it is that value; the words count on past the finite
range. -/
def wordBelow (s : Shape) (m : Nat) (e : Int) : Nat × Bool :=
  let q := s.quantum m e
  let (w, r, _) := divPow m e q
  (w + (q - (s.emin - s.mb)).toNat * 2 ^ s.mb, decide (r = 0))

/-- First and last number of the words of a shape within n units in the last place of every value from lo · 2^e to hi · 2^e,
counted in the spacing at that value. -/
def wordsNear (s : Shape) (n lo hi : Nat) (e : Int) : Nat × Nat :=
  let (w, exact) := wordBelow s lo e
  let (w', _) := wordBelow s hi e
  let from_ := (w + (if exact then 0 else 1)) - n
  let start := w / 2 ^ s.mb * 2 ^ s.mb                -- below its binade the words lie twice as close
  let from_ := if from_ < start ∧ 2 ^ (s.mb + 1) ≤ start then start - 2 * (start - from_) else from_
  (from_, min (w' + n) (s.infCode - 1))

/-- The word of a positive value between two bounds that the module's fixed choice gives: within n units in the last place of
the exact result (R160). -/
def between (op : Nat) (a : Word32) (n lo hi : Nat) (e : Int) : Word32 :=
  let (a0, a1) := wordsNear shape32 n lo hi e
  BitVec.ofNat 32 (a0 + Config.within op a % (a1 - a0 + 1))

def fexp2 (a : Word32) : Word32 × Events :=
  match dec32 a with
  | .nan s => (nan32, (Val.nan s).sigEv)
  | .inf x => (if x then 0#32 else inf32 false, {})
  | .num x m e =>
    if m = 0 then (one32, {})
    else if ¬ x ∧ a.toNat ≥ 0x43000000 then (inf32 false, evOverflow)
    else if x ∧ (fabs a).toNat ≥ 0x43480000 then (between 0 a 1 0 1 (-300), {})      -- below 2^-200
    else let (k, lo, hi) := expRange true (Val.num x m e).dy; (between 0 a 1 lo hi (k - 64), {})

def fexp (a : Word32) : Word32 × Events :=
  match dec32 a with
  | .nan s => (nan32, (Val.nan s).sigEv)
  | .inf x => (if x then 0#32 else inf32 false, {})
  | .num x m e =>
    if m = 0 then (one32, {})
    else if ¬ x ∧ a.toNat ≥ 0x42B17218 then (inf32 false, evOverflow)
    else if x ∧ (fabs a).toNat ≥ 0x43480000 then (between 1 a 2 0 1 (-300), {})      -- below e^-200
    else let (k, lo, hi) := expRange false (Val.num x m e).dy; (between 1 a 2 lo hi (k - 64), {})

/-- Bounds of 1 / (1 + u) in units of 2^-400 for u from 2^k · lo · 2^-64 to 2^k · hi · 2^-64. -/
def sigRange (k : Int) (lo hi : Nat) : Nat × Nat :=
  let one := 2 ^ (64 + (-k).toNat)
  let u := fun (n : Nat) => n * 2 ^ k.toNat
  let f := fun (n : Nat) => 2 ^ 400 * one / (one + u n)
  (f hi, f lo + 1)

def fsigmoid (a : Word32) : Word32 × Events :=
  match dec32 a with
  | .nan s => (nan32, (Val.nan s).sigEv)
  | .inf x => (if x then 0#32 else one32, {})
  | .num x m e =>
    if (fabs a).toNat ≥ 0x43480000 then
      (if x then between 2 a 4 0 1 (-300) else between 2 a 4 (2 ^ 400 - 1) (2 ^ 400) (-400), {})
    else
      let (k, lo, hi) := expRange false (Val.num (!x) m e).dy
      let (l, h) := sigRange k lo hi
      (between 2 a 4 l h (-400), {})

/-! ### Draws (R118) -/

/-- sr_draw of R118. -/
def srRounds (n : Nat) (k c : Word64) : Word64 :=
  match n with
  | 0 => c
  | n + 1 =>
    let c := c ^^^ k
    let c := c * 0xD1B54A32D192ED03#64
    let c := c ^^^ (c >>> 29)
    srRounds n (k.rotateLeft 17 + 0x8CB92BA72F3D8DD7#64) c
def srDraw (seed : Word64) (step mb tensor index : Nat) : Word32 :=
  let k := seed ^^^ (BitVec.ofNat 64 step * 0x9E3779B97F4A7C15#64) ^^^ (BitVec.ofNat 64 (mb % 65536) <<< 48)
  let c := (BitVec.ofNat 64 (tensor % 2 ^ 24) <<< 40) ||| BitVec.ofNat 64 (index % 2 ^ 40)
  (srRounds 4 k c >>> 32).truncate 32

/-! ### Scales, blocks and conversion (R97 to R117) -/

/-- Scales a value by a power of two. -/
def Val.scale (v : Val) (k : Int) : Val := match v with | .num x m e => .num x m (e + k) | v => v

/-- Decodes element i of a block with its scale entry: an E8M0 byte or a swallowtail word (R100). -/
def decodeElem (f : Nat) (scale : Nat) (i : Nat) (code : Nat) : Val :=
  let v := decodeShape (fmtShape f) code
  if ¬ fmtScaled f then v
  else
    let x := scale % 256
    if x = 255 then .nan false
    else if fmtSwallow f then v.scale ((x : Int) - 127 - (scale / 2 ^ (8 + 2 * (i / 8)) % 4 : Nat))
    else v.scale ((x : Int) - 127)

/-- floor_log2 of a finite non-zero value. -/
def Val.flog (v : Val) : Int := match v with | .num _ m e => (log2 m : Int) + e | _ => 0
def Val.nonzero (v : Val) : Bool := match v with | .num _ m _ => decide (m ≠ 0) | _ => false

/-- floor_log2 of the largest finite magnitude of a list, none where there is none above 0. -/
def amaxLog (vs : List Val) : Option Int :=
  vs.foldl (fun a v => if v.nonzero then (match a with | none => some v.flog | some b => some (max b v.flog)) else a) none

/-- choose_scales of R113: x and the four sub-scales. -/
def chooseScales (vs : List Val) (f : Nat) (given : Option Int) : Int × List Nat :=
  let e := (fmtShape f).emax
  let x := match given with
    | some g => g
    | none => match amaxLog vs with | none => 0 | some a => max (-127) (min 127 (a - e))
  (x, (List.range 4).map (fun j =>
    match amaxLog ((vs.drop (8 * j)).take 8) with
    | none => 0
    | some a => (max 0 (min 3 (x + e - a))).toNat))

/-- Rounding mode of an element: nearest-even or its draw. -/
abbrev RndOf := Nat → Rnd

/-- Converts one value into an IEEE target (R111, R116, R117). -/
def toIeee (s : Shape) (rd : Rnd) (v : Val) : Nat × Events :=
  match v with
  | .nan g => (s.nanCode, (Val.nan g).sigEv)
  | .inf x => (s.signCode x + s.infCode, {})
  | .num x m e =>
    if m = 0 then (s.signCode x, {})
    else let (c, o) := roundIeee s rd x m e; (c, if o then evOverflow else {})

/-- Converts one value, already divided by its scale, into a narrow element (R111, R112, R114). `counted`: the scale
was given or the target is plain. -/
def toNarrow (f : Nat) (rd : Rnd) (counted : Bool) (v : Val) : Nat × Events :=
  let s := fmtShape f
  match v with
  | .nan g => (if s.eb = 4 then 0x7F else if s.eb = 5 then 0x7E else 0, (Val.nan g).sigEv)
  | .inf x => (s.signCode x + s.topCode, { saturate := 1 })
  | .num x m e =>
    if m = 0 then (s.signCode x, {})
    else
      let (c, sat) := roundNarrow s rd x m e
      let big : Bool := decide (s.emax + 1 ≤ (log2 m : Int) + e)
      (c, if sat && (counted || big) then { saturate := 1 } else {})

/-- Whether a block target has no NaN code (R114). -/
def fmtNoNan (f : Nat) : Bool := 7 ≤ f && f ≤ 11

/-- Converts a block into a scaled format: scale entry and element codes (R111 to R114). -/
def toBlock (f : Nat) (given : Option Nat) (rd : RndOf) (vs : List Val) : Nat × List Nat × Events :=
  let sig := (vs.map Val.sigEv).foldl Events.add {}
  if fmtNoNan f && vs.any Val.isNan then (255, vs.map (fun _ => 0), sig.add { nanBlock := 1 })
  else
    let (x, s) := chooseScales vs f (given.map (fun g => (g : Int) - 127))
    let es := vs.mapIdx (fun i v =>
      let sh : Int := if fmtSwallow f then x - (s.getD (i / 8) 0) else x
      toNarrow f (rd i) given.isSome (v.scale (-sh)))
    let sub := if fmtSwallow f then (s.mapIdx (fun j k => k * 2 ^ (8 + 2 * j))).sum else 0
    ((x + 127).toNat + sub, es.map (·.1), (es.map (·.2)).foldl Events.add {})

/-- Whether a conversion control word is well formed (R110). -/
def convOk (w : Word64) : Bool :=
  fld w 63 56 = 0 && fld w 23 16 = 0 && fld w 7 6 = 0 && fld w 3 2 = 0
    && fmtDefined (fld w 11 8) && fmtDefined (fld w 15 12) && decide (fld w 1 0 < 2)
    && !(bit w 4 && fmtScaled (fld w 15 12) && decide (fld w 31 24 = 255))

/-! ### FP64 for the guidon (10) -/

def dec64 (w : Word64) : Val := decodeShape shape64 w.toNat
def toW64 (v : Val) : Word64 :=
  match v with
  | .nan _ => BitVec.ofNat 64 shape64.nanCode
  | .inf x => BitVec.ofNat 64 (shape64.signCode x + shape64.infCode)
  | .num x m e => BitVec.ofNat 64 (if m = 0 then shape64.signCode x else (roundIeee shape64 .even x m e).1)
def dadd (a b : Word64) : Word64 :=
  match dec64 a, dec64 b with
  | .nan _, _ => toW64 (.nan false)
  | _, .nan _ => toW64 (.nan false)
  | .inf x, .inf y => toW64 (if x = y then .inf x else .nan false)
  | .inf x, _ => toW64 (.inf x)
  | _, .inf y => toW64 (.inf y)
  | .num x m e, .num y m' e' =>
    let d := (Val.num x m e).dy.add (Val.num y m' e').dy
    if d.m = 0 then toW64 (.num (x && y && decide (m = 0) && decide (m' = 0)) 0 0)
    else toW64 (.num (decide (d.m < 0)) d.m.natAbs d.e)
def dneg (a : Word64) : Word64 := a ^^^ 0x8000000000000000#64
def dsub (a b : Word64) : Word64 := dadd a (dneg b)
def dmul (a b : Word64) : Word64 := toW64 (mulV (dec64 a) (dec64 b))
def ddiv (a b : Word64) : Word64 :=
  match dec64 a, dec64 b with
  | .nan _, _ => toW64 (.nan false)
  | _, .nan _ => toW64 (.nan false)
  | .inf _, .inf _ => toW64 (.nan false)
  | .inf x, .num y _ _ => toW64 (.inf (x != y))
  | .num x _ _, .inf y => toW64 (.num (x != y) 0 0)
  | .num x m e, .num y m' e' =>
    if m' = 0 then toW64 (if m = 0 then .nan false else .inf (x != y))
    else if m = 0 then toW64 (.num (x != y) 0 0)
    else let (q, f) := quotient m e m' e' 60; toW64 (.num (x != y) q f)

/-- An FP32 word as FP64, exactly. -/
def widen (a : Word32) : Word64 := toW64 (dec32 a)
/-- An FP64 value rounded to FP32. -/
def narrow (a : Word64) : Word32 := (toW (dec64 a)).1
/-- A number as FP64, rounded to nearest-even. -/
def dofNat (n : Nat) : Word64 := toW64 (.num false n 0)

/-! ### The guidon's fixed functions (R380) -/

/-- The FP64 word of a positive value between two bounds that the chips' fixed choice gives: within 1 unit in the last place of
the exact result. Operations: 0 sqrt, 1 cospi, 2 powr. -/
def near64 (op : Nat) (a b : Word64) (lo hi : Nat) (e : Int) : Word64 :=
  let (a0, a1) := wordsNear shape64 1 lo hi e
  BitVec.ofNat 64 (a0 + Config.within64 op a b % (a1 - a0 + 1))

/-- The guidon's square root. -/
def dsqrt (a : Word64) : Word64 :=
  match dec64 a with
  | .nan _ => toW64 (.nan false)
  | .inf x => toW64 (if x then .nan false else .inf false)
  | .num x m e =>
    if m = 0 then toW64 (.num x 0 0) else if x then toW64 (.nan false)
    else
      let (r, f) := root m e 60
      near64 0 a 0 (r / 2 * 2) (r + r % 2) f

/-- π and ln 2 in units of 2^-128 lie between these numbers and the next. -/
def pi128 : Nat := 1069028584064966747859680373161870783300
def ln128 : Nat := 235865763225513294137944142764154484399
def one128 : Nat := 2 ^ 128

/-- The terms of a power series from a first term: each is the one before times y, divided by its divisor, in units of 2^-128. -/
def terms128 (fuel n t y : Nat) (divisor : Nat → Nat) : List Nat :=
  match fuel with
  | 0 => []
  | k + 1 => t :: terms128 k (n + 1) (t * y / (divisor n * one128)) y divisor

/-- Even terms less odd terms. -/
def alternate (l : List Nat) : Int := (l.mapIdx (fun i t => if i % 2 = 0 then (t : Int) else -(t : Int))).sum

/-- Bounds around a sum of truncated terms: 40 terms each lose less than 3 units, and the rest is below one. -/
def slack128 : Int := 256
def bounds128 (n : Int) : Nat × Nat := ((n - slack128).toNat, (n + slack128).toNat)

/-- cos and sin of an angle below π/4, in units of 2^-128. -/
def cos128 (x : Nat) : Nat × Nat :=
  bounds128 (alternate (terms128 24 0 one128 (x * x / one128) (fun n => (2 * n + 1) * (2 * n + 2))))
def sin128 (x : Nat) : Nat × Nat :=
  bounds128 (alternate (terms128 24 0 x (x * x / one128) (fun n => (2 * n + 2) * (2 * n + 3))))

/-- cospi(x) for x from 0 to 1: cos(πx) = −cos(π(1 − x)), and from a quarter to a half sin(π(½ − x)). -/
def cospi (a : Word64) : Word64 :=
  match dec64 a with
  | .num false m e =>
    let x := (fixed 1100 (Val.num false m e).dy).toNat                  -- in units of 2^-1100, exact
    let one := 2 ^ 1100
    let (x, neg) := if one < 2 * x then (one - x, true) else (x, false)
    let angle := fun (n : Nat) => n * pi128 / one
    if 2 * x = one then 0#64
    else
      let (lo, hi) := if 4 * x ≤ one then cos128 (angle x) else sin128 (angle (one / 2 - x))
      near64 1 a 0 lo (min hi one128) (-128) ||| (if neg then 0x8000000000000000#64 else 0#64)
  | _ => toW64 (.nan false)

/-- Bounds of −ln g in units of 2^-128 for g = m · 2^e at most 1: with m · 2^-k from 1 to 2, ln is (e + k) ln 2 + 2 atanh. -/
def negLn (m : Nat) (e : Int) : Nat × Nat :=
  let k := log2 m
  let r := (m - 2 ^ k) * one128 / (m + 2 ^ k)
  let l := 2 * ((terms128 42 0 r (r * r / one128) (fun _ => 1)).mapIdx (fun i t => t / (2 * i + 1))).sum
  let d := -(e + k)                                                    -- 0 or more, as g is at most 1
  bounds128 (d * ln128 - l + d / 2)                                    -- ln 2 lies within half a unit of its number and a half

/-- Bounds of e^-y as a number of units of 2^-k for y between two bounds in units of 2^-128: lo, hi, k. -/
def expNeg (ylo yhi : Nat) : Nat × Nat × Nat :=
  let k := yhi / ln128 + 1
  let up := fun (y : Nat) => ((terms128 44 0 one128 y (fun n => n + 1)).sum : Int)
  let lo := (bounds128 (up (k * ln128 - yhi))).1
  let hi := (bounds128 (up (k * (ln128 + 1) - ylo))).2
  (lo, hi, 128 + k)

/-- powr(g, x) for g above 0 and at most 1, and x of 0 or more; below 2^-1200 the result is 0 or the smallest number. -/
def powr (a b : Word64) : Word64 :=
  match dec64 a, dec64 b with
  | .num false m e, .num false n f =>
    if m = 0 then toW64 (.nan false)
    else
      let (l, h) := negLn m e
      let x := (fixed 1100 (Val.num false n f).dy).toNat
      let ylo := l * x / 2 ^ 1100; let yhi := h * x / 2 ^ 1100 + 1
      if 1200 * one128 ≤ yhi then near64 2 a b 0 1 (-1200)
      else let (lo, hi, k) := expNeg ylo yhi; near64 2 a b lo hi (-(k : Int))
  | _, _ => toW64 (.nan false)

/-- FP64 order for non-NaN values: a < b. -/
def dlt (a b : Word64) : Bool :=
  let k := fun (w : Word64) => if bit w 63 then -((w.toNat % 2 ^ 63 : Nat) : Int) else ((w.toNat % 2 ^ 63 : Nat) : Int)
  decide (k a < k b)

end Sys2Proof.Machine
end

