-- ==== Sys2Proof/Machine/Ops.lean ====
section
/-! DEFINITION. Shared operations: slots and burgees, the error log and its notifications, sending, halting a pennant,
faults of a pass, rollback, Half-mast and Strike. -/

namespace Sys2Proof.Machine

/-! ### Slots and burgees -/

def State.slot (s : State) (p : Nat) : Slot := s.slots.getD p {}
def State.setSlot (s : State) (p : Nat) (x : Slot) : State := { s with slots := s.slots.set p x }
def State.updSlot (s : State) (p : Nat) (f : Slot → Slot) : State := { s with slots := s.slots.modify p f }

/-- Fields of a burgee (Table 13.5). -/
def bTenant (b : BitVec 256) : Nat := fld b 23 0
def bGranules (b : BitVec 256) : Nat := fld b 79 64
def bMirrored (b : BitVec 256) : Bool := bit b 80
def bRights (b : BitVec 256) : Nat := fld b 103 96
def bVcs (b : BitVec 256) : Nat := fld b 111 104
def bSpan (b : BitVec 256) : Nat := fld b 223 160
def bBortis (b : BitVec 256) : Nat := fld b 135 112

def Slot.granule (x : Slot) (k : Nat) : Bool := decide (x.state ≠ .free) && decide (bGranules x.burgee / 2 ^ k % 2 = 1)
/-- Granules of a slot in ascending order. -/
def Slot.granules (x : Slot) : List Nat := (List.range 16).filter x.granule
def Slot.tenant (x : Slot) : Nat := if x.state = .free then 0 else bTenant x.burgee

/-- The granule of tile group Gg of Qq (R487). -/
def granuleOf (q g : Nat) : Nat := 4 * q + g / 4
/-- The slot that holds a granule. -/
def State.holder (s : State) (k : Nat) : Option Nat := (List.range 16).find? (fun p => (s.slot p).granule k)
/-- The slot of a tenant; a burgee marked releasing matches none (R407, R490, R496). -/
def State.slotOfTenant (s : State) (t : Nat) : Option Nat :=
  if t = 0 then none
  else (List.range 16).find? (fun p => decide ((s.slot p).tenant = t) && decide ((s.slot p).state ≠ .releasing))

/-! ### Notifications (R545) and the error log (R479, R480) -/

/-- Entries of a completion ring. -/
def QPState.cqSize (q : QPState) : Nat := 2 ^ (q.cqLog + 4)
/-- Whether the completion ring is full: its next entry is the one CQ_HEAD names (log 7). -/
def QPState.full (q : QPState) : Bool := decide ((q.cqTail + 1) % q.cqSize = q.cqHead % q.cqSize)

/-- The 32 bytes of a completion entry (Table 14.14). -/
def Completion.bytes (c : Completion) : List Byte :=
  bytesLE 32 (c.code * 2 ^ 240 + c.id * 2 ^ 224 + c.head * 2 ^ 208 + c.kind * 2 ^ 200 + b2n c.phase * 2 ^ 199
    + c.result * 2 ^ 160 + c.recNo * 2 ^ 128)

/-- Writes one entry into the ring, with the phase of the present pass (R544). -/
def QPState.put (q : QPState) (c : Completion) : QPState × (Nat × List Byte) :=
  let c := { c with phase := q.phase }
  let t := (q.cqTail + 1) % q.cqSize
  ({ q with cqTail := t, phase := if t = 0 then !q.phase else q.phase, ring := q.ring ++ [c] },
    (q.cqBase + 32 * q.cqTail, c.bytes))

/-- The MSI-X vector of queue pair i: its function and the vector (Table 18.4). -/
def pairVector (i : Nat) : Nat × Nat := if i < 17 then (0, 1 + i) else (i - 16, 1)

/-- An entry written into pair i's ring in host memory raises the pair's vector (DESIGN CHOICE, log 22: R640 gives the vector and
names no event). -/
def Outbox.entry (o : Outbox) (i : Nat) (w : Nat × List Byte) : Outbox :=
  { o with written := o.written ++ [w], irq := o.irq ++ [pairVector i] }

/-- Posts a notification to queue pair i: into the ring, or to the waiting list, whose oldest entry is dropped and
counted beyond 256. -/
def State.post (s : State) (i : Nat) (c : Completion) : State :=
  let q := s.qps.getD i {}
  if q.enable then
    (if q.full || decide (q.held ≠ []) then
      { s with qps := s.qps.set i (if q.held.length ≥ 256
          then { q with held := q.held.tail ++ [c], dropped := min 0xFFFF (q.dropped + 1) }
          else { q with held := q.held ++ [c] }) }
    else
      let r := q.put { c with head := q.sqHead }
      { s with qps := s.qps.set i r.1, out := s.out.entry i r.2 })
  else s

/-- A notification to every queue pair of slot p (host pair p, tenant pair 17 + p). -/
def State.postSlot (s : State) (p : Nat) (c : Completion) : State := (s.post p c).post (17 + p) c

/-- Numbers of SLOT states (Table 13.2), PASS_KINDs and HANDLINGs (Tables 12.2, 12.4). -/
def slotStateNum (x : SlotState) : Nat :=
  match x with
  | .free => 0 | .granting => 1 | .granted => 2 | .running => 3 | .halted => 4 | .releasing => 5 | .restored => 6
def passKindNum (x : PassKind) : Nat :=
  match x with
  | .none => 0 | .forward => 1 | .backward => 2 | .gather => 3 | .update => 4 | .reload => 5 | .checkpoint => 6
def handlingNum (x : Handling) : Nat :=
  match x with
  | .event => 0 | .retry => 1 | .program => 2 | .rollback => 3 | .spare => 4 | .failover => 5 | .halfMast => 6
  | .strike => 7 | .refused => 8
def siteKindNum (x : SiteKind) : Nat :=
  match x with
  | .module => 0 | .tile => 1 | .group => 2 | .stack => 3 | .cartridge => 4 | .chip => 5 | .port => 6 | .fabric => 7
  | .domain => 8 | .partner => 9

/-- Adds a record to the log (R479, R480), notes what bears on the next Proving (R595) and posts its notification. -/
def State.logErr (s : State) (r : ErrRec) : State :=
  let l := s.log
  let s := { s with
    log := { recs := (⟨l.next, s.mod.ref, r⟩ :: l.recs).take 1024, next := (l.next + 1) % 2 ^ 32, newest := l.next,
             lost := if l.recs.length ≥ 1024 then l.lost + 1 else l.lost },
    mod := { s.mod with cleanSince := s.mod.cleanSince && !(r.code ∈ [0x4103, 0x4108, 0x8304, 0x8341]) } }
  if r.handling = .event then s
  else
    let c : Completion := ⟨r.code, 0xFFFF, 0, 2, true, 0xFFFF, l.next⟩
    if r.pennant < 16 then s.postSlot r.pennant c else s.post 16 c

/-- A record of slot p: its number and tenant are filled in. -/
def State.logSlot (s : State) (p : Nat) (r : ErrRec) : State :=
  s.logErr { r with pennant := p, tenant := (s.slot p).tenant }

/-- SITE of a tile (Table 12.12): quarter, group, physical tile. -/
def siteTile (q g t : Nat) : Nat := q * 2 ^ 20 + g * 2 ^ 15 + t * 2 ^ 10
/-- SITE of a stack place. -/
def siteStack (n pc bank : Nat) : Nat := n * 2 ^ 19 + pc * 2 ^ 13 + bank * 2 ^ 7
/-- SITE of the other kinds: a number in its top octet. -/
def siteNum (n : Nat) : Nat := n * 2 ^ 14

/-- Changes a slot's state, with the notification of R545. -/
def State.slotTo (s : State) (p : Nat) (x : SlotState) : State :=
  if (s.slot p).state = x then s
  else
    let s := s.updSlot p (fun y => { y with state := x })
    s.postSlot p ⟨0, 0xFFFF, 0, 2, true, slotStateNum x, 0⟩

/-- Status of a request on the signal book (Table 14.6) answered to its sender; answers ACCESS_DENIED are counted in
0x1030:03. -/
def State.answer (s : State) (st : Status) (detail : Nat := 0) : State :=
  { s with out := { s.out with response := some { status := st, detail := detail } },
           mgmt := if st = .accessDenied then { s.mgmt with ctrs := addAt s.mgmt.ctrs 2 1 } else s.mgmt }

/-- Counts of a slot's meters (Table 13.9, subindex i + 1). -/
def State.meter (s : State) (p i n : Nat) : State :=
  s.updSlot p (fun x => { x with meters := { v := addAt x.meters.v i n } })

/-- Adds measured or computed energy in pJ to a slot's energy meter (R514). -/
def State.energyPj (s : State) (p pj : Nat) : State :=
  s.updSlot p (fun x => { x with pj := (x.pj + pj) % 1000000, meters := { v := addAt x.meters.v 13 ((x.pj + pj) / 1000000) } })

/-- Counts bytes or element operations with their energy: meter i, coefficient k of Table 13.10. -/
def State.work (s : State) (p i k n : Nat) : State := if p < 16 then (s.meter p i n).energyPj p (n * s.energy.getD k 0) else s

/-- Format events reach the meters 0x10 to 0x13 (R94). -/
def State.events (s : State) (p : Nat) (e : Events) : State :=
  (((s.meter p 15 e.invalid).meter p 16 e.overflow).meter p 17 e.saturate).meter p 18 e.nanBlock

/-! ### Physical tiles (R123, R444) -/

/-- Number of a logical tile, 320q + 20g + t. -/
def tileNum (q g t : Nat) : Nat := 320 * q + 20 * g + t
def trNum (t : TileRef) : Nat := tileNum t.q t.g t.t
def groupNum (q g : Nat) : Nat := 16 * q + g
/-- The physical tile that serves a logical tile: T19 where the group's spare serves it. -/
def State.phys (s : State) (t : TileRef) : Nat :=
  if tget? s.spare.spares (groupNum t.q t.g) = some t.t then tileNum t.q t.g 19 else trNum t
def trOk (t : TileRef) : Bool := decide (t.q < 4) && decide (t.g < 16) && decide (t.t < 19)
def State.tile (s : State) (n : Nat) : Tile := tget s.tiles n {}
def State.setTile (s : State) (n : Nat) (x : Tile) : State := { s with tiles := tput s.tiles n x }
def State.updTile (s : State) (n : Nat) (f : Tile → Tile) : State := s.setTile n (f (s.tile n))
/-- The slot that holds a tile's group. -/
def State.tileSlot (s : State) (t : TileRef) : Option Nat := s.holder (granuleOf t.q t.g)
def State.groupC (s : State) (n : Nat) : GroupCtrs := tget s.groups n {}
def State.updGroup (s : State) (n : Nat) (f : GroupCtrs → GroupCtrs) : State :=
  { s with groups := tput s.groups n (f (s.groupC n)) }

/-! ### Sending over Halyard (R402, R403, R422) -/

def State.port (s : State) (k : Nat) : Port := tget s.ports k {}
def State.updPort (s : State) (k : Nat) (f : Port → Port) : State := { s with ports := tput s.ports k (f (s.port k)) }

/-- Virtual channels a port carries (Table 11.1). -/
def carries (k vc : Nat) : Bool :=
  match k with
  | 0 | 1 => decide (vc ∈ [0, 1, 2, 4, 6, 7])
  | 2 => decide (vc ∈ [0, 2, 3, 4, 6, 7])
  | 3 | 4 => decide (vc ∈ [1, 2, 4, 6, 7])
  | 5 => decide (vc ∈ [5, 6])
  | _ => false

/-- One round of hop counts towards dst over the known topology of a ring: over E and W, and over C+ and C- where they
carry the channel. -/
def relax (topo : List Announce) (ring vc : Nat) (d : Tbl Nat) : Tbl Nat :=
  topo.foldl (fun d a =>
    if a.ring = ring then
      let best := (a.peers.take (if carries 3 vc then 4 else 2)).foldl (fun b p => if p = 0xFF then b else min b (tget d p 1000 + 1))
        (tget d a.pos 1000)
      tput d a.pos best
    else d) d
def hopTable (n : Nat) (topo : List Announce) (ring vc : Nat) (d : Tbl Nat) : Tbl Nat :=
  match n with
  | 0 => d
  | n + 1 => hopTable n topo ring vc (relax topo ring vc d)

/-- Whether the link of a port carries a packet: it is up, it carries the channel, and it has GCM and RELAY enabled where
the packet needs them (R414). -/
def State.linkTakes (s : State) (k vc : Nat) (enc relay : Bool) : Bool :=
  let x := s.port k
  decide (x.state = .up) && carries k vc && (!enc || decide (x.features / 2 % 2 = 1)) && (!relay || decide (x.features % 2 = 1))

/-- The port a packet leaves by towards (ring, position), none where no link leads there (R422): `r` is its ROUTE bit. -/
def State.route (s : State) (vc : Nat) (enc relay : Bool) (ring pos : Nat) (r : Bool) : Option Nat :=
  if pos = s.ring.pos then (if ring = s.ring.ring then none else if s.linkTakes 2 vc enc relay then some 2 else none)
  else
    let d := hopTable 64 s.topo s.ring.ring vc [(pos, 0)]
    let order := if r then [1, 4, 0, 3] else [0, 3, 1, 4]
    let cand := order.filter (fun k => s.linkTakes k vc enc relay && decide ((s.port k).peerPos < 64))
    cand.foldl (fun (b : Option Nat) k =>
      let c := tget d (s.port k).peerPos 1000
      if c ≥ 1000 then b
      else match b with
        | none => some k
        | some j => if c < tget d (s.port j).peerPos 1000 then some k else b) none

/-- A packet header (Table 11.3). -/
def mkHdr (s : State) (type vc : Nat) (last : Bool) (route : Bool) (ring pos len tenant mb queue fields : Nat) : BitVec 256 :=
  BitVec.ofNat 256 (type * 2 ^ 248 + vc * 2 ^ 245 + b2n last * 2 ^ 243 + b2n route * 2 ^ 241 + pos % 64 * 2 ^ 234
    + ring % 2 * 2 ^ 233 + s.ring.pos % 64 * 2 ^ 227 + s.ring.ring % 2 * 2 ^ 226 + len % 128 * 2 ^ 215
    + tenant % 2 ^ 24 * 2 ^ 167 + mb % 65536 * 2 ^ 151 + queue % 1024 * 2 ^ 141 + fields)

/-- Queues a packet on a port; on F its source fields are zero (R426). -/
def State.enqueue (s : State) (k : Nat) (p : Packet) : State :=
  s.updPort k (fun x => { x with sendQ := x.sendQ ++ [if k = 5 then { p with hdr := putFld p.hdr 232 226 0 } else p] })

/-- The CREDIT packet of a port: every freed unit not yet returned, at most 4,095 for each channel (R408). -/
def State.creditBack (s : State) (k : Nat) : State :=
  let x := s.port k
  let f := ((List.range 8).map (fun v => min 4095 (x.free.getD v 0) * 2 ^ (99 - 12 * v))).sum
  (s.updPort k (fun x => { x with free := x.free.map (fun n => n - min 4095 n) })).enqueue k
    { hdr := mkHdr s 7 4 true false x.peerRing x.peerPos 0 0 0xFFFF 0 f }

/-- Units of a channel leave the receive buffer; once 64 are free, credits go back. -/
def State.freeRx (s : State) (k vc n : Nat) : State :=
  let s := s.updPort k (fun x => { x with free := addAt x.free vc n })
  if 64 ≤ (s.port k).free.getD vc 0 ∧ (s.port k).state = .up then s.creditBack k else s

/-- Units a packet takes: header, data units, and a trailer where ENC = 1 (R402). -/
def pkUnits (p : Packet) : Nat := 1 + p.units.length + fld p.hdr 244 244
/-- The units of a packet on a link: header, data units, and the trailer where ENC = 1 (R402). -/
def pkWire (p : Packet) : List (BitVec 256) := p.hdr :: p.units ++ (if fld p.hdr 244 244 = 1 then [p.trailer] else [])

/-- Keys of a sequence space, as sender and as destination, and of the last ROUTE used (R412, R422). A space holds the
unwrapped index of its next packet (R505). -/
def txSpace (pos ring vc route : Nat) : Nat := ((pos * 2 + ring) * 8 + vc) * 2 + route
def rxSpace (pos ring vc route : Nat) : Nat := 4096 + txSpace pos ring vc route
/-- The space of what port F sends to the checkpoint store. -/
def storeSpace : Nat := 16384
def routeKey (pos ring vc : Nat) : Nat := 8192 + (pos * 2 + ring) * 8 + vc

/-- Whether the packets of a tenant on a channel are encrypted (R506). -/
def State.encFor (s : State) (tenant vc : Nat) : Bool :=
  match s.slotOfTenant tenant with
  | some p => decide (bVcs (s.slot p).burgee / 2 ^ vc % 2 = 1)
  | none => false

/-- Sends a packet of this module on a port: its SEQ is the next of its space, ENC is as the pennant's burgee says for its
VC, and its data units count as sent (R412, R425, Table 13.9). -/
def State.sendPk (s : State) (k : Nat) (h : BitVec 256) (units : List (BitVec 256)) (bad : List Nat := []) : State :=
  let vc := fld h 247 245
  let tenant := fld h 190 167
  let key := txSpace (fld h 239 234) (fld h 233 233) vc (fld h 241 241)
  let q := tget s.spaces key 0
  let h := putFld (putFld h 214 191 q) 244 244 (b2n (s.encFor tenant vc))
  let s := match s.slotOfTenant tenant with
    | some p => s.work p 10 3 (32 * units.length)
    | none => s
  { s with spaces := tput s.spaces key (q + 1) }.enqueue k { hdr := h, units := units, bad := bad }

/-- Counts data units delivered to a slot (Table 13.9, subindex 0x0C). -/
def State.gotUnits (s : State) (p n : Nat) : State := s.work p 11 3 (32 * n)

/-- Data units of two code words each (R396). -/
def unitsOf (ws : List Code160) : List (BitVec 256) :=
  (chunks 2 ws).map (fun l => BitVec.ofNat 256 ((codeData (l.getD 0 0)).toNat + (codeData (l.getD 1 0)).toNat * 2 ^ 128))

/-- Places of the code words among a list that no unit can correct; a port passes the poison word for them (R284). -/
def badOf (ws : List Code160) : List Nat := (ws.mapIdx (fun i c => (i, c))).filterMap (fun e => if unusable e.2 then some e.1 else none)

/-- Logs 0x4106 of a port for each word it could not correct; a poison word passes unlogged (R284, Table 8.1). -/
def State.portPoison (s : State) (k : Nat) (ws : List Code160) : State :=
  ws.foldl (fun s c => if unusable c && !isPoison c then s.logErr { code := 0x4106, siteKind := .port, site := siteNum k } else s) s

/-- The code words that units carry. -/
def wordsOf (us : List (BitVec 256)) : List Code160 :=
  us.flatMap (fun u => [encodeWord (BitVec.ofNat 128 u.toNat), encodeWord (BitVec.ofNat 128 (u.toNat / 2 ^ 128))])

/-- The code words of a packet's data units. -/
def pkWords (p : Packet) : List Code160 := (wordsOf p.units).mapIdx (fun i c => if i ∈ p.bad then poison else c)

/-- Places among the words of the i-th packet of 64 units. -/
def badPart (i : Nat) (bad : List Nat) : List Nat := bad.filterMap (fun b => if 128 * i ≤ b ∧ b < 128 * (i + 1) then some (b - 128 * i) else none)

/-- Sends units as CHANNEL_DATA packets of one message on port k; `bad`: the words among them that are poison. -/
def State.sendUnits (s : State) (k vc : Nat) (route : Bool) (ring pos tenant : Nat) (units : List (BitVec 256)) (bad : List Nat := []) :
    State :=
  let cs := chunks 64 units
  (cs.mapIdx (fun i c => (i, c))).foldl (fun s (i, c) =>
    s.sendPk k (mkHdr s 9 vc (decide (i + 1 = cs.length)) route ring pos c.length tenant 0xFFFF 0 0) c (badPart i bad)) s

/-- Sends a message to a module by its route, ROUTE alternating between messages to one destination on one VC (R422);
where no link leads there nothing leaves. -/
def State.sendTo (s : State) (vc ring pos tenant : Nat) (units : List (BitVec 256)) : State :=
  let key := routeKey pos ring vc
  let r := tget s.spaces key 0
  match s.route vc (s.encFor tenant vc) false ring pos (r = 1) with
  | some k => { s with spaces := tput s.spaces key (1 - r) }.sendUnits k vc (r = 1) ring pos tenant units
  | none => s

/-- A recovery header (Table 12.9). -/
def recHdr (kind tensor chip part step off len : Nat) : BitVec 256 :=
  BitVec.ofNat 256 (kind * 2 ^ 248 + tensor % 2 ^ 24 * 2 ^ 224 + chip % 4 * 2 ^ 222 + part % 16 * 2 ^ 218
    + step % 2 ^ 64 * 2 ^ 128 + off % 2 ^ 64 * 2 ^ 64 + len % 2 ^ 32 * 2 ^ 32)

/-- Every other module of a pennant, on its own ring and, where mirrored, on the other ring. -/
def State.peersOf (s : State) (p : Nat) : List (Nat × Nat) :=
  let b := (s.slot p).burgee
  let ps := (List.range 64).filter (fun i => bSpan b / 2 ^ i % 2 = 1)
  let own := ps.filter (fun i => decide (i ≠ s.ring.pos))
  own.map (fun i => (s.ring.ring, i)) ++ (if bMirrored b then ps.map (fun i => (1 - s.ring.ring, i)) else [])

/-- Sends a control message on VC 7 to every module of a pennant. -/
def State.sendAll (s : State) (p : Nat) (h : BitVec 256) : State :=
  (s.peersOf p).foldl (fun s (r, i) => s.sendTo 7 r i (s.slot p).tenant [h]) s

/-- Sends a message to the mirror partner, over M. -/
def State.sendPartner (s : State) (p vc : Nat) (units : List (BitVec 256)) (bad : List Nat := []) : State :=
  s.sendUnits 2 vc false (1 - s.ring.ring) s.ring.pos (s.slot p).tenant units bad

/-! ### Halting, rollback, failover (R262, R465, R470) -/

/-- Any fault before a rejoin is complete aborts it (R473): the target is stale again, the source runs on lone. -/
def State.rejoinFail (s : State) (p : Nat) : State :=
  let m := (s.slot p).mirror
  if m.rj = .idle then s
  else
    let s := s.logSlot p { code := 0x8322, siteKind := .partner, step := m.boundary }
    s.updSlot p (fun x => { x with
      mirror := { x.mirror with rj := .idle, todo := [], rx := [], state := if m.rjSource then .lone else .stale },
      chips := tmap (fun _ c => { c with shards := c.shards.map (fun h => { h with reload := false, owed := false }) }) x.chips })

/-- The pennant's block sequencers issue nothing further (R262, R204). -/
def State.haltSlot (s : State) (p : Nat) : State :=
  let s := s.rejoinFail p
  let s := s.updSlot p (fun x => { x with seq := { x.seq with stopped := true } })
  if (s.slot p).state = .running then s.slotTo p .halted else s

/-- The halt of R262: nothing further is issued or released, the stash stays, and the host operator alone resumes. -/
def State.haltR262 (s : State) (p : Nat) : State :=
  (s.haltSlot p).updSlot p (fun x => { x with seq := { x.seq with byHost := true } })

/-- A mirrored pennant halts on this module's ring and goes stale; another halts as R262 describes (R476). -/
def State.failover (s : State) (p : Nat) : State :=
  if bMirrored (s.slot p).burgee then
    (s.haltSlot p).updSlot p (fun x => { x with mirror := { x.mirror with state := .stale } })
  else s.haltR262 p

/-- Shards of a slot with their chip. -/
def Slot.shards (x : Slot) : List (Nat × Shard) := x.chips.flatMap (fun (n, c) => c.shards.map (fun h => (n, h)))

/-- The rollback target (R464): the lowest step whose update is not complete on every shard of the module. -/
def Slot.target (x : Slot) : Nat :=
  match (x.shards.map (fun h => h.2.count)) with
  | [] => x.seq.step
  | c :: r => r.foldl min c

/-- The logical tile of a number. -/
def refOf (n : Nat) : TileRef := ⟨n / 320, n / 20 % 16, n % 20⟩

/-- Whether a tile's group belongs to a slot. -/
def Slot.ownsTile (x : Slot) (n : Nat) : Bool := x.granule (granuleOf (n / 320) (n / 20 % 16))

/-- Whether a stack bank, 4096·stack + 64·pch + bank, lies in a half-stack of a slot (R295). -/
def Slot.ownsBank (x : Slot) (b : Nat) : Bool := decide (b % 4096 < 2048) && x.granule (2 * (b / 4096) + b % 4096 / 1024)

/-- The tile and handle that hold a unit. -/
def unitHolder (u : UnitState) : Option (Nat × Nat) :=
  match u with
  | .held n h _ => some (n, h)
  | _ => none

/-- Every unit of a slot's receive areas is free again, its writers hold none, and no request waits. -/
def State.freeAreas (s : State) (p : Nat) : State :=
  let x := s.slot p
  let who := s.tiles.flatMap (fun (n, t) => if x.ownsTile n then t.areas.flatMap (fun (_, a) => a.units.filterMap unitHolder) else [])
  let s := { s with tiles := tmap (fun n t => if x.ownsTile n then
      { t with areas := tmap (fun _ a => { a with units := a.units.map (fun _ => .free), queue := [], late := [] }) t.areas } else t) s.tiles }
  who.dedup.foldl (fun s (n, h) => s.updTile (s.phys (refOf n)) (fun t =>
    { t with handles := tput t.handles h (putFld (tget t.handles h 0) 23 7 0) })) s

def Stack.bank (x : Stack) (b : Nat) : BankSt := tget x.banks b {}

/-- Whether every fresh tag of a bank is set. -/
def Stack.bankFresh (x : Stack) (b : Nat) : Bool := x.used.all (fun t => decide (t / 2 ^ 14 ≠ b))

/-- A proposed bank whose gate closes: Off where every fresh tag of the bank is set and the proposal allows it (R303, R304). -/
def Stack.gated (x : Stack) (b : Nat) (y : BankSt) : BankSt :=
  { y with state := if y.offOk && x.bankFresh b then .off else .retention, proposed := false }

/-- Every DMA tag, lease, notice and waiting request of a slot is returned. -/
def State.returnTags (s : State) (p : Nat) : State :=
  let x := s.slot p
  let deep := fun (q : Nat) => ((s.tiles.filter (fun (n, _) => decide (n / 320 = q))).map (fun (_, t) =>
    ((t.streams.filter (fun r => decide (r.slot = p))).map Stream.deepTags).sum)).sum
  { s with
    pools := tmap (fun q y => { y with inUse := y.inUse - ((y.banks.filter (fun b => x.ownsBank b.1)).map (·.2)).sum,
                                       deepUse := y.deepUse - deep q, banks := y.banks.filter (fun b => !x.ownsBank b.1) }) s.pools,
    dram := tmap (fun n y => { y with
      banks := tmap (fun k b => if x.ownsBank (4096 * n + k) then (if b.proposed then y.gated k { b with tags := 0 } else { b with tags := 0 }) else b) y.banks,
      slotTags := tdel y.slotTags p,
      leases := y.leases.filter (fun l => !x.ownsTile l.tile),
      notices := y.notices.filter (fun l => !x.ownsTile l.1) }) s.dram,
    arbs := tmap (fun _ a => { a with reqs := a.reqs.filter (fun r => decide (r.slot ≠ p)) }) s.arbs }

/-- A packet held in a receive buffer is dropped and its units return. -/
def State.dropPk (s : State) (k : Nat) (pk : Packet) : State :=
  (s.updPort k (fun x => { x with heldRx := x.heldRx.erase pk })).freeRx k (fld pk.hdr 247 245) (pkUnits pk)

/-- Packets of a pennant that wait in the receive buffers for credit of its queues are gone with the queues' contents; their units
return. -/
def State.dropHeld (s : State) (p : Nat) : State :=
  (List.range 6).foldl (fun s k =>
    ((s.port k).heldRx.filter (fun pk => decide (s.slotOfTenant (fld pk.hdr 190 167) = some p))).foldl (fun s pk =>
      s.dropPk k pk) s) s

/-- A pennant's passes, streams and queue contents are gone. -/
def State.dropWork (s : State) (p : Nat) : State :=
  { s with
    passes := s.passes.filter (fun x => decide (x.slot ≠ p)),
    tiles := tmap (fun _ t => { t with
      streams := t.streams.filter (fun r => decide (r.slot ≠ p)),
      queued := t.queued.filter (fun c => s.passes.any (fun x => decide (x.id = c.1.pass) && decide (x.slot ≠ p))),
      hwaits := t.hwaits.filter (fun w => s.passes.any (fun x => decide (x.id = w.pass) && decide (x.slot ≠ p))),
      checks := t.checks.filter (fun c => s.passes.any (fun x => decide (x.id = c.pass) && decide (x.slot ≠ p))) }) s.tiles,
    queues := tmap (fun _ q => if q.slot = p then
      { q with head := [], mbs := [], middle := [], start := 0, part := [], tail := [], armed := false, short := 0,
               move := none, engine := false, granted := 0, flying := [], todo := [], counted := false,
               credit := 8192 + 65536 * fld q.desc 127 115 } else q) s.queues }

/-- Removes a pennant's unreleased work: passes, streams' work, queue contents, stash, held messages (step 2 of
Table 12.8). -/
def State.discardWork (s : State) (p : Nat) : State :=
  ((((s.dropHeld p).returnTags p).freeAreas p).dropWork p).updSlot p (fun x => { x with
    seq := { x.seq with pages := 0, resv := [], stash := [], fwd := [], bwd := [], retired := [], vwait := [],
                        gathered := [], doneFrom := [], permitted := [], reserveBy := 0, cwait := [] },
    buckets := x.buckets.map (fun b => { b with held := [], pending := [], summed := [], acc := [], amax := [],
                                                resHeld := [], resPending := [], resent := [], resentRes := [] }),
    ingest := { x.ingest with frame := 0, word := 0, words := [] },
    chips := tmap (fun _ c => { c with hold := [] }) x.chips })

/-- Starts or merges a rollback (R465, R467): 0x8330 is logged with the target, HALT goes to every module of the pennant
where `send`, its work is discarded, and TARGET is exchanged (steps 1 to 3 of Table 12.8). -/
def State.rollback (s : State) (p : Nat) (target : Nat) (send : Bool) : State :=
  let m := (s.slot p).mirror
  let t := if m.pending then min m.rbTarget target else target
  let s := if m.pending then s else
    s.logSlot p { code := 0x8330, handling := .rollback, step := t, detail0 := t }
  let s := if send then s.sendAll p (recHdr 0x10 0 0 0 t 0 0) else s
  let s := s.haltSlot p
  let s := s.discardWork p
  let s := s.updSlot p (fun x => { x with
    mirror := { x.mirror with rbTarget := t, target := t, pending := true, rb := .targets, need := [], remote := [], probing := false,
                              reported := if x.mirror.pending then x.mirror.reported else [],
                              loneRb := if x.mirror.pending then x.mirror.loneRb else decide (x.mirror.state = .lone),
                              state := if x.mirror.state = .notMirrored then .notMirrored else .rollingBack },
    recC := { x.recC with rollbacks := x.recC.rollbacks + (if m.pending then 0 else 1) } })
  s.sendAll p (recHdr 0x11 0 0 0 t 0 0)

/-- A fault of slot p with handling ROLLBACK: its record, then the rollback. -/
def State.rollbackFault (s : State) (p : Nat) (r : ErrRec) : State :=
  let s := s.logSlot p { r with handling := .rollback }
  s.rollback p (s.slot p).target true

/-- A fault of slot p with handling PROGRAM: its record, then the halt of R262. -/
def State.programFault (s : State) (p : Nat) (r : ErrRec) : State :=
  (s.logSlot p { r with handling := .program }).haltR262 p

/-! ### The dip areas (R572, R575, R593) -/

/-- Bits of a list of truth values. -/
def bitsOf (l : List Bool) : Nat := (l.mapIdx (fun i b => b2n b * 2 ^ i)).sum

/-- The serial number in the body of an identity memory's copy (Tables 16.8, 16.9, 16.11). -/
def bodySerial (c : List Byte) : Word64 := BitVec.ofNat 64 (leNat ((c.drop 24).take 8))

/-- Serial number of the cartridge in socket k, as its identity memory was read. -/
def State.cartSerial (s : State) (k : Nat) : Word64 := bodySerial (tget s.mod.ids (4 + k) {}).contents

/-- The record of a slot in section 3 (Table 15.6). -/
def State.slotSave (s : State) (p : Nat) : SlotSave :=
  let x := s.slot p
  { p := p, state := x.state, burgee := x.burgee, meters := x.meters, release := x.release, step := x.seq.step,
    mbPerStep := x.seq.mbPerStep, versions := x.seq.versions, scheds := x.scheds, seed := x.seed, measure := x.measure,
    persist := x.persist, releasing := decide (x.state = .releasing),
    serials := ((x.granules.map (· % 4)).dedup.filter (fun k => s.mod.accepted.getD k false)).map (fun k => (k, s.cartSerial k)) }

/-- The records of a slot's shards in section 4; an update under way is torn (R386). -/
def State.shardSaves (s : State) (p : Nat) : List ShardSave :=
  (s.slot p).chips.flatMap (fun (n, c) => c.shards.mapIdx (fun i h =>
    { p := p, chip := n, ix := i, count := h.count, torn := h.updating || h.torn, saturated := h.saturated }))

/-- Whether a dip writes only sections 0 and 1: before step 3 of Proving is complete, and in a Struck module. -/
def State.partialDip (s : State) : Bool :=
  decide (s.mod.state = .struck) || (decide (s.mod.state = .proving) && decide (s.prov.lastStep < 3))

/-- Writes the dip area that does not hold the newest complete record; a Struck module writes only the records logged
since its last area. -/
def State.writeDip (s : State) (cause : DipCause) (marks : List Bool) (vbank : Nat) : State :=
  let part := s.partialDip
  let old := match s.dipAreas with | a :: _ => a.log.recs.map LogRec.no | [] => []
  let log := if s.mod.state = .struck then { s.log with recs := s.log.recs.filter (fun r => r.no ∉ old) } else s.log
  let ps := (List.range 16).filter (fun p => decide ((s.slot p).state ≠ .free) && decide ((s.slot p).state ≠ .granting))
  let a : DipArea :=
    { cause := cause, ref := s.mod.ref, epoch := s.ring.epoch, vbank := vbank, partialRec := part,
      marks := if part then [marks.getD 0 true, marks.getD 1 true, false, false, false] else marks, log := log,
      slots := if part then [] else ps.map s.slotSave, shards := if part then [] else ps.flatMap s.shardSaves,
      releases := if part then [] else s.slots.map Slot.release }
  let keep := match s.dipAreas.find? (fun a => a.marks.all id) with
    | some k => [k]
    | none => s.dipAreas.take 1
  { s with dipAreas := a :: keep,
           dip := { s.dip with dips := (s.dip.dips + 1) % 2 ^ 32, cause := cause, sections := bitsOf a.marks } }

/-! ### Half-mast, Strike, retirement (R446, R475 to R477, R580) -/

/-- Powers a domain down, unless it is the control domain (R477 step 5). -/
def powerDown (n : Nat) (d : Domain) : Domain :=
  if n = 79 then d else { d with state := if d.state = DomState.retired then DomState.retired else DomState.off, mv := 0 }

/-- Zeroises every key slot of the logic dies, the Bortis chips and Halyard (R477 step 2). -/
def State.zeroKeys (s : State) : State :=
  { s with
    slots := s.slots.map (fun (x : Slot) => { x with
      stackKey := none, cartKey := none, digestKey := none, ckptKey := none, eph := none, agreed := [], linkKeys := false,
      burgee := putFld x.burgee 139 136 0 }),
    dram := tmap (fun _ x => { x with keys := [] }) s.dram,
    chips := tmap (fun _ x => { x with keys := [] }) s.chips,
    keys := { s.keys with transport := none, module := none } }

/-- A port without power: no light, nothing queued or held (R477). -/
def Port.dark (x : Port) : Port :=
  { x with state := .noLight, light := false, step := 0, run := 0, tries := 0, unacked := [], sendQ := [], heldRx := [] }

/-- What a struck module has lost: its domains but the control domain are off, so tiles, caches, passes, queues and ports hold
nothing, and the bypass is at through (R477). -/
def State.struckDown (s : State) : State :=
  { s with
    ring := { s.ring with bypass := 0 }, doms := tmap powerDown s.doms, tiles := [],
    caches := tmap (fun _ c => { c with lines := [], plru := [], fills := [] }) s.caches, passes := [], queues := [],
    ports := tmap (fun _ x => x.dark) s.ports,
    mod := { s.mod with state := .struck, cleanSince := false } }

/-- A Strike (R477): pennants halt, keys are zeroised, the dip record is written with cause strike, the bypass goes to
through, every domain but the control domain powers down, and 0x8341 is logged. -/
def State.strike (s : State) : State :=
  if s.mod.state = .proving ∨ s.mod.state = .joining ∨ s.mod.state = .hoisted ∨ s.mod.state = .halfMast then
    let s := (List.range 16).foldl (fun s p => if (s.slot p).state = .free then s else s.haltSlot p) s
    (s.writeDip .strike [true, true, true, true, true] s.power.bankMv).zeroKeys.struckDown.logErr
      { code := 0x8341, handling := .strike }
  else s

/-- A Half-mast cause: in Hoisted the module enters Half-mast and logs 0x8340; in Proving and Joining the cause is
recorded (R587). -/
def State.halfMast (s : State) (cause : Nat) : State :=
  let s := { s with mod := { s.mod with causes := s.mod.causes ++ [cause] } }
  if s.mod.state = .hoisted then
    let s := { s with mod := { s.mod with state := .halfMast } }
    s.logErr { code := 0x8340, handling := .halfMast, detail0 := cause }
  else s

/-- Withdraws a granule (R476): the pennant that holds it fails over or halts. -/
def State.withdraw (s : State) (k : Nat) : State :=
  let h := s.holder k
  let s := { s with spare := { s.spare with withdrawn := sins s.spare.withdrawn k } }
  match h with
  | some p => s.failover p
  | none => s

/-- Withdraws a granule for good: a retirement kept in flash (R450). -/
def State.withdrawLasting (s : State) (k : Nat) : State :=
  let s := s.withdraw k
  { s with spare := { s.spare with lasting := sins s.spare.lasting k } }

/-- Strikes where a limit of Table 12.11 is reached: more than 16 tile groups, or 2 Bortis chips, retired. -/
def State.strikeLimit (s : State) : Bool := decide (16 < s.spare.retired.length) || decide (2 ≤ s.spare.chipsFailed.length)

/-- Retires a tile group (R446): 0x8304, its domain stays off, its granule is withdrawn, the module goes to Half-mast,
or Strikes at the limit. -/
def State.retireGroup (s : State) (g : Nat) (cause : Nat) : State :=
  if g ∈ s.spare.retired then s else
  let s := { s with spare := { s.spare with retired := sins s.spare.retired g },
                    doms := tput s.doms g { (tget s.doms g {}) with state := .retired, mv := 0, thermal := false, cap := false, critical := false } }
  let st := s.strikeLimit
  let s := s.logErr { code := 0x8304, handling := if st then .strike else .halfMast, siteKind := .group, site := siteNum g,
                      detail0 := cause }
  let s := s.withdrawLasting (granuleOf (g / 16) (g % 16))
  if st then s.strike else s.halfMast cause

/-- A Bortis chip fails (state 3 of Table 10.9a): every granule with a quarter of its cartridge is withdrawn. -/
def State.failChip (s : State) (n cause : Nat) : State :=
  if n ∈ s.spare.chipsFailed then s else
  let s := { s with spare := { s.spare with chipsFailed := sins s.spare.chipsFailed n },
                    chips := tput s.chips n { (tget s.chips n {}) with state := 3 } }
  let s := [n, n + 4, n + 8, n + 12].foldl State.withdraw s
  if s.strikeLimit then s.strike else s.halfMast cause

/-- A lasting fault of a domain (R78, R446): a tile group is retired, any other domain Strikes. -/
def State.domainFault (s : State) (d cause : Nat) : State :=
  if d < 64 then s.retireGroup d cause else s.strike

/-! ### Passes and their faults (R440 to R442) -/

def State.pass? (s : State) (id : Nat) : Option Pass := s.passes.find? (fun x => decide (x.id = id))
def State.updPass (s : State) (id : Nat) (f : Pass → Pass) : State :=
  { s with passes := s.passes.map (fun x => if x.id = id then f x else x) }

/-- Fills a record with a pass's place. -/
def Pass.fill (x : Pass) (r : ErrRec) : ErrRec :=
  { r with attempt := x.attempt, passKind := x.kind, block := x.block, mb := x.mb, step := x.step }

/-- Whether the spare of a group is free. -/
def State.spareFree (s : State) (g : Nat) : Bool := decide (tget? s.spare.spares g = none) && !(g ∈ s.spare.retired)

/-- A lasting fault of the site a record names (R441, R444, R446): 0x8302, then the group's spare is awaited or the
group retires. -/
def State.lastingSite (s : State) (p : Nat) (r : ErrRec) : State :=
  let q := r.site / 2 ^ 20 % 4; let g := r.site / 2 ^ 15 % 16; let t := r.site / 2 ^ 10 % 32
  let gn := groupNum q g
  if r.siteKind = .tile then
    (if s.spareFree gn && decide (t < 19) then
      let s := s.logSlot p { r with code := 0x8302, handling := .spare }
      { s with spare := { s.spare with waiting := sins s.spare.waiting (tileNum q g t) } }
    else (s.logSlot p { r with code := 0x8302, handling := .event }).retireGroup gn 0x8302)
  else s.logSlot p { r with code := 0x8302, handling := .event }

/-- The tile and handle that hold a unit for a pass. -/
def UnitState.holderOf (id : Nat) (u : UnitState) : Option (Nat × Nat) :=
  match u with
  | .held n h p => if p = id then some (n, h) else none
  | _ => none

/-- The writers of an abandoned attempt return their held units at once (R192). -/
def State.returnUnits (s : State) (id : Nat) : State :=
  let who := s.tiles.flatMap (fun (_, t) => t.areas.flatMap (fun (_, a) => a.units.filterMap (UnitState.holderOf id)))
  let s := { s with tiles := tmap (fun _ t => { t with areas := tmap (fun _ a =>
    { a with units := a.units.map (fun u => if UnitState.holderOf id u = none then u else .free),
             queue := a.queue.filter (fun q => decide (q.pass ≠ id)) }) t.areas }) s.tiles }
  who.dedup.foldl (fun s (n, h) => s.updTile (s.phys (refOf n)) (fun t =>
    { t with handles := tput t.handles h (putFld (tget t.handles h 0) 23 7 0) })) s

/-- A RETRY fault of a pass (R440 to R442). -/
def State.retryFault (s : State) (id : Nat) (r : ErrRec) : State :=
  match s.pass? id with
  | none => s
  | some x =>
    let r := x.fill { r with handling := .retry }
    let s := s.logSlot x.slot r
    if x.abandoned then s
    else
      let s := s.updPass id (fun x => { x with abandoned := true, faults := x.faults ++ [r] })
      let s := s.returnUnits id
      -- the cube steps of an abandoned attempt are redone work (R515); a replay's have been counted as they were taken
      let s := if x.replaying then s else s.meter x.slot 14 x.cubes
      if x.attempt = 0 then s
      else
        let prev := x.faults.getD 0 r
        if r.code = 0x6139 ∧ x.faults.any (fun f => decide (f.code = 0x6139)) then s.programFault x.slot r
        else if x.attempt = 1 ∧ r.code = 0x4104 ∧ prev.code = 0x4104 ∧ prev.site = r.site ∧ prev.detail0 = r.detail0 then
          s.rollbackFault x.slot r
        else if x.attempt = 1 then s.lastingSite x.slot r
        else
          let s := s.rollbackFault x.slot r
          if r.siteKind = .tile then s.retireGroup (groupNum (r.site / 2 ^ 20 % 4) (r.site / 2 ^ 15 % 16)) r.code else s

/-- A PROGRAM fault of a pass's block: the pennant halts. -/
def State.passProgram (s : State) (id : Nat) (r : ErrRec) : State :=
  match s.pass? id with
  | none => s
  | some x => s.programFault x.slot (x.fill r)

/-- The seed that applies to a step of a slot (R120), before the replica's part (R327): that of the most recent accepted
commit whose commit step is at most the step, else the image seed. -/
def Seed.at (x : Seed) (t : Nat) : Word64 := ((x.commits.find? (fun c => decide (c.1 ≤ t))).map (·.2)).getD x.image

/-- The seed of R118 on this module: XOR r << 56 (R327). -/
def Slot.seedAt (x : Slot) (t : Nat) : Word64 := x.seed.at t ^^^ BitVec.ofNat 64 (x.replica * 2 ^ 56)

/-! ### Arbitrated resources (R237) -/

/-- Number of a resource of Table 6.7: kind in [.. :16], place below. -/
def resKey (x : Resource) : Nat :=
  match x with
  | .scratchSlots t => 2 ^ 16 + trNum t
  | .remotePort t => 2 * 2 ^ 16 + trNum t
  | .cachePort q => 3 * 2 ^ 16 + q
  | .bankQueue n pc b => 4 * 2 ^ 16 + n * 4096 + pc * 64 + b
  | .boundary a b => 5 * 2 ^ 16 + 4 * a + b
  | .queueEngine q n => 6 * 2 ^ 16 + 4 * q + n

/-- The oscillator that ticks an arbiter (Table 6.7). -/
def tickSource (key : Nat) : Nat :=
  let x := key % 2 ^ 16
  match key / 2 ^ 16 with
  | 1 => x / 20
  | 2 => x / 20
  | 3 => 64 + x
  | 4 => 64 + x / 8192
  | 5 => 64 + x / 4
  | _ => 64 + x / 4

def State.rate (s : State) (n : Nat) : Nat := (tget s.oscs n {}).rate
def State.arb (s : State) (k : Nat) : Arbiter := tget s.arbs k {}

/-- A grant to traffic whose command stands for its completion: module traffic as slot 16, or what firmware moves for a pennant
as that pennant (R239; log 31). -/
def State.grantAt (s : State) (x : Resource) (slot : Nat) : State :=
  let a := s.arb (resKey x)
  { s with arbs := tput s.arbs (resKey x) { a with last := slot, count := a.count + 1 } }

/-- The logical tile that a physical tile serves. -/
def State.logTile (s : State) (n : Nat) : TileRef :=
  refOf (if n % 20 = 19 then n / 20 * 20 + tget s.spare.spares (n / 20) 19 else n)

/-- A command's next state. -/
abbrev Res := Host.Outcome State Fault Refusal

end Sys2Proof.Machine
end

