-- ==== Sys2Proof/Machine/Domains.lean ====
section
/-! DEFINITION. Power domains and their crossings: numbers, adjacency (Table 15.3), tick sources (Table 2.3), setpoints,
region caps (R76, R79), and frozen crossings (R78). -/

namespace Sys2Proof.Machine

def State.dom (s : State) (d : Nat) : Domain := tget s.doms d {}
def State.updDom (s : State) (d : Nat) (f : Domain → Domain) : State := { s with doms := tput s.doms d (f (s.dom d)) }
def State.osc (s : State) (n : Nat) : Osc := tget s.oscs n {}
def State.updOsc (s : State) (n : Nat) (f : Osc → Osc) : State := { s with oscs := tput s.oscs n (f (s.osc n)) }

/-- Quarter of a domain (Tables 2.3, 15.3). -/
def domQuarter (d : Nat) : Nat :=
  if d < 64 then d / 16 else if d < 68 then d - 64 else if d < 76 then (d - 68) / 2 else if d = 76 then 0 else if d = 77 then 3 else 2

/-- The oscillator whose ticks a domain's logic counts (Table 2.3). -/
def domOsc (d : Nat) : Nat := if d < 68 then d else 64 + domQuarter d

/-- Two groups of one quarter that differ by one in row or in column, not in both. -/
def meshNext (g h : Nat) : Bool :=
  (decide (g / 4 = h / 4) && decide (g % 4 + 1 = h % 4 ∨ h % 4 + 1 = g % 4))
    || (decide (g % 4 = h % 4) && decide (g / 4 + 1 = h / 4 ∨ h / 4 + 1 = g / 4))

/-- Fabrics across a stitched boundary (R177): quarters that differ in one bit of their number. -/
def fabricNext (q r : Nat) : Bool := decide (q ≠ r) && decide (q + r ≠ 3)

/-- Adjacency of Table 15.3, the control domain apart (R560). -/
def adjacent (a b : Nat) : Bool :=
  if a < 64 ∧ b < 64 then decide (a / 16 = b / 16) && meshNext (a % 16) (b % 16)
  else if 64 ≤ a ∧ a < 68 ∧ 64 ≤ b ∧ b < 68 then fabricNext (a - 64) (b - 64)
  else if 64 ≤ a ∧ a < 68 then decide (b < 79) && decide (domQuarter b = a - 64)
  else if 64 ≤ b ∧ b < 68 then decide (a < 79) && decide (domQuarter a = b - 64)
  else false

/-- Domains adjacent to d. -/
def neighbours (d : Nat) : List Nat := (List.range 79).filter (adjacent d)

/-- Whether a domain's setpoint is variable, and the bottom of its range (Table 15.3). -/
def domVariable (d : Nat) : Bool := decide (d < 68)
def domFloor (d : Nat) : Nat := if d < 64 then 600 else if d < 68 then 650 else if d = 79 then 800 else 750

def State.domOn (s : State) (d : Nat) : Bool := decide ((s.dom d).state = .on)
/-- Published rate of the oscillator a domain counts by. -/
def State.domRate (s : State) (d : Nat) : Nat := (s.osc (domOsc d)).rate

/-- The faster side of a crossing: the higher published rate (R76); where both publish one rate, the variable side, then
the one with the higher setpoint, then the first. -/
def State.faster (s : State) (a b : Nat) : Nat :=
  if s.domRate a ≠ s.domRate b then (if s.domRate b < s.domRate a then a else b)
  else if domVariable a ≠ domVariable b then (if domVariable a then a else b)
  else if (s.dom a).mv < (s.dom b).mv then b else a

/-- A new calibration window of a domain's oscillator (R62). -/
def State.recal (s : State) (n : Nat) : State :=
  if n < 68 ∧ s.domOn n then s.updOsc n (fun o => { o with inWindow := true }) else s

/-- Changes a setpoint; every change triggers a recalibration (R62). -/
def State.setMv (s : State) (d mv : Nat) : State :=
  if (s.dom d).mv = mv then s else (s.updDom d (fun x => { x with mv := mv })).recal d

/-- Whether a correction joins these two domains. -/
def Correction.joins (c : Correction) (a b : Nat) : Bool :=
  (decide (c.a = a) && decide (c.b = b)) || (decide (c.a = b) && decide (c.b = a))

/-- Whether a region cap is in force on a domain, and the lowest of them (R76). -/
def State.regionHeld (s : State) (d : Nat) : Bool := s.corrections.any (fun c => (tget? c.caps d).isSome)
def State.regionCap (s : State) (d : Nat) : Nat := s.corrections.foldl (fun m c => min m (tget c.caps d 850)) 850

/-- Whether a correction is lowering a domain. -/
def State.regionBusy (s : State) (d : Nat) : Bool := s.corrections.any (fun c => !c.held && decide (c.fast = d))

/-- The crossing between two domains. -/
def State.crossing? (s : State) (a b : Nat) : Option Crossing :=
  s.crossings.find? (fun c => (decide (c.a = a) && decide (c.b = b)) || (decide (c.a = b) && decide (c.b = a)))
def State.frozen (s : State) (a b : Nat) : Bool :=
  match s.crossing? a b with
  | some c => c.frozen
  | none => false
/-- Replaces the record of a crossing. -/
def State.putCrossing (s : State) (c : Crossing) : State :=
  { s with crossings := s.crossings.filter (fun x => !((decide (x.a = c.a) && decide (x.b = c.b)) || (decide (x.a = c.b) && decide (x.b = c.a)))) ++ [c] }

/-- Whether a region keeps a crossing in widened mode. -/
def State.widened (s : State) (a b : Nat) : Bool := s.corrections.any (fun c => c.widened && c.joins a b)

/-- Removes what region controllers hold on a domain that powers off or retires. -/
def State.dropDomain (s : State) (d : Nat) : State :=
  { s with corrections := s.corrections.filter (fun c => decide (c.a ≠ d) && decide (c.b ≠ d)),
           crossings := s.crossings.filter (fun c => decide (c.a ≠ d) && decide (c.b ≠ d)) }

/-- Refuses a write with a code: logged with handling REFUSED, VALUE_REFUSED with the code in DETAIL (R532). -/
def State.refuse (s : State) (p code : Nat) : State :=
  let r : ErrRec := { code := code, handling := .refused }
  (if p < 16 then s.logSlot p r else s.logErr r).answer .valueRefused code

end Sys2Proof.Machine
end

