-- ==== Sys2Proof/Machine/Access.lean ====
section
/-! DEFINITION. The entries of the signal book: every subindex with its type, its access code for each principal, its
persistence and its default, and who reaches it (14 R523 to R527, R553, R555, the access rules of each chapter). -/

namespace Sys2Proof.Machine

/-! ### Entry descriptors (Tables 14.1 to 14.3) -/

/-- Subindexes lo to hi of an object family: type, the access codes of host operator, tenant, maintainer and vendor as the
four hexadecimal digits of [223:208], persistence, DEFAULT_KIND and default, length of an octet string. -/
structure SubEnt where
  lo : Nat
  hi : Nat
  ty : Nat
  codes : Nat
  persist : Nat := 0
  kind : Nat := 0
  dflt : Nat := 0
  len : Nat := 0
  remote : Bool := false
  accum : Bool := false
  deriving DecidableEq, Repr, Inhabited

/-- A family of objects: first index, number, indexes of one slot where SLOTTED (else 0), whether it is a record. -/
structure Family where
  base : Nat
  n : Nat
  per : Nat
  record : Bool
  subs : List SubEnt
  deriving DecidableEq, Repr, Inhabited

/-- Table 14.2: types by number. -/
def tBool : Nat := 0x01
def tU8 : Nat := 0x02
def tU16 : Nat := 0x03
def tU32 : Nat := 0x04
def tU64 : Nat := 0x05
def tI16 : Nat := 0x07
def tF32 : Nat := 0x0A
def tEnum : Nat := 0x0C
def tStr : Nat := 0x0D
def tOct : Nat := 0x0E
def tBlob : Nat := 0x0F

/-- Bytes of a value of a type of fixed length. -/
def typeSize (t : Nat) : Nat :=
  match t with
  | 0x01 => 1 | 0x02 => 1 | 0x03 => 2 | 0x04 => 4 | 0x05 => 8 | 0x06 => 1 | 0x07 => 2 | 0x08 => 4 | 0x09 => 8 | 0x0A => 4
  | 0x0B => 8 | 0x0C => 2 | _ => 0

/-- The digit of a principal in a code word. -/
def codeDigit (codes i : Nat) : Nat := codes / 16 ^ (3 - i) % 16

/-- Subindex 0x00 of a record: U8, the highest subindex, read-only to whoever reaches another subindex (R24). -/
def subZero (l : List SubEnt) : SubEnt :=
  let codes := ((List.range 4).map (fun i => if l.any (fun e => decide (codeDigit e.codes i ≠ 0)) then 16 ^ (3 - i) else 0)).sum
  { lo := 0, hi := 0, ty := tU8, codes := codes, persist := (l.headD default).persist,
    dflt := l.foldl (fun m e => max m e.hi) 0, remote := l.any (fun e => e.remote) }

/-- A family of records, and one of single-field objects. -/
def recs (base n per : Nat) (l : List SubEnt) : Family := ⟨base, n, per, true, subZero l :: l⟩
def single (base n per : Nat) (e : SubEnt) : Family := ⟨base, n, per, false, [e]⟩

/-- Entries of one subindex and of a run of U64 counters. -/
def ent (sub ty codes persist kind dflt : Nat) : SubEnt := ⟨sub, sub, ty, codes, persist, kind, dflt, 0, false, false⟩
def open_ (sub ty persist kind dflt : Nat) : SubEnt := ⟨sub, sub, ty, 0x1111, persist, kind, dflt, 0, true, false⟩
def octs (sub ty codes persist kind len : Nat) : SubEnt := ⟨sub, sub, ty, codes, persist, kind, 0, len, false, false⟩
def ctrs (lo hi codes persist : Nat) : SubEnt := ⟨lo, hi, tU64, codes, persist, 0, 0, 0, false, false⟩

/-- Largest length a descriptor can state for a BLOB. -/
def blobMax : Nat := 0xFFFFFF

/-- Objects of the ranges 0x1000 to 0x2FFF. -/
def fams1 : List Family := [
  recs 0x1000 1 0 [{ open_ 1 tStr 2 1 0 with len := 255 }, open_ 2 tU64 2 1 0, open_ 3 tU8 2 1 0, open_ 4 tU8 2 1 0,
    open_ 5 tU64 2 2 0, open_ 6 tU16 0 2 0, open_ 7 tU8 2 1 0],
  recs 0x1010 1 0 [open_ 1 tU16 2 0 0x0301, open_ 2 tU16 2 0 0x0200, open_ 3 tU16 2 0 0x0102, open_ 4 tU16 2 0 0x0400,
    open_ 5 tU16 2 0 0x0502, open_ 6 tU16 2 0 0x0203, open_ 7 tU32 2 2 0],
  recs 0x1020 1 0 [open_ 1 tEnum 0 2 0, open_ 2 tU64 0 2 0, ent 3 tBool 0x0040 0 0 0],
  recs 0x1030 1 0 [ctrs 1 3 0x1011 0],
  recs 0x1100 14 0 [ent 1 tEnum 0x1010 0 2 0, ent 2 tU8 0x1010 0 2 0, octs 3 tBlob 0x1010 0 2 8240],
  recs 0x2000 1 0 [ent 1 tU16 0x2010 2 0 2450, ent 2 tU16 0x2010 2 0 720],
  recs 0x2001 1 0 [⟨1, 3, tU16, 0x1010, 0, 2, 0, 0, false, false⟩, ⟨4, 6, tI16, 0x1010, 0, 2, 0, 0, false, false⟩,
    ent 7 tU16 0x1010 0 2 0, ctrs 8 8 0x1010 0],
  recs 0x2010 1 0 [ent 1 tU64 0x1111 0 2 0],
  recs 0x2100 68 0 [⟨1, 2, tU32, 0x1111, 0, 2, 0, 0, false, false⟩, ent 3 tU16 0x1111 0 2 0, ent 4 tI16 0x1111 0 2 0,
    ent 5 tU16 0x1111 0 2 0],
  recs 0x2200 80 0 [ent 1 tEnum 0x1010 0 2 0, ent 2 tU16 0x1010 0 2 0, ent 3 tU16 0x1010 0 0 0, ent 4 tI16 0x1010 0 2 0,
    ent 5 tU32 0x1010 0 2 0],
  recs 0x2800 1 0 [ent 1 tU32 0x1010 2 0 0, ent 2 tEnum 0x1010 2 0 0, ent 3 tU8 0x1010 2 0 0, ent 4 tU32 0x1010 2 0 0,
    ent 5 tU32 0x1010 2 0 0, ent 6 tU16 0x1010 2 0 0],
  recs 0x2810 1 0 [ent 1 tU32 0x1010 0 2 0, ent 2 tU16 0x1010 0 2 0, ent 3 tU32 0x1010 0 2 0, ent 4 tEnum 0x1010 0 0 0,
    ent 5 tU32 0x1010 0 2 0]]

/-- Objects of the ranges 0x3000 to 0x4FFF. -/
def fams2 : List Family := [
  recs 0x3000 16 1 [ent 1 tEnum 0x1110 0 0 0, ent 2 tU32 0x2110 0 0 0, ent 3 tU16 0x2110 0 0 0, ent 4 tU8 0x2110 0 0 0,
    ent 5 tBool 0x2110 0 0 0, ent 6 tU64 0x2110 0 0 0, ent 7 tU8 0x2110 0 0 0, ent 8 tU32 0x2110 0 0 0, ent 9 tEnum 0x4400 0 0 0,
    ent 0xA tU16 0x1110 0 0 0],
  single 0x3040 16 1 (octs 0 tOct 0x1110 0 2 32),
  recs 0x3800 1 0 [ent 1 tU8 0x1010 2 2 0, ent 2 tU32 0x1010 2 1 0, ent 3 tEnum 0x1010 0 2 0,
    { octs 4 tBlob 0x4000 2 0 blobMax with accum := true }, ent 5 tBool 0x4000 0 0 0, ent 6 tBool 0x4000 0 0 0],
  recs 0x3810 1 0 [{ octs 1 tBlob 0x1111 2 2 blobMax with remote := true }, { octs 2 tOct 0x1111 2 2 97 with remote := true },
    { octs 3 tOct 0x1111 2 2 48 with remote := true }, { octs 4 tOct 0x1111 0 2 97 with remote := true },
    { octs 5 tOct 0x1111 0 2 96 with remote := true }],
  recs 0x3820 16 1 [octs 1 tOct 0x4400 0 0 32, octs 2 tOct 0x1100 0 2 368, ent 3 tU32 0x1100 0 0 0],
  recs 0x3830 1 0 [octs 1 tOct 0x4040 0 0 32, octs 2 tOct 0x1010 0 2 368, ent 3 tU32 0x1010 0 0 0],
  recs 0x3840 1 0 [octs 1 tOct 0x4040 2 0 48, ent 2 tBool 0x1010 2 2 0],
  recs 0x3850 16 1 [octs 1 tOct 0x4000 0 0 137, ent 2 tBool 0x1110 0 0 0],
  recs 0x4000 1 0 [ent 1 tU16 0x2010 2 0 8, ent 2 tU16 0x2010 2 0 24, ent 3 tU32 0x2010 2 0 50000, ent 4 tBool 0x2010 2 0 1],
  recs 0x4010 8 0 [ctrs 1 9 0x1010 0],
  recs 0x4020 4 0 [ctrs 1 5 0x1010 0],
  recs 0x4030 16 1 [ctrs 1 6 0x1110 0],
  recs 0x4810 4 0 [ctrs 1 4 0x1010 0],
  recs 0x4820 4 0 [ent 1 tEnum 0x1010 0 0 0, ctrs 2 4 0x1010 0]]

/-- Objects of the ranges 0x5000 to 0x7FFF. -/
def fams3 : List Family := [
  recs 0x5000 1 0 [ent 1 tU8 0x1111 2 1 0, ent 2 tU8 0x1111 0 0 0xFF, ent 3 tEnum 0x1111 0 0 0, ent 4 tBool 0x2111 0 0 0,
    ent 5 tBool 0x2111 0 0 0, ent 6 tU32 0x1111 1 0 0],
  recs 0x5010 6 0 [ent 1 tEnum 0x1010 0 0 0, ent 2 tU16 0x1010 0 0 0, ent 3 tU64 0x1010 0 0 0, ent 4 tU16 0x1010 0 0 0xFFFF,
    ent 5 tU64 0x1010 0 0 0],
  recs 0x5020 1 0 [⟨1, 2, tU16, 0x2000, 2, 0, 4096, 0, false, false⟩, ent 3 tU16 0x2000 2 0 1024,
    ⟨4, 5, tU16, 0x2000, 2, 0, 256, 0, false, false⟩, ent 6 tU16 0x2000 2 0 4096, ent 7 tU16 0x2000 2 0 1024,
    ent 8 tU16 0x2000 2 0 2048, ent 9 tU8 0x2000 2 0 8, ent 0xA tU8 0x2000 2 0 4, ent 0xB tU8 0x2000 2 0 1,
    ⟨0xC, 0xD, tU8, 0x1000, 2, 0, 0, 0, false, false⟩, ent 0xE tU8 0x2000 2 0 8, ent 0xF tU8 0x2000 2 0 1,
    ent 0x10 tU8 0x2000 2 0 2, ent 0x11 tU32 0x2000 2 0 100],
  recs 0x5040 16 1 [ent 1 tU32 0x1110 0 0 0, ent 2 tU32 0x1110 0 0 0, ent 3 tU8 0x1110 0 0 0, ctrs 4 5 0x1110 0],
  recs 0x6060 1 0 [ent 1 tU8 0x2000 0 0 8, ent 2 tBool 0x0020 0 0 0],
  recs 0x6180 16 1 [ent 1 tBool 0x2210 0 0 0, ent 2 tU32 0x2110 0 0 65536, ent 3 tU32 0x2110 0 0 16777216],
  recs 0x6200 16 1 [ent 1 tU64 0x1110 0 0 0, ent 2 tU16 0x1110 0 0 0, ctrs 3 9 0x1110 0],
  recs 0x6240 16 1 [ent 1 tU64 0x1110 1 3 0, ent 2 tU64 0x3110 1 3 0, ent 3 tU64 0x4000 1 0 0, ent 4 tBool 0x1110 1 0 0,
    ent 5 tU64 0x1110 1 0 0, ent 6 tU64 0x1110 1 0 0xFFFFFFFFFFFFFFFF],
  recs 0x6300 16 1 [⟨1, 5, tU8, 0x1110, 0, 0, 0, 0, false, false⟩, ent 6 tU16 0x1110 0 0 0],
  recs 0x6400 1024 0 [⟨1, 2, tU32, 0x1110, 0, 0, 0, 0, false, false⟩, ctrs 3 4 0x1110 0],
  recs 0x7000 64 4 [ent 1 tF32 0x3110 1 3 0, ent 2 tEnum 0x3110 1 3 0, ent 3 tU32 0x3110 1 3 0, ent 4 tEnum 0x3110 1 3 0,
    ent 5 tU32 0x3110 1 3 0, ⟨6, 7, tF32, 0x3110, 1, 3, 0, 0, false, false⟩, ent 8 tU8 0x3110 1 3 0, ent 9 tU64 0x4000 1 0 0,
    ent 0xA tBool 0x1110 1 0 0],
  recs 0x7080 1 0 [ent 1 tU32 0x2000 2 0 30000]]

/-- Objects of the ranges from 0x8000. -/
def fams4 : List Family := [
  recs 0x8000 1 0 [ent 1 tU16 0x1010 1 0 0, ent 2 tU32 0x1010 1 0 0, ctrs 3 3 0x1010 1, ent 4 tBool 0x0040 1 0 0],
  recs 0x8010 1 0 [ent 1 tU32 0x2000 2 0 0x80000000, ent 2 tU16 0x2000 2 0 90, ent 3 tU8 0x2000 2 0 3, ent 4 tU32 0x2000 2 0 24],
  recs 0x8020 16 1 [ent 1 tEnum 0x1110 0 0 0, ent 2 tU64 0x1110 0 0 0, ent 3 tU32 0x1110 0 0 0, ent 4 tU64 0x1110 0 0 0,
    ent 5 tBool 0x4000 0 0 0, ent 6 tU8 0x2110 0 0 0xFF],
  recs 0x8040 1 0 [ctrs 1 2 0x1010 2, ent 3 tU16 0x1010 2 0 0, ent 4 tU8 0x1010 2 0 0],
  recs 0x8400 4 0 [ctrs 1 3 0x1111 0],
  single 0x8800 1024 0 (octs 0 tOct 0x1110 1 2 64),
  recs 0x9000 1 0 [ent 1 tBool 0x2010 2 0 0, ent 2 tU16 0x2010 2 0 16, ent 3 tU16 0x1010 2 0 0],
  recs 0x9004 1 0 [ent 1 tBool 0x0020 0 0 0, ent 2 tBool 0x0020 0 0 0],
  recs 0x9008 1 0 [ent 1 tEnum 0x1010 0 2 0, ent 2 tU8 0x1010 0 0 0, ent 3 tU32 0x1010 0 0 0, ctrs 4 4 0x1010 0],
  recs 0x9010 20 0 [ent 1 tEnum 0x2020 0 0 0, ent 2 tU32 0x2020 0 0 4000, ent 3 tBool 0x4040 0 0 0, ent 4 tEnum 0x1010 0 0 0,
    ctrs 5 6 0x1010 0, ent 7 tI16 0x1010 0 0 0],
  recs 0x9030 1 0 [ctrs 1 1 0x1010 0, ent 2 tU8 0x1010 0 0 0, ent 3 tU16 0x1010 0 0 0, ctrs 4 4 0x1010 0],
  recs 0x9040 1 0 [ent 1 tBool 0x0040 0 0 0],
  recs 0x9060 1 0 [ent 1 tU16 0x2000 0 0 0],
  recs 0xA000 16 1 [ctrs 1 0x13 0x1110 1, ent 0x14 tBool 0x4440 1 0 0, ent 0x15 tU32 0x1110 1 0 0, ctrs 0x16 0x16 0x1110 1],
  recs 0xA020 16 1 [ctrs 1 0x13 0x1010 1, ent 0x15 tU32 0x1010 1 0 0, ctrs 0x16 0x16 0x1010 1,
    ⟨0x17, 0x18, tU32, 0x1010, 1, 0, 0, 0, false, false⟩],
  recs 0xA040 1 0 [ent 1 tU32 0x1111 2 0 12, ent 2 tU32 0x1111 2 0 50, ent 3 tU32 0x1111 2 0 5, ent 4 tU32 0x1111 2 0 45,
    ent 5 tU32 0x1111 2 0 20, ent 6 tU32 0x1111 2 0 1750],
  recs 0xA100 64 0 [ctrs 1 5 0x1110 0],
  recs 0xA140 4 0 [ctrs 1 5 0x1010 0],
  recs 0xA150 16 1 [ctrs 1 7 0x1110 0],
  recs 0xA160 16 1 [ctrs 1 6 0x1110 0],
  recs 0xA170 16 1 [ctrs 1 6 0x1110 0],
  recs 0xA180 6 0 [ctrs 1 8 0x1010 0],
  recs 0xA190 16 1 [ctrs 1 6 0x1110 0],
  recs 0xA200 64 0 [ctrs 1 1 0x1110 0, ctrs 0x10 0x1E 0x1110 0, ctrs 0x20 0x2E 0x1110 0, ctrs 0x30 0x3E 0x1110 0],
  recs 0xA240 4 0 [ctrs 1 1 0x1010 0, ctrs 0x10 0x1E 0x1010 0],
  recs 0xA250 1 0 [ctrs 1 1 0x1110 0, ctrs 0x10 0x1E 0x1110 0, ctrs 0x20 0x2E 0x1110 0, ctrs 0x30 0x3E 0x1110 0],
  recs 0xF000 1 0 [octs 1 tOct 0x0040 0 0 256, octs 2 tOct 0x0010 0 2 97, ent 3 tBool 0x0040 0 0 0]]

/-- The dictionary, in ascending order of index (Table 14.15). -/
def fams : List Family := fams1 ++ fams2 ++ fams3 ++ fams4

def famOf (ix : Nat) : Option Family := fams.find? (fun f => decide (f.base ≤ ix) && decide (ix < f.base + f.n))
def Family.sub (f : Family) (sub : Nat) : Option SubEnt := f.subs.find? (fun e => decide (e.lo ≤ sub) && decide (sub ≤ e.hi))

/-- Largest value of an entry in bytes. -/
def SubEnt.maxLen (e : SubEnt) : Nat := if typeSize e.ty = 0 then e.len else typeSize e.ty

/-- The descriptor of a subindex (Table 14.1). -/
def descriptor (ix sub : Nat) (f : Family) (e : SubEnt) : BitVec 256 :=
  BitVec.ofNat 256 (ix * 2 ^ 240 + sub * 2 ^ 232 + e.ty * 2 ^ 224 + e.codes * 2 ^ 208 + e.persist * 2 ^ 206 + b2n e.remote * 2 ^ 205
    + b2n (decide (f.per ≠ 0)) * 2 ^ 204 + e.kind * 2 ^ 202 + b2n f.record * 2 ^ 201 + b2n e.accum * 2 ^ 200 + e.maxLen * 2 ^ 168
    + e.dflt * 2 ^ 64)

/-! ### Who reaches what (R525, R526, R509, R549, R553) -/

/-- An access code of Table 14.3. -/
def accOf (n : Nat) : Acc :=
  match n with
  | 1 => .ro | 2 => .rw | 3 => .rwd | 4 => .wo | 5 => .w1c | 6 => .rc | _ => .none

/-- The record that lies in object 0x8800 + m. -/
def State.recordAt (s : State) (m : Nat) : Option LogRec := s.log.recs.find? (fun r => decide (r.no % 1024 = m))

/-- Whether an object exists at present: a log record's only where it holds one (R480). -/
def State.present (s : State) (ix : Nat) : Bool :=
  if 0x8800 ≤ ix ∧ ix < 0x8C00 then (s.recordAt (ix - 0x8800)).isSome else true

/-- Whether a tenant reaches an object: those of its own slot, those open to all, its records, its groups', its queues'. -/
def State.tenantReach (s : State) (f : Family) (p ix : Nat) : Bool :=
  if f.per ≠ 0 then decide ((ix - f.base) / f.per = p)
  else if f.base = 0x8800 then (match s.recordAt (ix - 0x8800) with | some r => decide (r.body.pennant = p) | none => false)
  else if f.base = 0xA100 ∨ f.base = 0xA200 then (s.slot p).granule (granuleOf ((ix - f.base) / 16) ((ix - f.base) % 16))
  else if f.base = 0xA250 then (s.slot p).granule (granuleOf (s.test.tileSel / 512) (s.test.tileSel / 32 % 16))
  else if f.base = 0x6400 then (match tget? s.queues (ix - 0x6400) with | some q => decide (q.slot = p) | none => false)
  else true

/-- The access code of a principal for a subindex: `none` where it is absent for it. A peer's `slot` names the pennant whose
TENANT its packet carries. -/
def State.reach (s : State) (via : Via) (ix sub : Nat) : Acc :=
  match famOf ix with
  | none => .none
  | some f =>
    match f.sub sub with
    | none => .none
    | some e =>
      if ¬ s.present ix then .none
      else
        match via.who with
        | .host => accOf (codeDigit e.codes 0)
        | .tenant => if s.tenantReach f via.slot ix then accOf (codeDigit e.codes 1) else .none
        | .maint => accOf (codeDigit e.codes 2)
        | .vendor => accOf (codeDigit e.codes 3)
        | .peer => if e.remote ∨ ix = 0x3040 + via.slot then .ro else .none
        | .anonymous => if e.remote ∧ ix < 0x1100 then .ro else .none

/-- What a module whose firmware slots were both refused serves (R592). -/
def limitedOpen (ix sub : Nat) : Bool :=
  (decide (0x1000 ≤ ix) && decide (ix < 0x1100)) || decide (ix = 0x8000) || (decide (0x8800 ≤ ix) && decide (ix < 0x8C00))
    || (decide (ix = 0x3800) && decide (sub ≤ 5))

/-- The code in force: in limited service only the host operator and the maintainer, over PCIe's physical function and the
management transport, reach what R592 lists. -/
def State.accFor (s : State) (via : Via) (ix sub : Nat) : Acc :=
  if s.mod.limited && !(limitedOpen ix sub && (decide (via.who = .host) || decide (via.who = .maint))) then .none
  else s.reach via ix sub

/-- The first index of a family plus a slot or port number, 0 (absent) where the number is out of range. -/
def ixOf (base n k : Nat) : Nat := if k < n then base + k else 0

/-- A write to a subindex: nothing in Dark, BUSY while Dipping (R531), by its access code else (R525, R533). -/
def State.guard (s : State) (via : Via) (ix sub : Nat) (f : State → State) : State :=
  match s.mod.state with
  | .dark => s
  | .dipping => s.answer .busy
  | _ =>
    match s.accFor via ix sub with
    | .none => s.answer (if via.who = .peer then .accessDenied else .objectAbsent)
    | .ro => s.answer .ok
    | .rc => s.answer .ok
    | _ => f s

end Sys2Proof.Machine
end

