-- ==== Sys2Proof/Machine/Crypto.lean ====
section
/-! DEFINITION. The standard algorithms that the manual names: AES-256 (FIPS 197) with GCM (R425), XTS (IEEE 1619, R288) and
key wrap with padding (RFC 5649, R502), SHA-384 (FIPS 180-4), HMAC (RFC 2104) and HKDF (RFC 5869) over it, and ECDH and ECDSA
on brainpoolP384r1 (RFC 5639) with the nonces of RFC 6979 (R503, R516). Octet strings stand in their standards' order (R12). -/

namespace Sys2Proof.Machine

/-! ### AES-256 (FIPS 197) -/

/-- The S-box and its inverse, entry b in octet b. -/
def sboxTable : Nat :=
  0x16bb54b00f2d99416842e6bf0d89a18cdf2855cee9871e9b948ed9691198f8e19e1dc186b95735610ef6034866b53e708a8bbd4b1f74dde8c6b4a61c2e2578ba08ae7a65eaf4566ca94ed58d6d37c8e779e4959162acd3c25c2406490a3a32e0db0b5ede14b8ee4688902a22dc4f816073195d643d7ea7c41744975fec130ccdd2f3ff1021dab6bcf5389d928f40a351a89f3c507f02f94585334d43fbaaefd0cf584c4a39becb6a5bb1fc20ed00d153842fe329b3d63b52a05a6e1b1a2c830975b227ebe28012079a059618c323c7041531d871f1e5a534ccf73f362693fdb7c072a49cafa2d4adf04759fa7dc982ca76abd7fe2b670130c56f6bf27b777c63
def invSboxTable : Nat :=
  0x7d0c2155631469e126d677ba7e042b17619953833cbbebc8b0f52aae4d3be0a0ef9cc9939f7ae52d0d4ab519a97f51605fec8027591012b131c7078833a8dd1ff45acd78fec0db9a2079d2c64b3e56fc1bbe18aa0e62b76f89c5291d711af1476edf751ce837f9e28535ade72274ac9673e6b4f0cecff297eadc674f4111913a6b8a130103bdafc1020f3fca8f1e2cd00645b3b80558e4f70ad3bc8c00abd890849d8da75746155edab9edfd5048706c92b6655dcc5ca4d41698688664f6f87225d18b6d49a25b76b224d92866a12e084ec3fa420b954cee3d23c2a632947b54cbe9dec444438e3487ff2f9b8239e37cfbd7f3819ea340bf38a53630d56a0952
def sbox (b : Byte) : Byte := BitVec.ofNat 8 (sboxTable >>> (8 * b.toNat))
def invSbox (b : Byte) : Byte := BitVec.ofNat 8 (invSboxTable >>> (8 * b.toNat))

/-- XOR of octet strings. -/
def xorBytes (a b : List Byte) : List Byte := List.zipWith (· ^^^ ·) a b

/-- The product with x in the field of AES. -/
def xtime (b : Byte) : Byte := (b <<< 1) ^^^ (if b.msb then 0x1b#8 else 0#8)
/-- The product of a constant below 16 with a field element. -/
def aesMul (c : Nat) (b : Byte) : Byte :=
  let b2 := xtime b; let b4 := xtime b2; let b8 := xtime b4
  (if c % 2 = 1 then b else 0#8) ^^^ (if c / 2 % 2 = 1 then b2 else 0#8) ^^^ (if c / 4 % 2 = 1 then b4 else 0#8)
    ^^^ (if c / 8 % 2 = 1 then b8 else 0#8)

/-- ShiftRows and its inverse: octet r + 4c of the state is row r, column c. -/
def shiftRows (s : List Byte) : List Byte := (List.range 16).map (fun i => s.getD ((i + 4 * (i % 4)) % 16) 0)
def invShiftRows (s : List Byte) : List Byte := (List.range 16).map (fun i => s.getD ((i + 12 * (i % 4)) % 16) 0)

/-- A column product with the circulant matrix of a first row. -/
def mixWith (c0 c1 c2 c3 : Nat) (s : List Byte) : List Byte :=
  (List.range 16).map (fun i =>
    let at_ := fun (r : Nat) => s.getD (i / 4 * 4 + (i + r) % 4) 0
    aesMul c0 (at_ 0) ^^^ aesMul c1 (at_ 1) ^^^ aesMul c2 (at_ 2) ^^^ aesMul c3 (at_ 3))
def mixColumns (s : List Byte) : List Byte := mixWith 2 3 1 1 s
def invMixColumns (s : List Byte) : List Byte := mixWith 14 11 13 9 s

/-- Words 8 to 59 of the key schedule, newest first, from the words before them. -/
def expandKey (n i : Nat) (rc : Byte) (ws : List (List Byte)) : List (List Byte) :=
  match n with
  | 0 => ws
  | n + 1 =>
    let prev := ws.headD []
    let t := if i % 8 = 0 then xorBytes ((prev.drop 1 ++ prev.take 1).map sbox) [rc, 0#8, 0#8, 0#8]
      else if i % 8 = 4 then prev.map sbox else prev
    expandKey n (i + 1) (if i % 8 = 0 then xtime rc else rc) (xorBytes (ws.getD 7 []) t :: ws)

/-- The 15 round keys of a 32-octet key. -/
def roundKeys (key : List Byte) : List (List Byte) :=
  (chunks 4 (expandKey 52 8 1#8 (chunks 4 key).reverse).reverse).map List.flatten

def aesRound (s k : List Byte) : List Byte := xorBytes (mixColumns (shiftRows (s.map sbox))) k
def aesRoundInv (s k : List Byte) : List Byte := (invShiftRows (invMixColumns (xorBytes s k))).map invSbox

/-- One block of 16 octets under a 32-octet key, and back. -/
def aesBlock (key s : List Byte) : List Byte :=
  let ks := roundKeys key
  xorBytes (shiftRows ((((ks.drop 1).take 13).foldl aesRound (xorBytes s (ks.headD []))).map sbox)) (ks.getD 14 [])
def aesBlockInv (key s : List Byte) : List Byte :=
  let ks := roundKeys key
  xorBytes (((ks.drop 1).take 13).reverse.foldl aesRoundInv ((invShiftRows (xorBytes s (ks.getD 14 []))).map invSbox)) (ks.headD [])

/-- AES-256 of a block held as a little-endian number: octet i is bits [8i+7:8i] of the block and of the key. -/
def aesEnc (key : BitVec 256) (b : Data128) : Data128 :=
  BitVec.ofNat 128 (leNat (aesBlock (bytesLE 32 key.toNat) (bytesLE 16 b.toNat)))
def aesDec (key : BitVec 256) (b : Data128) : Data128 :=
  BitVec.ofNat 128 (leNat (aesBlockInv (bytesLE 32 key.toNat) (bytesLE 16 b.toNat)))

/-! ### XTS (IEEE 1619, R288) -/

/-- The product of an XTS tweak with the primitive element: byte 0 is bits [7:0]. -/
def xtsNext (t : BitVec 128) : BitVec 128 := (t <<< 1) ^^^ (if t.msb then 0x87#128 else 0#128)
/-- The tweak of block j: the unit address as 16 little-endian bytes, encrypted under the second key, then advanced j times. The
512-bit key holds the data key in its low half (PRESUMED, log 2). -/
def xtsTweak (key : BitVec 512) (unit j : Nat) : BitVec 128 :=
  (List.range j).foldl (fun t _ => xtsNext t) (aesEnc (BitVec.ofNat 256 (key.toNat / 2 ^ 256)) (BitVec.ofNat 128 unit))
def xtsEnc (key : BitVec 512) (unit j : Nat) (p : Data128) : Data128 :=
  let t := xtsTweak key unit j
  aesEnc (BitVec.ofNat 256 key.toNat) (p ^^^ t) ^^^ t
def xtsDec (key : BitVec 512) (unit j : Nat) (c : Data128) : Data128 :=
  let t := xtsTweak key unit j
  aesDec (BitVec.ofNat 256 key.toNat) (c ^^^ t) ^^^ t

/-! ### SHA-384, HMAC, HKDF -/

/-- Constants of FIPS 180-4, 4.2.3 and 5.3.4. -/
def shaConst : List Word64 :=
  [0x428a2f98d728ae22#64, 0x7137449123ef65cd#64, 0xb5c0fbcfec4d3b2f#64, 0xe9b5dba58189dbbc#64, 0x3956c25bf348b538#64,
   0x59f111f1b605d019#64, 0x923f82a4af194f9b#64, 0xab1c5ed5da6d8118#64, 0xd807aa98a3030242#64, 0x12835b0145706fbe#64,
   0x243185be4ee4b28c#64, 0x550c7dc3d5ffb4e2#64, 0x72be5d74f27b896f#64, 0x80deb1fe3b1696b1#64, 0x9bdc06a725c71235#64,
   0xc19bf174cf692694#64, 0xe49b69c19ef14ad2#64, 0xefbe4786384f25e3#64, 0x0fc19dc68b8cd5b5#64, 0x240ca1cc77ac9c65#64]
  ++ [0x2de92c6f592b0275#64, 0x4a7484aa6ea6e483#64, 0x5cb0a9dcbd41fbd4#64, 0x76f988da831153b5#64, 0x983e5152ee66dfab#64,
   0xa831c66d2db43210#64, 0xb00327c898fb213f#64, 0xbf597fc7beef0ee4#64, 0xc6e00bf33da88fc2#64, 0xd5a79147930aa725#64,
   0x06ca6351e003826f#64, 0x142929670a0e6e70#64, 0x27b70a8546d22ffc#64, 0x2e1b21385c26c926#64, 0x4d2c6dfc5ac42aed#64,
   0x53380d139d95b3df#64, 0x650a73548baf63de#64, 0x766a0abb3c77b2a8#64, 0x81c2c92e47edaee6#64, 0x92722c851482353b#64]
  ++ [0xa2bfe8a14cf10364#64, 0xa81a664bbc423001#64, 0xc24b8b70d0f89791#64, 0xc76c51a30654be30#64, 0xd192e819d6ef5218#64,
   0xd69906245565a910#64, 0xf40e35855771202a#64, 0x106aa07032bbd1b8#64, 0x19a4c116b8d2d0c8#64, 0x1e376c085141ab53#64,
   0x2748774cdf8eeb99#64, 0x34b0bcb5e19b48a8#64, 0x391c0cb3c5c95a63#64, 0x4ed8aa4ae3418acb#64, 0x5b9cca4f7763e373#64,
   0x682e6ff3d6b2b8a3#64, 0x748f82ee5defb2fc#64, 0x78a5636f43172f60#64, 0x84c87814a1f0ab72#64, 0x8cc702081a6439ec#64]
  ++ [0x90befffa23631e28#64, 0xa4506cebde82bde9#64, 0xbef9a3f7b2c67915#64, 0xc67178f2e372532b#64, 0xca273eceea26619c#64,
   0xd186b8c721c0c207#64, 0xeada7dd6cde0eb1e#64, 0xf57d4f7fee6ed178#64, 0x06f067aa72176fba#64, 0x0a637dc5a2c898a6#64,
   0x113f9804bef90dae#64, 0x1b710b35131c471b#64, 0x28db77f523047d84#64, 0x32caab7b40c72493#64, 0x3c9ebe0a15c9bebc#64,
   0x431d67c49c100d4c#64, 0x4cc5d4becb3e42b6#64, 0x597f299cfc657e2a#64, 0x5fcb6fab3ad6faec#64, 0x6c44198c4a475817#64]
def shaInit : List Word64 := [0xcbbb9d5dc1059ed8#64, 0x629a292a367cd507#64, 0x9159015a3070dd17#64, 0x152fecd8f70e5939#64, 0x67332667ffc00b31#64, 0x8eb44a8768581511#64, 0xdb0c2e0d64f98fa7#64, 0x47b5481dbefa4fa4#64]

/-- The number that an octet string spells, first octet highest, and its inverse. -/
def beNat (l : List Byte) : Nat := l.foldl (fun n b => 256 * n + b.toNat) 0
def bytesBE (n x : Nat) : List Byte := (bytesLE n x).reverse

/-- Message schedule words 16 to 79, newest first. -/
def shaSchedule (n : Nat) (ws : List Word64) : List Word64 :=
  match n with
  | 0 => ws
  | n + 1 =>
    let a := ws.getD 14 0; let b := ws.getD 1 0
    let s0 := a.rotateRight 1 ^^^ a.rotateRight 8 ^^^ (a >>> 7)
    let s1 := b.rotateRight 19 ^^^ b.rotateRight 61 ^^^ (b >>> 6)
    shaSchedule n ((s1 + ws.getD 6 0 + s0 + ws.getD 15 0) :: ws)

/-- One round on the working variables a to h. -/
def shaRound (v : List Word64) (kw : Word64 × Word64) : List Word64 :=
  let a := v.getD 0 0; let b := v.getD 1 0; let c := v.getD 2 0; let d := v.getD 3 0
  let e := v.getD 4 0; let f := v.getD 5 0; let g := v.getD 6 0; let h := v.getD 7 0
  let t1 := h + (e.rotateRight 14 ^^^ e.rotateRight 18 ^^^ e.rotateRight 41) + ((e &&& f) ^^^ (~~~e &&& g)) + kw.1 + kw.2
  let t2 := (a.rotateRight 28 ^^^ a.rotateRight 34 ^^^ a.rotateRight 39) + ((a &&& b) ^^^ (a &&& c) ^^^ (b &&& c))
  [t1 + t2, a, b, c, d + t1, e, f, g]

/-- One 128-octet block. -/
def shaBlock (h : List Word64) (block : List Byte) : List Word64 :=
  let ws := (chunks 8 block).map (fun c => BitVec.ofNat 64 (beNat c))
  List.zipWith (· + ·) h ((shaConst.zip (shaSchedule 64 ws.reverse).reverse).foldl shaRound h)

/-- SHA-384 of an octet string: the hash as a number whose highest octet comes first. -/
def sha384 (m : List Byte) : BitVec 384 :=
  let pad := 0x80#8 :: List.replicate ((239 - m.length % 128) % 128) 0#8 ++ bytesBE 16 (8 * m.length)
  let h := (chunks 128 (m ++ pad)).foldl shaBlock shaInit
  BitVec.ofNat 384 (beNat ((h.take 6).flatMap (fun w => bytesBE 8 w.toNat)))

/-- HMAC-SHA-384: 48 octets. -/
def hmac384 (key m : List Byte) : List Byte :=
  let k := (if 128 < key.length then hashOctets (sha384 key) else key)
  let k := k ++ List.replicate (128 - k.length) 0#8
  let inner := hashOctets (sha384 (k.map (· ^^^ 0x36#8) ++ m))
  hashOctets (sha384 (k.map (· ^^^ 0x5c#8) ++ inner))

/-- HKDF-SHA-384: salt, keying material, info and an output of at most 48 octets (one block of its expansion). -/
def hkdf384 (salt ikm info : List Byte) (n : Nat) : List Byte :=
  (hmac384 (hmac384 (if salt = [] then List.replicate 48 0#8 else salt) ikm) (info ++ [1#8])).take n
/-- 32 octets of HKDF-SHA-384 as a key. -/
def hkdfKey (salt ikm info : List Byte) : BitVec 256 := BitVec.ofNat 256 (leNat (hkdf384 salt ikm info 32))

/-! ### GCM (R425) -/

/-- The block of octets as GCM's field element: the first bit is the highest. -/
def gcmOf (b : List Byte) : BitVec 128 := BitVec.ofNat 128 (beNat b * 256 ^ (16 - b.length))
/-- The product in GCM's field: `x` from its first bit on, `v` the other factor's power. -/
def gcmMulGo (n : Nat) (x v z : BitVec 128) : BitVec 128 :=
  match n with
  | 0 => z
  | n + 1 => gcmMulGo n (x <<< 1) ((v >>> 1) ^^^ (if v.toNat % 2 = 1 then BitVec.ofNat 128 (0xe1 * 2 ^ 120) else 0#128))
      (if x.msb then z ^^^ v else z)
def gcmMul (x y : BitVec 128) : BitVec 128 := gcmMulGo 128 x y 0
def ghash (h : BitVec 128) (blocks : List (BitVec 128)) : BitVec 128 := blocks.foldl (fun y b => gcmMul (y ^^^ b) h) 0

/-- AES-256 on octet strings. -/
def aesOctets (key : BitVec 256) (b : List Byte) : List Byte := aesBlock (bytesLE 32 key.toNat) b
/-- Counter block n of a 12-octet IV, encrypted. -/
def gcmStream (key : BitVec 256) (iv n : Nat) : List Byte := aesOctets key (bytesLE 12 iv ++ bytesBE 4 n)
/-- The plaintext or ciphertext of a unit, 2 blocks of the stream; unit i takes counters 2i + 2 and 2i + 3. -/
def gcmUnit (key : BitVec 256) (iv i : Nat) (u : BitVec 256) : BitVec 256 :=
  u ^^^ BitVec.ofNat 256 (leNat (gcmStream key iv (2 * i + 2) ++ gcmStream key iv (2 * i + 3)))
/-- The data units of a packet under the stream; the same operation encrypts and decrypts. -/
def gcmUnits (key : BitVec 256) (iv : Nat) (us : List (BitVec 256)) : List (BitVec 256) := us.mapIdx (gcmUnit key iv)
/-- The trailer unit: the tag over the header and the encrypted units in octets 0 to 15, zeros in the rest. -/
def gcmTrailer (key : BitVec 256) (iv : Nat) (hdr : BitVec 256) (cs : List (BitVec 256)) : BitVec 256 :=
  let h := gcmOf (aesOctets key (List.replicate 16 0#8))
  let blocks := (chunks 16 ((hdr :: cs).flatMap (fun u => bytesLE 32 u.toNat))).map gcmOf
  let s := ghash h (blocks ++ [gcmOf (bytesBE 8 256 ++ bytesBE 8 (256 * cs.length))])
  BitVec.ofNat 256 (leNat (xorBytes (bytesBE 16 s.toNat) (gcmStream key iv 1)))

/-! ### Key wrap with padding (RFC 5649) -/

/-- One step t of the wrapping process on A and the register i. -/
def wrapStep (key : BitVec 256) (n : Nat) (s : List Byte × List (List Byte)) (t : Nat) : List Byte × List (List Byte) :=
  let b := aesOctets key (s.1 ++ s.2.getD (t % n) [])
  (xorBytes (b.take 8) (bytesBE 8 (t + 1)), s.2.set (t % n) (b.drop 8))
def unwrapStep (key : BitVec 256) (n : Nat) (s : List Byte × List (List Byte)) (t : Nat) : List Byte × List (List Byte) :=
  let b := aesBlockInv (bytesLE 32 key.toNat) (xorBytes s.1 (bytesBE 8 (t + 1)) ++ s.2.getD (t % n) [])
  (b.take 8, s.2.set (t % n) (b.drop 8))

/-- The alternative initial value of a plaintext of n octets. -/
def wrapAiv (n : Nat) : List Byte := [0xA6#8, 0x59#8, 0x59#8, 0xA6#8] ++ bytesBE 4 n

/-- A key of more than 8 octets, a multiple of 8, wrapped: 8 octets more. -/
def keyWrap (key : BitVec 256) (p : List Byte) : List Byte :=
  let n := p.length / 8
  let r := (List.range (6 * n)).foldl (wrapStep key n) (wrapAiv p.length, chunks 8 p)
  r.1 ++ r.2.flatten
/-- The `n` octets of a wrapped key; none where the integrity check fails. -/
def keyUnwrap (key : BitVec 256) (n : Nat) (c : List Byte) : Option (List Byte) :=
  if c.length ≠ n + 8 then none
  else
    let r := (List.range (6 * (n / 8))).reverse.foldl (unwrapStep key (n / 8)) (c.take 8, chunks 8 (c.drop 8))
    if r.1 = wrapAiv n then some r.2.flatten else none

/-! ### brainpoolP384r1 (RFC 5639) -/

def ecP : Nat := 0x8CB91E82A3386D280F5D6F7E50E641DF152F7109ED5456B412B1DA197FB71123ACD3A729901D1A71874700133107EC53
def ecA : Nat := 0x7BC382C63D8C150C3C72080ACE05AFA0C2BEA28E4FB22787139165EFBA91F90F8AA5814A503AD4EB04A8C7DD22CE2826
def ecB : Nat := 0x04A8C7DD22CE28268B39B55416F0447C2FB77DE107DCD2A62E880EA53EEB62D57CB4390295DBC9943AB78696FA504C11
def ecN : Nat := 0x8CB91E82A3386D280F5D6F7E50E641DF152F7109ED5456B31F166E6CAC0425A7CF3AB6AF6B7FC3103B883202E9046565
def ecG : Nat × Nat :=
  (0x1D1C64F068CF45FFA2A63A81B7C13F6B8847A3E77EF14FE3DB7FCAFE0CBD10E8E826E03436D646AAEF87B2E247D4AF1E,
   0x8ABE1D7520F9C2A45CB1EB8E95CFD55262B70B29FEEC5864E19C054FF99129280E4646217791811142820341263C5315)

/-- b to the e modulo m, over the low `bits` bits of e from the highest on. -/
def powMod (bits b e m : Nat) : Nat :=
  match bits with
  | 0 => 1 % m
  | n + 1 => let r := powMod n b (e / 2) m; let q := r * r % m; if e % 2 = 1 then q * b % m else q
/-- The inverse modulo a prime below 2^384. -/
def invMod (x m : Nat) : Nat := powMod 384 x (m - 2) m
def subMod (x y m : Nat) : Nat := (x + (m - y % m)) % m

/-- The sum of two points; none is the point at infinity. -/
def ecAdd (p q : Option (Nat × Nat)) : Option (Nat × Nat) :=
  match p, q with
  | none, _ => q
  | _, none => p
  | some (x1, y1), some (x2, y2) =>
    let go := fun (l : Nat) => let x := subMod (l * l) (x1 + x2) ecP; some (x, subMod (l * subMod x1 x ecP) y1 ecP)
    if x1 ≠ x2 then go (subMod y2 y1 ecP * invMod (subMod x2 x1 ecP) ecP % ecP)
    else if y1 ≠ y2 ∨ y1 = 0 then none
    else go ((3 * x1 * x1 + ecA) * invMod (2 * y1) ecP % ecP)

/-- k times a point, over the low `bits` bits of k. -/
def ecMulGo (bits k : Nat) (p : Option (Nat × Nat)) : Option (Nat × Nat) :=
  match bits with
  | 0 => none
  | n + 1 => let r := ecMulGo n (k / 2) p; let d := ecAdd r r; if k % 2 = 1 then ecAdd d p else d
def ecMul (k : Nat) (p : Option (Nat × Nat)) : Option (Nat × Nat) := ecMulGo 384 k p

/-- Whether a point lies on the curve. -/
def ecOn (p : Nat × Nat) : Bool :=
  decide (p.1 < ecP) && decide (p.2 < ecP) && decide (p.2 * p.2 % ecP = (p.1 * p.1 * p.1 + ecA * p.1 + ecB) % ecP)

/-- An uncompressed point of 97 octets. -/
def pointOctets (p : Option (Nat × Nat)) : List Byte :=
  match p with
  | some (x, y) => 4#8 :: bytesBE 48 x ++ bytesBE 48 y
  | none => [0#8]
def pointOf (l : List Byte) : Option (Nat × Nat) :=
  let p := (beNat ((l.drop 1).take 48), beNat (l.drop 49))
  if l.length = 97 ∧ l.headD 0 = 4#8 ∧ ecOn p then some p else none

/-- A private scalar from random bits: 1 to n − 1. -/
def scalarOf (r : BitVec 512) : BitVec 384 := BitVec.ofNat 384 (r.toNat % (ecN - 1) + 1)
/-- The public key of a private scalar. -/
def ecPub (d : BitVec 384) : List Byte := pointOctets (ecMul d.toNat (some ecG))
/-- The 48-octet X coordinate of a shared point: a private scalar with a public key; none where the key is no point. -/
def ecdh (d : BitVec 384) (pub : List Byte) : List Byte :=
  match (pointOf pub).bind (fun p => ecMul d.toNat (some p)) with
  | some (x, _) => bytesBE 48 x
  | none => []

/-- The nonce candidates of RFC 6979 with HMAC-SHA-384: the first that lies from 1 to n − 1. -/
def nonceGo (fuel : Nat) (k v : List Byte) : Nat :=
  match fuel with
  | 0 => 0
  | f + 1 =>
    let v := hmac384 k v
    let t := beNat v
    if 1 ≤ t ∧ t < ecN then t
    else let k := hmac384 k (v ++ [0#8]); nonceGo f k (hmac384 k v)
def detNonce (d h : Nat) : Nat :=
  let seed := bytesBE 48 d ++ bytesBE 48 (h % ecN)
  let v := List.replicate 48 1#8
  let k := hmac384 (List.replicate 48 0#8) (v ++ [0#8] ++ seed)
  let v := hmac384 k v
  let k := hmac384 k (v ++ [1#8] ++ seed)
  nonceGo 100 k (hmac384 k v)

/-- An ECDSA signature with SHA-384: r then s, 48 octets each. -/
def ecdsaSign (d : BitVec 384) (m : List Byte) : List Byte :=
  let h := (sha384 m).toNat
  let k := detNonce d.toNat h
  match ecMul k (some ecG) with
  | some (x, _) =>
    let r := x % ecN
    bytesBE 48 r ++ bytesBE 48 (invMod k ecN * (h + r * d.toNat) % ecN)
  | none => List.replicate 96 0#8
/-- ECDSA verification with SHA-384: public key, message, signature. -/
def ecdsaVerify (pub m sig : List Byte) : Bool :=
  let r := beNat (sig.take 48); let s := beNat (sig.drop 48)
  match pointOf pub with
  | none => false
  | some q =>
    let w := invMod s ecN
    let h := (sha384 m).toNat
    decide (sig.length = 96) && decide (1 ≤ r ∧ r < ecN) && decide (1 ≤ s ∧ s < ecN)
      && (match ecAdd (ecMul (h * w % ecN) (some ecG)) (ecMul (r * w % ecN) (some q)) with
          | some (x, _) => decide (x % ecN = r)
          | none => false)

end Sys2Proof.Machine
end

