-- ==== Sys2Proof/Machine/Descs.lean ====
section
/-! DEFINITION. Fields of the structures a program image carries: stash, block and weight-set descriptors, placement,
buckets, chip headers, update descriptors, push and reduction headers (07, 09, 10, 12). -/

namespace Sys2Proof.Machine

/-- Bytes of a 64 KiB unit. -/
def unit64 : Nat := 65536

/-! ### Block execution (Tables 7.1 to 7.3) -/

def sdRegion (d : BitVec 192) : Nat := fld d 191 160
def sdSize (d : BitVec 192) : Nat := fld d 159 136
def sdReserve (d : BitVec 192) : Nat := fld d 135 112
def sdGather (d : BitVec 192) : Nat := fld d 111 80
def sdGatherSize (d : BitVec 192) : Nat := fld d 79 56
def sdMb (d : BitVec 192) : Nat := fld d 55 40
def sdClips (d : BitVec 192) : Nat := fld d 39 24

def bdIndex (d : BitVec 256) : Nat := fld d 255 240
def bdHome (d : BitVec 256) : Nat := fld d 239 238
def bdFirst (d : BitVec 256) : Bool := bit d 237
def bdLast (d : BitVec 256) : Bool := bit d 236
def bdFmt (d : BitVec 256) : Nat := fld d 235 232
def bdHandle (d : BitVec 256) : Nat := fld d 231 225
def bdSlots (d : BitVec 256) : Nat := fld d 224 217
def bdStash (d : BitVec 256) : Nat := fld d 216 197
def bdWset (d : BitVec 256) : Nat := fld d 196 185
def bdCount (d : BitVec 256) : Nat := fld d 184 179
def bdFwd (d : BitVec 256) : Nat := fld d 159 128
def bdBwd (d : BitVec 256) : Nat := fld d 127 96
def bdFb (d : BitVec 256) : Nat := fld d 95 64
def bdGroups (d : BitVec 256) : Nat := fld d 63 0

def wsTensor (d : BitVec 128) : Nat := fld d 127 104
def wsMode (d : BitVec 128) : Nat := fld d 103 102
def wsOwners (d : BitVec 128) : Nat := fld d 101 98
def wsTie (d : BitVec 128) : Nat := fld d 97 92
def wsUse (d : BitVec 128) : Nat := fld d 91 88
def wsFmt (d : BitVec 128) : Nat := fld d 87 84
def wsSize (d : BitVec 128) : Nat := fld d 83 60
def wsCopy (d : BitVec 128) : Nat := fld d 59 30
def wsShadow (d : BitVec 128) : Nat := fld d 29 0
def wsOverlap (d : BitVec 128) : Bool := decide (wsMode d = 1)
def wsFrozen (d : BitVec 128) : Bool := decide (wsMode d = 2)
/-- Owner chips of a weight set in ascending order. -/
def wsChips (d : BitVec 128) : List Nat := (List.range 4).filter (fun n => decide (wsOwners d / 2 ^ n % 2 = 1))

def Slot.stashDesc (x : Slot) : BitVec 192 := (x.image.map Image.stash).getD 0
def Slot.blocks (x : Slot) : List (BitVec 256) := (x.image.map Image.blocks).getD []
def Slot.block? (x : Slot) (b : Nat) : Option (BitVec 256) := x.blocks.find? (fun d => decide (bdIndex d = b))
def Slot.wsets (x : Slot) : List (BitVec 128) := (x.image.map Image.wsets).getD []
def Slot.wset? (x : Slot) (tensor : Nat) : Option (BitVec 128) := x.wsets.find? (fun d => decide (wsTensor d = tensor))
/-- Weight sets of a block. -/
def Slot.blockSets (x : Slot) (bd : BitVec 256) : List (BitVec 128) := (x.wsets.drop (bdWset bd)).take (bdCount bd)
/-- Blocks that use a weight set. -/
def Slot.setBlocks (x : Slot) (tensor : Nat) : List Nat :=
  (x.blocks.filter (fun bd => (x.blockSets bd).any (fun w => decide (wsTensor w = tensor)))).map bdIndex

/-- The version of a set that a pass of step s reads (R272). -/
def needVersion (w : BitVec 128) (t : Nat) : Nat := if wsOverlap w then t - 1 else t

/-- The address where a pass of step t finds what a HOIST addresses: version v of an OVERLAP set lies in copy v mod 2 (R272). -/
def Slot.versionAt (x : Slot) (t a : Nat) : Nat :=
  match x.wsets.find? (fun w => wsOverlap w && decide (wsCopy w * unit64 ≤ a) && decide (a < (wsCopy w + wsSize w) * unit64)) with
  | some w => if needVersion w t % 2 = 1 then wsShadow w * unit64 + (a - wsCopy w * unit64) else a
  | none => a

/-! ### Op lists (R248) -/

/-- Tile and descriptor count of an op-list header (R248). -/
def opTile (h : BitVec 256) : TileRef := ⟨fld h 15 14, fld h 13 10, fld h 9 5⟩
def opCount (h : BitVec 256) : Nat := fld h 63 32

/-- The op list at an offset of a slot's image. -/
def Slot.opList? (x : Slot) (off : Nat) : Option OpList := x.image.bind (fun im => im.lists.find? (fun l => decide (l.offset = off)))

/-- Offsets of the lists a pass runs, in order (R248, R260): forward; in fallback the fallback list, then the recompute, then
the backward list. -/
def Slot.passLists (x : Slot) (y : Pass) : List Nat :=
  match x.block? y.block, y.kind with
  | some bd, .forward => [bdFwd bd]
  | some bd, .backward => (if y.reserve then [bdFb bd] else []) ++ [bdFwd bd, bdBwd bd]
  | _, _ => []

/-- The parts of those lists. -/
def Slot.passParts (x : Slot) (y : Pass) : List OpPart :=
  (x.passLists y).flatMap (fun o => match x.opList? o with | some l => l.parts | none => [])

/-- The descriptors a pass issues on a tile, in issue order. -/
def Slot.passOps (x : Slot) (y : Pass) (t : TileRef) : List OpDesc :=
  ((x.passParts y).filter (fun e => decide (opTile e.header = t))).flatMap OpPart.ops

/-- Whether a descriptor of an op list is the operation at hand: windows are read from the tile, a lane descriptor is known by
its handles and a handle operation by its entry, since its image stands in the scratchpad; HALLOC takes whatever number is free
(128). -/
def isOp (o e : OpDesc) : Bool :=
  match o, e with
  | .product d _, .product f _ => decide (d = f)
  | .stream d, .stream f => decide (d = f)
  | .lane _ ins out, .lane _ all res => decide (out = res) && ins.isPrefixOf all
  | .handle n _, .handle k _ => decide (k = 128) || decide (n = k)
  | _, _ => false

/-- Whether a pass's next descriptor on a tile is the operation at hand; a pass without op lists takes any. -/
def Slot.takes (x : Slot) (y : Pass) (t : TileRef) (e : OpDesc) : Bool :=
  (x.passParts y).isEmpty || (match (x.passOps y t)[tget y.ran (trNum t) 0]? with | some o => isOp o e | none => false)

/-- Whether every descriptor of a pass has issued (R256). -/
def Slot.allRan (x : Slot) (y : Pass) : Bool :=
  (x.passParts y).all (fun e => decide ((x.passOps y (opTile e.header)).length ≤ tget y.ran (trNum (opTile e.header)) 0))

/-- The step whose gradients a shard's accumulator takes. -/
def Shard.accStep (h : Shard) : Nat := if h.accRead then h.count + 1 else h.count

/-! ### Placement and buckets (Tables 9.1 to 9.5) -/

def phStages (d : BitVec 64) : Nat := fld d 63 58 + 1
def phReplicas (d : BitVec 64) : Nat := fld d 57 52 + 1
def phMirrored (d : BitVec 64) : Bool := bit d 51
def phThin (d : BitVec 64) : Nat := fld d 50 45 + 1
def phSat (d : BitVec 64) : Nat := fld d 44 34

def pePos (d : BitVec 64) : Nat := fld d 63 58
def peStage (d : BitVec 64) : Nat := fld d 57 52
def peReplica (d : BitVec 64) : Nat := fld d 51 46
def peFeeder (d : BitVec 64) : Bool := bit d 45
def peFirst (d : BitVec 64) : Nat := fld d 39 24
def peLast (d : BitVec 64) : Nat := fld d 23 8

def bkNum (d : BitVec 128) : Nat := fld d 127 112
def bkTensor (d : BitVec 128) : Nat := fld d 111 88
def bkChip (d : BitVec 128) : Nat := fld d 87 86
def bkOwner (d : BitVec 128) : Nat := fld d 85 80
def bkBlocks (d : BitVec 128) : Nat := fld d 75 64 + 1
def bkOffset (d : BitVec 128) : Nat := fld d 63 24
def bkLast (d : BitVec 128) : Nat := fld d 10 0
/-- Elements of a bucket. -/
def bkElems (d : BitVec 128) : Nat := 1024 * (bkBlocks d - 1) + bkLast d

def rmKind (m : RedMsg) : Nat := fld m.hdr 255 248
def rmResend (m : RedMsg) : Bool := bit m.hdr 247
def rmChip (m : RedMsg) : Nat := fld m.hdr 240 239
def rmBucket (m : RedMsg) : Nat := fld m.hdr 223 208
def rmStep (m : RedMsg) : Nat := fld m.hdr 207 144
def rmTensor (m : RedMsg) : Nat := fld m.hdr 143 120
def rmBlocks (m : RedMsg) : Nat := fld m.hdr 119 108 + 1
def rmBf16 (m : RedMsg) : Bool := decide (rmKind m = 2) || decide (rmKind m = 4)
def teScale (e : BitVec 64) : Nat := fld e 63 56
def teAmax (e : BitVec 64) : Nat := fld e 55 48
def teNextC (e : BitVec 64) : Nat := fld e 47 40
def teNextR (e : BitVec 64) : Nat := fld e 39 32
def teSat (e : BitVec 64) : Nat := fld e 15 0

/-- Placement entry of this module. -/
def State.placeEntry (s : State) (p : Nat) : Option (BitVec 64) :=
  (s.slot p).image.bind (fun im => im.places.find? (fun e => decide (pePos e = s.ring.pos)))
/-- Positions of the replicas of this module's stage with their replica numbers, in ascending position. -/
def Slot.stagePositions (x : Slot) : List (Nat × Nat) :=
  match x.image with
  | none => []
  | some im =>
    let l := im.places.filter (fun e => decide (peStage e = x.stage))
    (List.range 64).flatMap (fun i => (l.filter (fun e => decide (pePos e = i))).map (fun e => (i, peReplica e)))

/-! ### Bortis structures (Tables 10.2 to 10.7, 12.7) -/

def chReduce (d : BitVec 256) : Nat := fld d 255 224
def chReduceSize (d : BitVec 256) : Nat := fld d 223 200
def chHold (d : BitVec 256) : Nat := fld d 199 168
def chHoldSize (d : BitVec 256) : Nat := fld d 167 144
def chMb (d : BitVec 256) : Nat := fld d 143 128
def chCount (d : BitVec 256) : Nat := fld d 127 112

def dTensor (d : BitVec 640) : Nat := fld d 383 360
def dRule (d : BitVec 640) : Nat := fld d 359 356
def dNesterov (d : BitVec 640) : Bool := bit d 355
def dSparse (d : BitVec 640) : Bool := bit d 354
def dSkip (d : BitVec 640) : Bool := bit d 353
def dBias (d : BitVec 640) : Bool := bit d 352
def dSched (d : BitVec 640) : Nat := fld d 351 350
def dFmt (d : BitVec 640) : Nat := fld d 349 346
def dRoot (d : BitVec 640) : Nat := fld d 345 344
def dRows (d : BitVec 640) : Nat := fld d 343 320
def dCols (d : BitVec 640) : Nat := fld d 319 296
def dOff (d : BitVec 640) : Nat := fld d 295 256
def dLen (d : BitVec 640) : Nat := fld d 255 216
def dState (d : BitVec 640) : Nat := fld d 215 184
def dEvery (d : BitVec 640) : Nat := fld d 183 168
def dDim (d : BitVec 640) : Nat := fld d 167 159
def dAlt (d : BitVec 640) : Nat := fld d 157 128
def dConv (d : BitVec 640) : Word64 := BitVec.ofNat 64 (fld d 127 64)
def dStart (d : BitVec 640) : Nat := fld d 63 0
/-- Rule parameter i of Table 10.4, from LR_MULT (0) to PARAM_B (7). -/
def dParam (d : BitVec 640) (i : Nat) : Word32 := BitVec.ofNat 32 (fld d (639 - 32 * i) (608 - 32 * i))
def dLr (d : BitVec 640) : Word32 := dParam d 0
def dG (d : BitVec 640) : Word32 := dParam d 1
def dB1 (d : BitVec 640) : Word32 := dParam d 2
def dB2 (d : BitVec 640) : Word32 := dParam d 3
def dEps (d : BitVec 640) : Word32 := dParam d 4
def dWd (d : BitVec 640) : Word32 := dParam d 5
def dA (d : BitVec 640) : Word32 := dParam d 6
def dB (d : BitVec 640) : Word32 := dParam d 7
/-- Rows of a shard and its first row, for the rules that keep whole rows. -/
def dShardRows (d : BitVec 640) : Nat := (dLen d + dCols d - 1) / max 1 (dCols d)
def dRow0 (d : BitVec 640) : Nat := dOff d / max 1 (dCols d)

/-- Whether the rule keeps two FP32 moment tensors (Table 10.5: ADAM_DW and TRUST_RATIO; R40). -/
def dTwoMoments (d : BitVec 640) : Bool := decide (dRule d = 2) || decide (dRule d = 4)

def rtAddr (d : BitVec 128) : Nat := fld d 127 96
def rtSize (d : BitVec 128) : Nat := fld d 95 72
def rtHalf (d : BitVec 128) : Nat := fld d 71 70

def phTensor (h : BitVec 256) : Nat := fld h 255 232
def phFmt (h : BitVec 256) : Nat := fld h 231 228
def phSparse (h : BitVec 256) : Bool := bit h 227
def phChip (h : BitVec 256) : Nat := fld h 226 225
def phOffset (h : BitVec 256) : Nat := fld h 191 152
def phCount (h : BitVec 256) : Nat := fld h 151 112

end Sys2Proof.Machine
end

