-- ==== Sys2Proof/Machine/Operands.lean ====
section
/-! DEFINITION. How a tile operation reaches its operands: handle entries and their checks, regions, elements, scale
entries, partial writes, and the waits for streams that still fill or drain a region (05, 06). -/

namespace Sys2Proof.Machine

/-! ### Handle entries (Table 5.3) -/

def hValid (h : BitVec 128) : Bool := bit h 127
def hKind (h : BitVec 128) : Nat := fld h 126 125
def hTiled (h : BitVec 128) : Bool := bit h 124
def hFmt (h : BitVec 128) : Nat := fld h 123 120
def hRd (h : BitVec 128) : Bool := bit h 119
def hWr (h : BitVec 128) : Bool := bit h 118
def hRecv (h : BitVec 128) : Bool := bit h 117
def hPos (h : BitVec 128) : Nat := fld h 112 107
def hMirror (h : BitVec 128) : Bool := bit h 106
def hTile (h : BitVec 128) : TileRef := ⟨fld h 105 104, fld h 103 100, fld h 99 95⟩
def hTarget (h : BitVec 128) : Nat := fld h 94 88
def hPitch (h : BitVec 128) : Nat := fld h 85 72
def hBase (h : BitVec 128) : Nat := fld h 63 48
def hLen (h : BitVec 128) : Nat := fld h 47 32
def hEvent (h : BitVec 128) : Nat := fld h 31 24
def hHeld (h : BitVec 128) : Nat := fld h 23 15
def hFirst (h : BitVec 128) : Nat := fld h 14 7

def Tile.handle (t : Tile) (n : Nat) : BitVec 128 := tget t.handles n 0

/-- Why an operation does not run: a code of its block's fault, a poisoned word met (scratchpad word, handle), or a wait
with its cause (Table 17.7). -/
inductive OpErr where
  | fault (code : Nat)
  | poisoned (word handle : Nat)
  | wait (cause : Nat)
  deriving DecidableEq, Repr, Inhabited

/-- A region as an operation sees it. -/
structure Region where
  handle : Nat
  base : Nat
  len : Nat
  pitch : Nat
  tiled : Bool
  fmt : Nat
  deriving DecidableEq, Repr, Inhabited

/-- The local region a handle names (R182, R183): an entry whose write waits is waited for (R184); then VALID, then kind and
direction, and only then the bounds, which the operation's extent decides (the order where several checks fail: DESIGN
CHOICE, log 30). -/
def Tile.region (t : Tile) (n : Nat) (wr : Bool) : Except OpErr Region :=
  let h := t.handle n
  if t.hwaits.any (fun w => decide (w.n = n)) then .error (.wait 0xE)
  else if ¬ hValid h then .error (.fault 0x6132)
  else if hKind h ≠ 0 ∨ (if wr then ¬ hWr h else ¬ hRd h) then .error (.fault 0x6134)
  else .ok ⟨n, hBase h, hLen h, hPitch h, hTiled h, hFmt h⟩

/-- Words per tile (Table 5.1). -/
def wordsPerTile (f : Nat) : Nat := 64 * fmtTileBits f / 256

/-- Words of a linear row of n elements. -/
def rowWords (f n : Nat) : Nat := (n * fmtBits f + 255) / 256

/-- Words from the base that a rows × cols access reaches, and whether each row fits the pitch. -/
def Region.extent (r : Region) (rows cols : Nat) : Nat :=
  if rows = 0 ∨ cols = 0 then 0
  else if r.tiled then (((rows + 7) / 8 - 1) * r.pitch + (cols + 7) / 8) * wordsPerTile r.fmt
  else (rows - 1) * r.pitch + rowWords r.fmt cols
def Region.rowFits (r : Region) (cols : Nat) : Bool :=
  if r.tiled then decide ((cols + 7) / 8 ≤ r.pitch) else decide (rowWords r.fmt cols ≤ r.pitch)

/-- A rows × cols access within the region (R171, R172, R182). -/
def Region.check (r : Region) (rows cols : Nat) : Except OpErr Unit :=
  if r.rowFits cols && decide (r.extent rows cols ≤ r.len) then .ok () else .error (.fault 0x6133)

/-- Bit position in the scratchpad's data bits of element (i, j) (R171, R172, R104). -/
def Region.bitPos (r : Region) (i j : Nat) : Nat :=
  if r.tiled then
    (r.base + (i / 8 * r.pitch + j / 8) * wordsPerTile r.fmt) * 256 + (8 * (i % 8) + j % 8) * fmtTileBits r.fmt
  else (r.base + i * r.pitch) * 256 + j * fmtBits r.fmt
def Region.width (r : Region) : Nat := if r.tiled then fmtTileBits r.fmt else fmtBits r.fmt

/-- The data bits of a code word as its reader gets them (R281); an unusable word faults the reader (R283). -/
def readCode (m : Mem) (h w : Nat) : Except OpErr Nat :=
  let c := Memory.readWord m w
  if unusable c then .error (.poisoned (w / 2) h) else .ok (codeData (checkedWord c)).toNat

/-- `n` bits from a bit position; at most one code-word boundary lies inside. -/
def readBits (m : Mem) (h pos n : Nat) : Except OpErr Nat :=
  match readCode m h (pos / 128) with
  | .error e => .error e
  | .ok a =>
    if pos % 128 + n ≤ 128 then .ok (a / 2 ^ (pos % 128) % 2 ^ n)
    else match readCode m h (pos / 128 + 1) with
      | .error e => .error e
      | .ok b => .ok ((a / 2 ^ (pos % 128) + b * 2 ^ (128 - pos % 128)) % 2 ^ n)

/-- The code of element (i, j). -/
def Region.code (r : Region) (m : Mem) (i j : Nat) : Except OpErr Nat :=
  match readBits m r.handle (r.bitPos i j) r.width with
  | .error e => .error e
  | .ok c => .ok (c % 2 ^ fmtBits r.fmt)

/-- Scale entry n of a scale array (R105, R173). -/
def Region.scale (r : Region) (m : Mem) (n : Nat) : Except OpErr Nat :=
  if fmtSwallow r.fmt then readBits m r.handle (r.base * 256 + 16 * n) 16 else readBits m r.handle (r.base * 256 + 8 * n) 8

/-- A scale array of n entries: linear, within its region (R102, R173). -/
def Tile.scaleRegion (t : Tile) (n : Nat) (wr : Bool) (fmt entries : Nat) (checkFmt : Bool) : Except OpErr Region := do
  let r ← t.region n wr
  if r.tiled then .error (.fault 0x6134)
  else if checkFmt ∧ r.fmt ≠ fmt then .error (.fault 0x6134)
  else if entries * (if fmtSwallow fmt then 2 else 1) ≤ 32 * r.len then .ok { r with fmt := fmt }
  else .error (.fault 0x6133)

/-! ### Writes (R168, R169) -/

/-- Adds `n` bits of v at a bit position to the words a write covers: word ↦ (mask, data). -/
def coverBits (t : Tbl (Nat × Nat)) (pos n v : Nat) : Tbl (Nat × Nat) :=
  let put := fun (t : Tbl (Nat × Nat)) (w o k x : Nat) =>
    let (mk, d) := tget t w (0, 0)
    tput t w (mk ||| (2 ^ k - 1) * 2 ^ o, (d - (d &&& ((2 ^ k - 1) * 2 ^ o))) ||| x * 2 ^ o)
  let w := pos / 128; let o := pos % 128
  if o + n ≤ 128 then put t w o n (v % 2 ^ n)
  else
    let k := 128 - o
    put (put t w o k (v % 2 ^ k)) (w + 1) 0 (n - k) (v % 2 ^ n / 2 ^ k)

/-- Stores covered words: a whole word is formed anew, a part is merged with the checked stored word, and a word that
cannot be merged stays as it was and is reported (R169). -/
def storeCover (m : Mem) (t : Tbl (Nat × Nat)) : Mem × List Nat :=
  t.foldl (fun (m, bad) (w, (mk, d)) =>
    if mk = 2 ^ 128 - 1 then (Memory.writeWord m w (encodeWord (BitVec.ofNat 128 d)), bad)
    else
      let c := Memory.readWord m w
      if unusable c then (m, bad ++ [w])
      else
        let x := (codeData (checkedWord c)).toNat
        (Memory.writeWord m w (encodeWord (BitVec.ofNat 128 ((x - (x &&& mk)) ||| d))), bad)) (m, [])

/-- Elements (i, j, code) written into a region. -/
def Region.cover (r : Region) (es : List (Nat × Nat × Nat)) : Tbl (Nat × Nat) :=
  es.foldl (fun t (i, j, c) => coverBits t (r.bitPos i j) r.width c) []

/-- Scale entries (n, entry) written into a scale array. -/
def Region.coverScales (r : Region) (es : List (Nat × Nat)) : Tbl (Nat × Nat) :=
  let k := if fmtSwallow r.fmt then 16 else 8
  es.foldl (fun t (n, c) => coverBits t (r.base * 256 + k * n) k c) []

/-- Bank and row of a scratchpad word (R166). -/
def spBank (w : Nat) : Nat := w % 16
def spRow (w : Nat) : Nat := w / 16

/-- Words of a cover that are merged with what their bank holds (R169). -/
def merges (t : Tbl (Nat × Nat)) : Nat := (t.filter (fun e => decide (e.2.1 ≠ 2 ^ 128 - 1))).length

/-! ### Waits for streams (R135, R213) -/

/-- Fields of a stream descriptor (Table 6.1). -/
def sOp (d : BitVec 256) : Nat := fld d 255 248
def sId (d : BitVec 256) : Nat := fld d 247 240
def sLocal (d : BitVec 256) : Nat := fld d 239 233
def sRemote (d : BitVec 256) : Nat := fld d 232 226
def sConv (d : BitVec 256) : Nat := fld d 225 219
def sConvert (d : BitVec 256) : Bool := bit d 218
def sLease (d : BitVec 256) : Bool := bit d 217
def sSections (d : BitVec 256) : Nat := fld d 216 215 + 1
def sAddr (d : BitVec 256) : Nat := fld d 207 160
def sLen (d : BitVec 256) : Nat := fld d 159 128
def sDrain (d : BitVec 256) : Nat := fld d 127 104
def sSlack (d : BitVec 256) : Nat := fld d 103 80
def sFill (d : BitVec 256) : Nat := fld d 79 72
def sRelease (d : BitVec 256) : Nat := fld d 71 64
def sMb (d : BitVec 256) : Nat := fld d 63 48
def sBurst (d : BitVec 256) : Nat := fld d 47 44 + 1
def sBlock (d : BitVec 256) : Nat := fld d 31 16
def sIndex (d : BitVec 256) : Nat := fld d 7 0

/-- Whether a stream fills its local buffer. -/
def sInbound (d : BitVec 256) : Bool := sOp d = 0x30 || sOp d = 0x32 || sOp d = 0x36

/-- Bytes of the local buffer and of one section. -/
def Stream.bufBytes (t : Tile) (x : Stream) : Nat := 32 * hLen (t.handle (sLocal x.desc))
def Stream.secBytes (t : Tile) (x : Stream) : Nat := x.bufBytes t / sSections x.desc

/-- First byte of the stack range in force (R272). -/
def Stream.addr (x : Stream) : Nat := x.src.getD (sAddr x.desc)

/-- Source elements that are converted together: a block of a scaled format; between a scaled and an unscaled format along the
second dimension, 32 rows (R104, R113). -/
def Stream.group (x : Stream) (w : Word64) : Nat :=
  let sc := fmtScaled (fld w 11 8); let tc := fmtScaled (fld w 15 12)
  if !sc && !tc then 1 else if !bit w 5 || (sc && tc) then 32 else 32 * max 1 x.rowLen

/-- Converted bytes that the whole groups of the first o source bytes make (o is returned where the stream does not convert). -/
def Stream.formed (x : Stream) (o : Nat) : Nat :=
  match x.conv with
  | none => o
  | some w => 8 * o / fmtBits (fld w 11 8) / x.group w * x.group w * fmtBits (fld w 15 12) / 8

/-- Converted bytes of the whole range, its last group padded where the target is scaled. -/
def Stream.total (x : Stream) : Nat :=
  match x.conv with
  | none => sLen x.desc
  | some w =>
    let n := 8 * sLen x.desc / fmtBits (fld w 11 8); let g := x.group w
    ((if fmtScaled (fld w 15 12) then (n + g - 1) / g * g else n) * fmtBits (fld w 15 12) + 7) / 8

/-- Bytes of its local buffer that a stream's first o bytes, its whole range, and what it has moved so far take: an inbound
stream's buffer holds converted elements, an outbound stream's those to convert (R110). -/
def Stream.loc (x : Stream) (o : Nat) : Nat := if sInbound x.desc then x.formed o else o
def Stream.locTotal (x : Stream) : Nat := if sInbound x.desc then x.total else sLen x.desc
def Stream.localDone (x : Stream) : Nat := if sInbound x.desc && x.conv.isSome then x.moved else x.done

/-- Sections a stream's whole range takes. -/
def Stream.secTotal (t : Tile) (x : Stream) : Nat := (x.locTotal + x.secBytes t - 1) / max 1 (x.secBytes t)

/-- Sections a stream has moved whole (the last may be short). -/
def Stream.secDone (t : Tile) (x : Stream) : Nat :=
  let b := x.secBytes t
  if b = 0 then 0 else if x.locTotal ≤ x.localDone then x.secTotal t else x.localDone / b

/-- Whether an operation may touch section slot j of a stream's buffer: an inbound section is read once it is whole and
not passed; an outbound section is written while it is the current one and has drained. -/
def Stream.slotReady (t : Tile) (x : Stream) (j : Nat) (wr : Bool) : Bool :=
  let n := sSections x.desc
  if sInbound x.desc then
    !wr && (List.range n).any (fun k => decide ((x.passed + k) % n = j) && decide (x.passed + k < x.secDone t))
  else if wr then decide (x.passed % n = j) && decide (x.passed < x.secDone t + n) else true

/-- Streams issued on a tile: under way, and waiting for a place, as they will start. -/
def Tile.issued (t : Tile) : List Stream :=
  t.streams ++ t.queued.map (fun q => { id := sId q.2, desc := q.2, pass := q.1.pass, slot := 0 })

/-- Whether a waiting handle operation still has to write words [a, a + n), or to read them before they are written (R135). -/
def HWait.holds (w : HWait) (wr : Bool) (a n : Nat) : Bool :=
  (decide (w.n = 128) && decide (a ≤ w.result / 2) && decide (w.result / 2 < a + n))
    || (wr && (match w.image with | some i => decide (a ≤ i / 2) && decide (i / 2 < a + n) | none => false))

/-- The cause an operation waits under where it touches words [a, a + n) (R135). -/
def Tile.blocked (t : Tile) (wr : Bool) (a n : Nat) : Option Nat :=
  if t.hwaits.any (fun w => w.holds wr a n) then some 0xE
  else t.issued.findSome? (fun x =>
    let h := t.handle (sLocal x.desc)
    let sec := x.secBytes t / 32
    if a < hBase h + hLen h ∧ hBase h < a + n ∧ 0 < sec then
      let hit := (List.range (sSections x.desc)).filter (fun j =>
        decide (a < hBase h + (j + 1) * sec) && decide (hBase h + j * sec < a + n))
      if hit.all (fun j => x.slotReady t j wr) then none
      else some (if x.stale ≠ [] then 8 else if ¬ sInbound x.desc then 4 else if x.tags > 0 then 6 else 3)
    else none)

/-- Whether reads must wait for the refetch of stale leased units (Table 6.4, step 4). -/
def Tile.staleHit (t : Tile) (a n : Nat) : Bool :=
  t.streams.any (fun x =>
    let h := t.handle (sLocal x.desc)
    x.stale.any (fun u =>
      let lo := x.loc (u * 256 - sAddr x.desc % 256); let hi := x.loc (u * 256 - sAddr x.desc % 256 + 256)
      let o := lo % (max 1 (x.bufBytes t)) / 32
      decide (a < hBase h + o + (hi - lo + 31) / 32) && decide (hBase h + o < a + n)))

/-- The waits of a list of reads and writes of whole regions. -/
def Tile.ready (t : Tile) (rd wr : List (Nat × Nat)) : Except OpErr Unit :=
  if rd.any (fun (a, n) => t.staleHit a n) then .error (.wait 8)
  else match rd.findSome? (fun (a, n) => t.blocked false a n) with
    | some c => .error (.wait c)
    | none => match wr.findSome? (fun (a, n) => t.blocked true a n) with
      | some c => .error (.wait c)
      | none => .ok ()

/-- Words a rows × cols access spans, from the region's base. -/
def Region.span (r : Region) (rows cols : Nat) : Nat × Nat := (r.base, r.extent rows cols)

/-- Words that n entries of a scale array span. -/
def Region.scaleSpan (r : Region) (n : Nat) : Nat × Nat := (r.base, (n * (if fmtSwallow r.fmt then 2 else 1) + 31) / 32)

def overlap (a b : Nat × Nat) : Bool := decide (a.1 < b.1 + b.2) && decide (b.1 < a.1 + a.2)

/-- The region a handle names, whole (Table 4.3). -/
def Region.whole (r : Region) : Nat × Nat := (r.base, r.len)

/-- Byte ranges of an inbound stream that reads of words [a, a + n) touch in the sections not yet passed (R228). -/
def Stream.readRanges (t : Tile) (x : Stream) (a n : Nat) : List (Nat × Nat) :=
  let h := t.handle (sLocal x.desc)
  let b := x.secBytes t
  let k := sSections x.desc
  (List.range k).filterMap (fun i =>
    let c := x.passed + i
    let lo := 32 * hBase h + c % k * b
    let from_ := max (32 * a) lo; let to_ := min (32 * (a + n)) (lo + b)
    if from_ < to_ then some (c * b + (from_ - lo), c * b + (to_ - lo)) else none)

/-- Bytes of the current section of an outbound stream that lie in words [a, a + n) (R215). -/
def Stream.wroteBytes (t : Tile) (x : Stream) (a n : Nat) : Nat :=
  let b := x.secBytes t
  let lo := 32 * hBase (t.handle (sLocal x.desc)) + x.passed % sSections x.desc * b
  min (32 * (a + n)) (lo + b) - max (32 * a) lo

/-- Notes on a tile's streams what an operation has read of inbound buffers and written of outbound ones. -/
def Tile.touch (t : Tile) (rd wr : List (Nat × Nat)) : Tile :=
  { t with streams := t.streams.map (fun x =>
      if sInbound x.desc then { x with seen := x.seen ++ rd.flatMap (fun r => x.readRanges t r.1 r.2) }
      else { x with wrote32 := min (x.secBytes t) (x.wrote32 + (wr.map (fun r => x.wroteBytes t r.1 r.2)).sum) }) }

/-! ### Running an operation of a pass -/

/-- Operations in flight on a quarter's tiles: streams under way or waiting, and waiting entry writes; products and lane-engine
operations complete within their command (R31, R251). -/
def State.inFlight (s : State) (q : Nat) : Nat :=
  (s.tiles.map (fun (n, t) => if n / 320 = q then t.streams.length + t.queued.length + t.hwaits.length else 0)).sum

/-- The pass an operation belongs to: live, its attempt not abandoned, its tile in a group of the pass's slot, the slot
running (R251, R262). -/
def State.livePass (s : State) (c : OpCtx) : Option Pass :=
  match s.pass? c.pass with
  | none => none
  | some x =>
    if trOk c.tile ∧ s.tileSlot c.tile = some x.slot ∧ ¬ x.abandoned
        ∧ (s.slot x.slot).state = .running ∧ ¬ (s.slot x.slot).seq.stopped
    then some x else none

/-- The pass of an operation that may issue: fewer than 2,048 operations of its quarter are in flight (R251). -/
def State.opPass (s : State) (c : OpCtx) : Option Pass :=
  if s.inFlight c.tile.q < 2048 then s.livePass c else none

/-- The operation at hand has issued: it is the pass's next descriptor on its tile, and is counted (R248, R256). A pass without
op lists counts none. -/
def State.ranOp (s : State) (x : Pass) (t : TileRef) (o : OpDesc) : State :=
  let sl := s.slot x.slot
  if (sl.passParts x).isEmpty then s
  else match s.pass? x.id with
    | none => s
    | some y => if sl.takes y t o then s.updPass x.id (fun y => { y with ran := tadd y.ran (trNum t) 1 }) else s

/-- What an operation that ran leaves: the tile, its events, code words it could not merge with their handle, a value it
returns to the program, the word ranges it read and wrote, and its merge reads (R169). -/
structure OpDone where
  tile : Tile
  ev : Events := {}
  bad : List Nat := []
  badHandle : Nat := 0
  value : List Word32 := []
  rd : List (Nat × Nat) := []
  wr : List (Nat × Nat) := []
  merges : Nat := 0
  deriving DecidableEq, Repr, Inhabited

/-- SITE fields of a tile's record. -/
def State.siteRec (s : State) (t : TileRef) (r : ErrRec) : ErrRec :=
  { r with siteKind := .tile, site := siteTile t.q t.g (s.phys t % 20) }

/-- An access that no row of the table separately grants (a merge read, an arriving window write, a served remote read) takes
its scratchpad slots in the order of its command: the arbiter's count and rotation move on, and where requests wait or the issue
step at hand is scheduled, each access has waited for its bank (R205, R206; log 31). -/
def State.slotPass (s : State) (t : TileRef) (slot n : Nat) : State :=
  if n = 0 then s
  else
    let key := resKey (.scratchSlots t)
    let a := s.arb key
    let s := { s with arbs := tput s.arbs key { a with last := slot, count := a.count + n } }
    if a.reqs = [] ∧ (s.tile (s.phys t)).plan = [] then s
    else s.updGroup (groupNum t.q t.g) (fun g => { g with unsched := g.unsched + n })

/-- Applies the outcome of an operation of a pass on an engine (0 cubes, 1 lane engine, 2 stream unit, 3 sequencer). -/
def State.finishOp (s : State) (c : OpCtx) (x : Pass) (engine block : Nat) (o : Except OpErr OpDone) : State :=
  let n := s.phys c.tile
  match o with
  | .error (.wait k) => s.updTile n (fun t => { t with waits := tput t.waits engine k })
  | .error (.fault code) => s.programFault x.slot { s.siteRec c.tile (x.fill { code := code }) with block := block }
  | .error (.poisoned w h) => s.retryFault x.id (s.siteRec c.tile { code := 0x4104, detail0 := w, detail1 := h })
  | .ok d =>
    let s := s.setTile n ({ d.tile with waits := tdel d.tile.waits engine }.touch d.rd d.wr)
    let s := (s.events x.slot d.ev).slotPass c.tile x.slot d.merges
    let s := { s with out := { s.out with value := d.value } }
    match d.bad with
    | [] => s
    | w :: _ => s.retryFault x.id (s.siteRec c.tile { code := 0x4104, detail0 := w / 2, detail1 := d.badHandle })

/-! ### Scheduled bank conflicts (R201 to R205) -/

/-- Accesses of one issue step that wait, and the first bank they meet at. -/
def stepWaits (l : List BankAccess) : Nat × Option Nat :=
  (List.range 16).foldl (fun (n, b) k =>
    let r := (l.filter (fun a => decide (spBank a.word = k) && !a.write)).length - 1
    let w := (l.filter (fun a => decide (spBank a.word = k) && a.write)).length - 1
    (n + r + w, if b = none ∧ 0 < r + w then some k else b)) (0, none)

/-- The scheduled accesses of an operation of pass x: its issue steps join the tile's, its conflicts reach the group's count,
one 0x6131 is logged per block attempt, and the pennant halts where R204 says so. -/
def State.conflicts (s : State) (c : OpCtx) (x : Pass) (block product : Nat) (plan : List (List BankAccess)) : State :=
  let ws := plan.map stepWaits
  let n := (ws.map (·.1)).sum
  let s := if plan = [] then s else s.updTile (s.phys c.tile) (fun t => { t with plan := t.plan ++ plan })
  if n = 0 then s
  else
    let s := s.updGroup (groupNum c.tile.q c.tile.g) (fun g => { g with sched := g.sched + n })
    let t := s.tile (s.phys c.tile)
    if (x.id, x.attempt) ∈ t.conflicts then s
    else
      let bank := (ws.findSome? (·.2)).getD 0
      let s := s.setTile (s.phys c.tile) { t with conflicts := t.conflicts ++ [(x.id, x.attempt)] }
      let r := { s.siteRec c.tile (x.fill { code := 0x6131, detail0 := bank, detail1 := product }) with block := block }
      if (s.slot x.slot).policy.conflictHalt then s.programFault x.slot r else s.logSlot x.slot r

/-- Runs an operation of a pass on its tile; where the pass cannot issue it, nothing happens. -/
def State.runOp (s : State) (c : OpCtx) (engine block : Nat) (f : Pass → Tile → Except OpErr OpDone) : State :=
  match s.opPass c with
  | none => s
  | some x => s.finishOp c x engine block (f x (s.tile (s.phys c.tile)))

end Sys2Proof.Machine
end

