-- ==== Sys2Proof/Machine/Cubes.lean ====
section
/-! DEFINITION. Cube products: descriptors, dot products, the address walk, masking, the fly lane (03, 04). -/

namespace Sys2Proof.Machine

/-! ### Product descriptors (Table 4.3) -/

def pOp (d : BitVec 192) : Nat := fld d 191 184
def pAFmt (d : BitVec 192) : Nat := fld d 183 180
def pBFmt (d : BitVec 192) : Nat := fld d 179 176
def pOutFmt (d : BitVec 192) : Nat := fld d 175 172
def pInit (d : BitVec 192) : Nat := fld d 171 170
def pATrans (d : BitVec 192) : Bool := bit d 169
def pBTrans (d : BitVec 192) : Bool := bit d 168
def pA (d : BitVec 192) : Nat := fld d 167 161
def pB (d : BitVec 192) : Nat := fld d 160 154
def pOut (d : BitVec 192) : Nat := fld d 153 147
def pBias (d : BitVec 192) : Nat := fld d 146 140
def pAScale (d : BitVec 192) : Nat := fld d 139 133
def pBScale (d : BitVec 192) : Nat := fld d 132 126
def pWindow (d : BitVec 192) : Nat := fld d 125 119
def pM (d : BitVec 192) : Nat := fld d 95 72
def pN (d : BitVec 192) : Nat := fld d 71 48
def pK (d : BitVec 192) : Nat := fld d 47 24
def pBlock (d : BitVec 192) : Nat := fld d 23 8
def pIndex (d : BitVec 192) : Nat := fld d 7 0

/-! ### Window words (Table 4.5, R137, R138) -/

/-- A window word's fields. -/
structure Win where
  inE : Nat
  outE : Nat
  padLo : Nat
  padHi : Nat
  stride : Nat
  dil : Nat
  ker : Nat
  flip : Bool
  trans : Bool
  enable : Bool
  deriving DecidableEq, Repr, Inhabited

def winOf (w : Word64) : Win :=
  ⟨fld w 63 48, fld w 47 32, fld w 31 24, fld w 23 16, fld w 15 12 + 1, fld w 11 8 + 1, fld w 7 3 + 1, bit w 2, bit w 1, bit w 0⟩

/-- The kernel extent: 1 in a dimension that is not windowed (R142). -/
def Win.kext (w : Win) : Nat := if w.enable then w.ker else 1

/-- The conditions of R137 on a word. -/
def winOk (x : Word64) : Bool :=
  let w := winOf x
  if w.inE = 0 ∨ w.outE = 0 then false
  else if ¬ w.enable then decide (fld x 31 0 = 0) && decide (w.inE = w.outE)
  else if ¬ w.trans then
    let p : Int := w.inE + w.padLo + w.padHi - w.dil * (w.ker - 1) - 1
    decide (0 ≤ p) && decide ((w.outE : Int) = p / w.stride + 1)
  else
    let b : Int := (w.inE - 1) * w.stride - w.padLo - w.padHi + w.dil * (w.ker - 1) + 1
    decide (1 ≤ b) && decide (0 ≤ (w.outE : Int) - b) && decide ((w.outE : Int) - b ≤ w.stride - 1)

/-- window_index of R138: the input position, none where it is not valid. -/
def Win.index (w : Win) (o k : Nat) : Option Nat :=
  if ¬ w.enable then some o
  else if ¬ w.trans then
    let i : Int := o * w.stride + k * w.dil - w.padLo
    if 0 ≤ i ∧ i < w.inE then some i.toNat else none
  else
    let t : Int := (o : Int) + w.padLo - k * w.dil
    if t < 0 ∨ t % w.stride ≠ 0 then none
    else let i := (t / w.stride).toNat; if i < w.inE then some i else none

/-- Kernel position read for offset k. -/
def Win.kpos (w : Win) (k : Nat) : Nat := if w.enable ∧ w.flip then w.ker - 1 - k else k

/-- The three window dimensions. -/
structure Wins where
  t : Win
  h : Win
  w : Win
  deriving DecidableEq, Repr, Inhabited

def Wins.kernels (x : Wins) : Nat := x.t.kext * x.h.kext * x.w.kext
def Wins.outs (x : Wins) : Nat := x.t.outE * x.h.outE * x.w.outE
def Wins.ins (x : Wins) : Nat := x.t.inE * x.h.inE * x.w.inE
/-- Row-major split of a number over the three kernel extents, or over the three output extents. -/
def Wins.kSplit (x : Wins) (k : Nat) : Nat × Nat × Nat :=
  (k / (x.h.kext * x.w.kext), k / x.w.kext % x.h.kext, k % x.w.kext)
def Wins.oSplit (x : Wins) (o : Nat) : Nat × Nat × Nat :=
  (o / (x.h.outE * x.w.outE), o / x.w.outE % x.h.outE, o % x.w.outE)
/-- The input row that output position o reads for kernel offset k, none where excluded. -/
def Wins.row (x : Wins) (o k : Nat) : Option Nat :=
  let (ot, oh, ow) := x.oSplit o
  let (kt, kh, kw) := x.kSplit k
  match x.t.index ot kt, x.h.index oh kh, x.w.index ow kw with
  | some it, some ih, some iw => some ((it * x.h.inE + ih) * x.w.inE + iw)
  | _, _, _ => none
/-- The kernel position numbered row-major that offset k reads. -/
def Wins.kernelPos (x : Wins) (k : Nat) : Nat :=
  let (kt, kh, kw) := x.kSplit k
  (x.t.kpos kt * x.h.kext + x.h.kpos kh) * x.w.kext + x.w.kpos kw
/-- The kernel offset of a kernel position (R142); flipping is its own inverse. -/
def Wins.kernelOff (x : Wins) (pos : Nat) : Nat := x.kernelPos pos

/-! ### Operands -/

/-- Reads element (i, j) of a region; where it is scaled, with entry `entry` of its scale array, as element `pos` of its
block. -/
def readElem (m : Mem) (r : Region) (sc : Option Region) (i j entry pos : Nat) : Except OpErr Val := do
  let c ← r.code m i j
  match sc with
  | none => pure (decodeElem r.fmt 127 0 c)
  | some q =>
    let e ← q.scale m entry
    pure (decodeElem r.fmt e pos c)

/-- Number of the scale entry of element (i, j) in block order (R105, R385): blocks along the innermost dimension row by row
with nb to a row; along the second dimension row group by row group, and within one column by column. -/
def scaleEntry (second : Bool) (i j nb cols : Nat) : Nat := if second then i / 32 * cols + j else i * nb + j / 32

/-- What the walk of a product presents: for reduction group g, the list of reduction places; the operands there. -/
structure Walk where
  m : Nat
  n : Nat
  groups : List (List Nat)                     -- reduction places of each group, ascending
  a : Nat → Nat → Except OpErr (Option Val)    -- output row, place; none: excluded
  b : Nat → Nat → Except OpErr Val             -- place, output column

/-- Rounding group size (R106, Table 4.2). -/
def groupSize (d : BitVec 192) : Nat :=
  if fmtScaled (pAFmt d) || fmtScaled (pBFmt d) then 32
  else
    let l := max (fmtLane (pAFmt d)) (fmtLane (pBFmt d))
    if l = 32 then 1 else if l = 16 then 2 else if l = 8 then 4 else 8

/-- Splits a list of places into groups of g. -/
def sumGroups (g n : Nat) : List (List Nat) :=
  (List.range ((n + g - 1) / g)).map (fun i => (List.range g).filterMap (fun j => if i * g + j < n then some (i * g + j) else none))

/-- One rounding group (R106, R107, R145): the products that are not excluded are added exactly to the accumulator and
rounded once. -/
def groupStep (acc : Word32) (ps : List (Val × Val)) : Word32 × Events :=
  if ps = [] then (acc, {})
  else
    let ops := ps.flatMap (fun p => [p.1, p.2])
    let sig := (ops.map Val.sigEv).foldl Events.add {}
    let prods := ps.map (fun p => mulV p.1 p.2)
    let av := dec32 acc
    if ops.any Val.isNan || av.isNan then (nan32, sig)
    else if prods.any Val.isNan then (nan32, sig.add evInvalid)
    else
      let all := av :: prods
      let pos := all.any (fun v => decide (v = .inf false))
      let neg := all.any (fun v => decide (v = .inf true))
      if pos && neg then (nan32, sig.add evInvalid)
      else if pos then (inf32 false, sig)
      else if neg then (inf32 true, sig)
      else
        let d := all.foldl (fun d v => Dy.add d v.dy) ⟨0, 0⟩
        if d.m = 0 then
          (zero32 (all.all (fun v => match v with | .num n m _ => n && decide (m = 0) | _ => false)), sig)
        else let r := rnd32 .even d; (r.1, sig.add r.2)

/-- The operand pair of output element (i, j) at a reduction place; none where it is excluded. -/
def Walk.pair (w : Walk) (i j k : Nat) : Except OpErr (Option (Val × Val)) :=
  match w.a i k with
  | .error e => .error e
  | .ok none => .ok none
  | .ok (some v) => (w.b k j).map (fun b => some (v, b))

/-- The operands of one output element, group by group. -/
def Walk.elem (w : Walk) (i j : Nat) : Except OpErr (List (List (Val × Val))) :=
  w.groups.mapM (fun g => (g.mapM (w.pair i j)).map (fun l => l.filterMap id))

/-- What the fly lane reads of column j at a reduction place: A's values in these rows that are not excluded, and B's value
where there is one. -/
def Walk.column (w : Walk) (rows : List Nat) (j k : Nat) : Except OpErr (List Val × Val) := do
  let xs ← rows.mapM (fun i => w.a i k)
  let xs := xs.filterMap id
  if xs = [] then .ok ([], .num false 0 0) else (w.b k j).map (fun b => (xs, b))

/-- A NaN alone becomes the canonical NaN; a signalling one counts (R90, R94). -/
def canon (w : Word32) : Word32 × Events := if (dec32 w).isNan then (nan32, (dec32 w).sigEv) else (w, {})

/-- The accumulator of one output element from its initial value, itself an input. -/
def runGroups (acc : Word32) (gs : List (List (Val × Val))) : Word32 × Events :=
  gs.foldl (fun (a, e) g => let r := groupStep a g; (r.1, e.add r.2)) (canon acc)

/-! ### The fly lane's view of a fragment (R151 to R153) -/

def dySum (l : List Dy) : Dy := l.foldl Dy.add ⟨0, 0⟩
/-- An exact value rounded to FP32 and read back; none where it is not finite. -/
def rndDy (rd : Rnd) (d : Dy) : Option Dy :=
  if d.m = 0 then some d
  else match dec32 (rnd32 rd d).1 with
    | .num n m e => some (Val.num n m e).dy
    | _ => none

/-- Reference and magnitude of a column over its groups: for each group the pairs of column sums of A with the B value,
and of magnitude sums with its magnitude. -/
def refGo (gs : List (List (Dy × Dy × Dy))) (r a : Dy) : Option (Dy × Dy) :=
  match gs with
  | [] => some (r, a)
  | g :: rest =>
    if g = [] then refGo rest r a
    else
      let rs := g.foldl (fun x (s, _, b) => x.add (s.mul b)) r
      let as := g.foldl (fun x (_, t, b) => x.add (t.mul b.abs)) a
      match rndDy .even rs, rndDy .up as with
      | some r', some a' => refGo rest r' a'
      | _, _ => none

/-- The check of one column of a fragment. -/
def colCheck (w : Walk) (rows : List Nat) (j : Nat) (inits : List Val) (accs : List Word32) : Except OpErr ColCheck := do
  let gs ← w.groups.mapM (fun g => g.mapM (w.column rows j))
  let gs := gs.map (fun g => g.filter (fun x => decide (x.1 ≠ [])))
  let finite := gs.all (fun g => g.all (fun (xs, b) => b.finite && xs.all Val.finite)) && inits.all Val.finite
  let cs := accs.map dec32
  let sumOk := cs.all Val.finite
  let c := dySum (cs.map Val.dy)
  if ¬ finite then pure ⟨false, ⟨0, 0⟩, ⟨0, 0⟩, sumOk, c⟩
  else
    let st := gs.map (fun g => g.map (fun (xs, b) =>
      (rndDy .even (dySum (xs.map Val.dy)), rndDy .up (dySum (xs.map (fun (v : Val) => v.dy.abs))), b.dy)))
    if st.any (fun g => g.any (fun (s, t, _) => decide (s = none) || decide (t = none))) then
      pure ⟨false, ⟨0, 0⟩, ⟨0, 0⟩, sumOk, c⟩
    else
      let st := st.map (fun g => g.map (fun (s, t, b) => (s.getD ⟨0, 0⟩, t.getD ⟨0, 0⟩, b)))
      match refGo st (dySum (inits.map Val.dy)) (dySum (inits.map (fun v => v.dy.abs))) with
      | some (r, a) => pure ⟨true, r, a, sumOk, c⟩
      | none => pure ⟨false, ⟨0, 0⟩, ⟨0, 0⟩, sumOk, c⟩

/-- Whether a column passes: |c − r| ≤ (2 n_g + 4) 2^-24 A + 2^-126 (R152). -/
def ColCheck.pass (x : ColCheck) (groups : Nat) : Bool :=
  x.sumOk && Dy.le (x.c.add x.r.neg).abs ((Dy.mul ⟨2 * groups + 4, -24⟩ x.mag).add ⟨1, -126⟩)

/-! ### A product -/

/-- A's and B's regions with scale arrays, the output and the initial values of a product. -/
structure ProdIn where
  walk : Walk
  out : Region
  init : Nat → Nat → Except OpErr Word32

/-- Bits that a fault flips in a drained accumulator (R156). -/
def flipAcc (fs : List Flip) (i j : Nat) (w : Word32) : Word32 :=
  fs.foldl (fun w f => if f.row = i ∧ f.col = j then w ^^^ BitVec.ofNat 32 (2 ^ (f.bit % 32)) else w) w

/-- The initial value, the drained accumulator and the events of output element (i, j). -/
def ProdIn.accum (p : ProdIn) (fs : List Flip) (i j : Nat) : Except OpErr (Word32 × Word32 × Events) := do
  let a0 ← p.init i j
  let gs ← p.walk.elem i j
  let r := runGroups a0 gs
  .ok (a0, flipAcc fs i j r.1, r.2)

/-- Initial values and accumulators of every output element, row by row, and their events. -/
def runProduct (p : ProdIn) (fs : List Flip) : Except OpErr (List (List (Word32 × Word32)) × Events) := do
  let rows ← (List.range p.walk.m).mapM (fun i => (List.range p.walk.n).mapM (p.accum fs i))
  let ev := rows.foldl (fun e l => l.foldl (fun e (x : Word32 × Word32 × Events) => e.add x.2.2) e) {}
  .ok (rows.map (fun l => l.map (fun x => (x.1, x.2.1))), ev)

/-- The check of the fragment of 32 rows by 32 columns at block (fi, fj) of the output. -/
def fragmentCheck (p : ProdIn) (accs : List (List (Word32 × Word32))) (x : Pass) (d : BitVec 192) (fi fj : Nat) : Except OpErr Check :=
  let rows := (List.range 32).filterMap (fun r => if 32 * fi + r < p.walk.m then some (32 * fi + r) else none)
  let cols := (List.range 32).filterMap (fun c => if 32 * fj + c < p.walk.n then some (32 * fj + c) else none)
  (cols.mapM (fun j =>
    let col := rows.map (fun i => (accs.getD i []).getD j (0, 0))
    colCheck p.walk rows j (col.map (fun y => dec32 y.1)) (col.map (·.2)))).map
    (fun cc => ⟨x.id, x.attempt, pBlock d, pIndex d, 32 * fi, 32 * fj, p.walk.groups.length, cc⟩)

/-- The fragments' checks, row of blocks by row of blocks. -/
def productChecks (p : ProdIn) (accs : List (List (Word32 × Word32))) (x : Pass) (d : BitVec 192) : Except OpErr (List Check) :=
  ((List.range ((p.walk.m + 31) / 32)).flatMap (fun i => (List.range ((p.walk.n + 31) / 32)).map (fun j => (i, j)))).mapM
    (fun b => fragmentCheck p accs x d b.1 b.2)

/-- A product's operand regions: A, A's scale, B, B's scale, output, bias; and the words it reads and writes. -/
structure ProdRegs where
  a : Region
  aS : Option Region
  b : Region
  bS : Option Region
  out : Region
  bias : Option Region
  rd : List (Nat × Nat)
  wr : Nat × Nat

/-- A region that is needed only under a condition. -/
def optRegion (c : Bool) (r : Except OpErr Region) : Except OpErr (Option Region) := if c then r.map some else .ok none

/-- The bias of a product: one FP32 row (R134). -/
def Tile.biasRegion (t : Tile) (d : BitVec 192) : Except OpErr Region := do
  let r ← t.region (pBias d) false
  let _ ← r.check 1 (pN d)
  if r.fmt ≠ 0 then .error (.fault 0x6134) else .ok r

/-- The words a product reads: the output's where it starts from it, its operands with their scale arrays, its bias. -/
def prodReads (d : BitVec 192) (ar ac al br bc bl : Nat) (a b out : Region) (aS bS bias : Option Region) : List (Nat × Nat) :=
  (if pInit d = 2 then [out.span (pM d) (pN d)] else []) ++ a.span ar ac :: b.span br bc ::
    (aS.toList.map (·.scaleSpan al) ++ bS.toList.map (·.scaleSpan bl) ++ bias.toList.map (·.span 1 (pN d)))

/-- The regions of a product, after the issue-time checks that every product shares (R131 to R135, R173, R182): `ar`, `ac`, `br`, `bc` are the stored extents, `al`, `bl` the
scale entries each scaled operand needs. -/
def prodRegs (t : Tile) (d : BitVec 192) (op ar ac al br bc bl : Nat) : Except OpErr ProdRegs := do
  if pOp d ≠ op ∨ fld d 118 96 ≠ 0 then .error (.fault 0x6120) else
  if ¬ fmtDefined (pAFmt d) ∨ ¬ fmtDefined (pBFmt d) then .error (.fault 0x6112) else
  if 1 < pOutFmt d ∨ (pInit d = 2 ∧ pOutFmt d ≠ 0) then .error (.fault 0x6121) else
  if pInit d = 3 then .error (.fault 0x6126) else
  if pM d = 0 ∨ pN d = 0 ∨ pK d = 0 then .error (.fault 0x6125) else
  let a ← t.region (pA d) false
  let _ ← a.check ar ac
  let b ← t.region (pB d) false
  let _ ← b.check br bc
  let out ← t.region (pOut d) true
  let _ ← optRegion (decide (pInit d = 2)) (t.region (pOut d) false)
  let _ ← out.check (pM d) (pN d)
  if a.fmt ≠ pAFmt d ∨ b.fmt ≠ pBFmt d ∨ out.fmt ≠ pOutFmt d then .error (.fault 0x6134) else
  let aS ← optRegion (fmtScaled (pAFmt d)) (t.scaleRegion (pAScale d) false (pAFmt d) al true)
  let bS ← optRegion (fmtScaled (pBFmt d)) (t.scaleRegion (pBScale d) false (pBFmt d) bl true)
  let bias ← optRegion (decide (pInit d = 1)) (t.biasRegion d)
  if ((a :: b :: (aS.toList ++ bS.toList ++ bias.toList)).map Region.whole).any (overlap out.whole) then .error (.fault 0x6123) else
  let rd := prodReads d ar ac al br bc bl a b out aS bS bias
  let _ ← t.ready rd [out.span (pM d) (pN d)]
  pure ⟨a, aS, b, bS, out, bias, rd, out.span (pM d) (pN d)⟩

/-- Initial values by INIT. -/
def initOf (m : Mem) (d : BitVec 192) (g : ProdRegs) (i j : Nat) : Except OpErr Word32 :=
  match pInit d, g.bias with
  | 1, some r => (r.code m 0 j).map (BitVec.ofNat 32)
  | 2, _ => (g.out.code m i j).map (BitVec.ofNat 32)
  | _, _ => .ok 0#32

/-- The two accumulator sets of the 16 cubes after a product (R127): each cube works 8 × 8 output elements, its sets taking the
output's blocks of 32 × 32 in turn, cube 4r + c the 8 rows from 8r and the 8 columns from 8c. -/
def accSets (rows : List (List Word32)) : List (List Word32) :=
  (List.range 32).map (fun n =>
    let cube := n % 16
    let blocks := (List.range ((rows.length + 31) / 32)).flatMap (fun i =>
      (List.range (((rows.headD []).length + 31) / 32)).map (fun j => (i, j)))
    match (blocks.mapIdx (fun k b => (k, b))).filter (fun b => decide (b.1 % 2 = n / 16)) |>.getLast? with
    | none => []
    | some (_, i, j) => (List.range 64).map (fun e =>
        (rows.getD (32 * i + 8 * (cube / 4) + e / 8) []).getD (32 * j + 8 * (cube % 4) + e % 8) 0#32))

/-- Cube steps in which the cubes of a product wait for the result path: each fragment after the first by what its reduction
falls short of the 16 steps of its predecessor's drain (R127). -/
def drainWait (d : BitVec 192) (groups : Nat) : Nat :=
  let l := max (fmtLane (pAFmt d)) (fmtLane (pBFmt d))
  let steps := if fmtScaled (pAFmt d) || fmtScaled (pBFmt d) then groups * l else groups
  ((pM d + 31) / 32 * ((pN d + 31) / 32) - 1) * (16 - steps)

/-- Runs a product over its walk: writes the output, and leaves the fragments' checks to the fly lane. -/
def finishProduct (x : Pass) (t : Tile) (d : BitVec 192) (g : ProdRegs) (w : Walk) (flyOff : Bool) (fs : List Flip) :
    Except OpErr OpDone := do
  let p : ProdIn := ⟨w, g.out, initOf t.mem d g⟩
  let (accs, ev) ← runProduct p fs
  let conv := accs.map (fun l => l.map (fun y =>
    if pOutFmt d = 0 then (y.2.toNat, ({} : Events)) else toIeee shapeBf .even (dec32 y.2)))
  let es := (conv.mapIdx (fun i l => l.mapIdx (fun j c => (i, j, c.1)))).flatten
  let ev2 := conv.foldl (fun e l => l.foldl (fun e c => e.add { overflow := c.2.overflow }) e) ev
  let cv := g.out.cover es
  let (mem, bad) := storeCover t.mem cv
  let cks ← if flyOff then pure [] else productChecks p accs x d
  let sets := accSets (accs.map (fun l => l.map (·.2)))
  let y := { t with mem := mem, checks := t.checks ++ cks, accs := sets, drain := drainWait d w.groups.length }
  pure { tile := y, ev := ev2, bad := bad, badHandle := pOut d, rd := g.rd, wr := [g.wr], merges := merges cv }

/-- What a product presents to the cubes: the stored extents of A and B with the scale entries each needs where it is scaled,
whether A or B is read transposed against its layout, and the walk over the regions. -/
structure ProdShape where
  op : Nat
  ar : Nat
  ac : Nat
  al : Nat
  br : Nat
  bc : Nat
  bl : Nat
  aT : Bool
  bT : Bool
  walk : Mem → ProdRegs → Walk

/-- The regions of a product of a shape; an operand read transposed is tiled (R149). -/
def shapeRegs (t : Tile) (d : BitVec 192) (z : ProdShape) : Except OpErr ProdRegs := do
  let g ← prodRegs t d z.op z.ar z.ac z.al z.br z.bc z.bl
  if (z.aT ∧ ¬ g.a.tiled) ∨ (z.bT ∧ ¬ g.b.tiled) then .error (.fault 0x6124) else pure g

/-- A product of a shape. -/
def runShape (x : Pass) (t : Tile) (d : BitVec 192) (z : ProdShape) (flyOff : Bool) (fs : List Flip) : Except OpErr OpDone := do
  let g ← shapeRegs t d z
  finishProduct x t d g (z.walk t.mem g) flyOff fs

/-- B as a matrix K × N, or N × K read transposed, of a product. -/
def plainB (d : BitVec 192) (m : Mem) (g : ProdRegs) (k j : Nat) : Except OpErr Val :=
  let (r, c) := if pBTrans d then (j, k) else (k, j)
  readElem m g.b g.bS r c (scaleEntry (!pBTrans d) r c ((pK d + 31) / 32) (pN d)) (k % 32)

/-- MATRIX: OUT[M×N] = A[M×K] · B[K×N] after the transposition flags (R131, R147, R148). -/
def matrixShape (d : BitVec 192) : ProdShape :=
  let nb := (pK d + 31) / 32
  let (ar, ac) := if pATrans d then (pK d, pM d) else (pM d, pK d)
  let (br, bc) := if pBTrans d then (pN d, pK d) else (pK d, pN d)
  { op := 0x20, ar := ar, ac := ac, al := pM d * nb, br := br, bc := bc, bl := pN d * nb, aT := pATrans d, bT := pBTrans d,
    walk := fun m g => {
      m := pM d, n := pN d, groups := sumGroups (groupSize d) (pK d),
      a := fun i k =>
        let (r, c) := if pATrans d then (k, i) else (i, k)
        (readElem m g.a g.aS r c (scaleEntry (pATrans d) r c nb (pM d)) (k % 32)).map some,
      b := plainB d m g } }
def matrixOp (d : BitVec 192) (flyOff : Bool) (fs : List Flip) (x : Pass) (t : Tile) : Except OpErr OpDone :=
  runShape x t d (matrixShape d) flyOff fs

/-- The window words of a product (R136, R137). -/
def windowsOf (t : Tile) (d : BitVec 192) : Except OpErr Wins := do
  let r ← t.region (pWindow d) false
  if r.len = 0 then .error (.fault 0x6133) else
  let _ ← t.ready [(r.base, 1)] []
  let w0 ← readBits t.mem r.handle (r.base * 256) 64
  let w1 ← readBits t.mem r.handle (r.base * 256 + 64) 64
  let w2 ← readBits t.mem r.handle (r.base * 256 + 128) 64
  let f := fun (n : Nat) => BitVec.ofNat 64 n
  if winOk (f w0) && winOk (f w1) && winOk (f w2) then .ok ⟨winOf (f w0), winOf (f w1), winOf (f w2)⟩
  else .error (.fault 0x6122)

/-- WINDOW_FWD (R138 to R140): reduction places are numbered channel-block-major, 32 channels to a block. -/
def windowFwdShape (d : BitVec 192) (ws : Wins) : ProdShape :=
  let nb := (pK d + 31) / 32
  let (ar, ac) := if pATrans d then (pK d, ws.ins) else (ws.ins, pK d)
  let (br, bc) := if pBTrans d then (ws.kernels * pN d, pK d) else (ws.kernels * pK d, pN d)
  let off := fun (k : Nat) => k / 32 % ws.kernels
  let chan := fun (k : Nat) => k / 32 / ws.kernels * 32 + k % 32
  { op := 0x21, ar := ar, ac := ac, al := ws.ins * nb, br := br, bc := bc, bl := ws.kernels * pN d * nb, aT := pATrans d,
    bT := pBTrans d,
    walk := fun m g => {
      m := pM d, n := pN d,
      groups := (sumGroups (groupSize d) (nb * ws.kernels * 32)).map (fun l => l.filter (fun k => decide (chan k < pK d))),
      a := fun i k => match ws.row i (off k) with
        | none => .ok none
        | some r =>
          let (i, j) := if pATrans d then (chan k, r) else (r, chan k)
          (readElem m g.a g.aS i j (scaleEntry (pATrans d) i j nb ws.ins) (chan k % 32)).map some,
      b := fun k j =>
        let kp := ws.kernelPos (off k)
        let c := chan k
        if pBTrans d then readElem m g.b g.bS (kp * pN d + j) c (scaleEntry false (kp * pN d + j) c nb 0) (c % 32)
        else readElem m g.b g.bS (kp * pK d + c) j (kp * (nb * pN d) + scaleEntry true c j nb (pN d)) (c % 32) } }
def windowFwdOp (d : BitVec 192) (flyOff : Bool) (fs : List Flip) (x : Pass) (t : Tile) : Except OpErr OpDone := do
  let ws ← windowsOf t d
  if pM d ≠ ws.outs then .error (.fault 0x6125) else runShape x t d (windowFwdShape d ws) flyOff fs

/-- WINDOW_WGRAD (R142): output rows are (kernel position, input channel), the reduction runs over output positions. -/
def windowWgradShape (d : BitVec 192) (ws : Wins) : ProdShape :=
  let cin := pM d / ws.kernels
  let na := (ws.ins + 31) / 32
  let (br, bc) := if pBTrans d then (pN d, pK d) else (pK d, pN d)
  { op := 0x22, ar := ws.ins, ac := cin, al := cin * na, br := br, bc := bc, bl := pN d * ((pK d + 31) / 32), aT := true,
    bT := pBTrans d,
    walk := fun m g => {
      m := pM d, n := pN d, groups := sumGroups (groupSize d) (pK d),
      a := fun i o => match ws.row o (ws.kernelOff (i / cin)) with
        | none => .ok none
        | some r => (readElem m g.a g.aS r (i % cin) (scaleEntry true r (i % cin) na cin) (r % 32)).map some,
      b := plainB d m g } }
def windowWgradOp (d : BitVec 192) (flyOff : Bool) (fs : List Flip) (x : Pass) (t : Tile) : Except OpErr OpDone := do
  let ws ← windowsOf t d
  if pK d ≠ ws.outs ∨ pM d % ws.kernels ≠ 0 then .error (.fault 0x6125) else runShape x t d (windowWgradShape d ws) flyOff fs

/-- Whether a port of a product may access a word: A ports within the regions of A and its scale, B ports within B's, the
result path within the output, which INIT also reads there or in the bias. -/
def portWord (t : Tile) (d : BitVec 192) (a : BankAccess) : Bool :=
  let within := fun (n : Nat) => decide (hBase (t.handle n) ≤ a.word) && decide (a.word < hBase (t.handle n) + hLen (t.handle n))
  if a.port < 4 then !a.write && (within (pA d) || (fmtScaled (pAFmt d) && within (pAScale d)))
  else if a.port < 8 then !a.write && (within (pB d) || (fmtScaled (pBFmt d) && within (pBScale d)))
  else within (pOut d) || (decide (pInit d = 1) && within (pBias d))

/-- A cube product as a command: the product, then its plan's conflicts and issue steps. -/
def State.product (s : State) (c : OpCtx) (d : BitVec 192) (plan : List (List BankAccess))
    (f : Bool → Pass → Tile → Except OpErr OpDone) : State :=
  match s.opPass c with
  | none => s
  | some x =>
    let t := s.tile (s.phys c.tile)
    match f (s.test.mode && s.test.flyOff) x t with
    | .ok o =>
      ((s.finishOp c x 0 (pBlock d) (.ok { o with tile := { o.tile with cur := x.id } })).ranOp x c.tile (.product d [])).conflicts
        c x (pBlock d) (pIndex d) (plan.map (fun l => l.filter (portWord t d)))
    | .error e => s.finishOp c x 0 (pBlock d) (.error e)

def execMatrix (c : OpCtx) (d : BitVec 192) (plan : List (List BankAccess)) (flips : List Flip) (s : State) : Res :=
  .next (s.product c d plan (fun off x t => matrixOp d off flips x t))
def execWindowFwd (c : OpCtx) (d : BitVec 192) (plan : List (List BankAccess)) (flips : List Flip) (s : State) : Res :=
  .next (s.product c d plan (fun off x t => windowFwdOp d off flips x t))
def execWindowWgrad (c : OpCtx) (d : BitVec 192) (plan : List (List BankAccess)) (flips : List Flip) (s : State) : Res :=
  .next (s.product c d plan (fun off x t => windowWgradOp d off flips x t))

/-! ### The fly lane (R154, R155, R158) -/

/-- The fly lane completes the oldest check of a tile: passed, unchecked and mismatched columns are counted for the
quarter; a mismatch logs 0x8301 and the attempt is abandoned. -/
def State.flyCheck (s : State) (t : TileRef) : State :=
  let n := s.phys t
  let x := s.tile n
  match x.checks with
  | [] => s
  | k :: rest =>
    let s := s.setTile n { x with checks := rest }
    let un := (k.cols.filter (fun c => !c.support)).length
    let ok := (k.cols.filter (fun c => c.support && c.pass k.groups)).length
    let bad := (k.cols.mapIdx (fun i c => (i, c))).filter (fun (_, c) => c.support && !c.pass k.groups)
    let f := tget s.fly t.q [0, 0, 0]
    let s := { s with fly := tput s.fly t.q (addAt (addAt (addAt f 0 ok) 1 un) 2 bad.length) }
    match bad with
    | [] => s
    | (i, _) :: _ =>
      let d1 := (k.row0 % 2 ^ 24) * 2 ^ 40 + (k.col0 % 2 ^ 24) * 2 ^ 16 + k.product
      let r := s.siteRec t { code := 0x8301, block := k.block, detail1 := d1,
                             detail0 := (k.col0 + i) % 2 ^ 24 + bad.length * 2 ^ 32 }
      match s.pass? k.pass with
      | none => s.logErr { r with handling := .retry }
      | some p => if p.attempt = k.attempt then s.retryFault k.pass r
                  else s.logSlot p.slot { p.fill r with handling := .retry, attempt := k.attempt }

def execFlyLaneCheck (t : TileRef) (s : State) : Res := .next (s.flyCheck t)

end Sys2Proof.Machine
end

