-- ==== Sys2Proof/Machine/Lanes.lean ====
section
/-! DEFINITION. The lane engine: element-wise operations, special functions, conversion, row reduction, draws, the
soft-maximum and the backward operations (03, 04, 07). -/

namespace Sys2Proof.Machine

/-! ### Operand rows -/

/-- Sum of events. -/
def sumEv (l : List Events) : Events := l.foldl Events.add {}

/-- Whether a lane-engine port may access a word: within a region the operation names (R201). -/
def laneWord (t : Tile) (a : LaneArgs) (x : BankAccess) : Bool :=
  decide (8 ≤ x.port) && [a.in1, a.in2, a.in3, a.in4, a.out].any (fun n =>
    decide (hBase (t.handle n) ≤ x.word) && decide (x.word < hBase (t.handle n) + hLen (t.handle n)))

/-- Runs a lane-engine operation of a pass (R159, R251), then its plan's conflicts and issue steps (R201 to R204). -/
def State.laneOp (s : State) (c : OpCtx) (a : LaneArgs) (f : Pass → Tile → Except OpErr OpDone) : State :=
  match s.opPass c with
  | none => s
  | some x =>
    let t := s.tile (s.phys c.tile)
    match f x t with
    | .ok o =>
      ((s.finishOp c x 1 x.block (.ok o)).ranOp x c.tile (.lane none [a.in1, a.in2, a.in3, a.in4] a.out)).conflicts c x x.block 0
        (a.plan.map (fun l => l.filter (laneWord t a)))
    | .error e => s.finishOp c x 1 x.block (.error e)

/-- A region of a lane-engine operand: an unscaled format (R102, R182). -/
def laneRegion (t : Tile) (n : Nat) (wr : Bool) (rows cols : Nat) : Except OpErr Region := do
  let r ← t.region n wr
  let _ ← r.check rows cols
  if fmtScaled r.fmt ∨ ¬ fmtDefined r.fmt then .error (.fault 0x6134) else pure r

/-- One element as an FP32 word: FP32 storage gives its bit pattern, a narrower format its exact value (R88, R100). -/
def laneElem (m : Mem) (r : Region) (i j : Nat) : Except OpErr (Word32 × Events) := do
  let c ← r.code m i j
  if r.fmt = 0 then pure (BitVec.ofNat 32 c, {})
  else
    let v := decodeElem r.fmt 127 0 c
    pure ((toW v).1, v.sigEv)

/-- The elements of a region as FP32 rows, with the events of reading them. -/
def laneRead (m : Mem) (r : Region) (rows cols : Nat) : Except OpErr (List (List Word32) × Events) := do
  let l ← (List.range rows).mapM (fun i => (List.range cols).mapM (fun j => laneElem m r i j))
  let ev := sumEv (l.map (fun row => sumEv (row.map (·.2))))
  pure (l.map (fun row => row.map (·.1)), ev)

/-- A result stored in an unscaled format: FP32 as it is, another format converted once under nearest-even (R111). -/
def laneCode (f : Nat) (w : Word32) : Nat × Events :=
  if f = 0 then (w.toNat, {})
  else if f ≤ 2 then toIeee (fmtShape f) .even (dec32 w)
  else toNarrow f .even true (dec32 w)

/-- Stores rows of results. -/
def laneWrite (t : Tile) (r : Region) (rows : List (List Word32)) (ev : Events) : OpDone :=
  let cs := rows.map (fun l => l.map (laneCode r.fmt))
  let es := (cs.mapIdx (fun i l => l.mapIdx (fun j c => (i, j, c.1)))).flatten
  let ev := ev.add (sumEv (cs.map (fun l => sumEv (l.map (·.2)))))
  let cv := r.cover es
  let (mem, bad) := storeCover t.mem cv
  { tile := { t with mem := mem }, ev := ev, bad := bad, badHandle := r.handle, merges := merges cv }

/-- The results of a list of element operations with their events. -/
def gather (l : List (Word32 × Events)) : List Word32 × Events :=
  (l.map (·.1), sumEv (l.map (·.2)))

/-- An operation whose result rows are computed from its operand rows: input handles with their extents, the output's
extent, and the function of the rows. -/
def rowsOp (t : Tile) (a : LaneArgs) (ins : List (Nat × Nat × Nat)) (oRows oCols : Nat) (fp32 : Bool)
    (f : List (List (List Word32)) → List (List Word32) × Events) : Except OpErr OpDone := do
  let rs ← ins.mapM (fun (h, r, c) => laneRegion t h false r c)
  let o ← laneRegion t a.out true oRows oCols
  if fp32 ∧ o.fmt ≠ 0 then .error (.fault 0x6134) else
  let rd := (rs.zip ins).map (fun (r, _, n, c) => r.span n c)
  let _ ← t.ready rd [o.span oRows oCols]
  let xs ← (rs.zip ins).mapM (fun (r, _, n, c) => laneRead t.mem r n c)
  let ev := sumEv (xs.map (·.2))
  let y := f (xs.map (·.1))
  pure { laneWrite t o y.1 (ev.add y.2) with rd := rd, wr := [o.span oRows oCols] }

/-- An element-wise operation on rows × cols elements of 1, 2 or 3 operands. -/
def mapOp (t : Tile) (a : LaneArgs) (hs : List Nat) (fp32 : Bool) (f : List Word32 → Word32 × Events) :
    Except OpErr OpDone :=
  rowsOp t a (hs.map (fun h => (h, a.rows, a.cols))) a.rows a.cols fp32 (fun xs =>
    let rows := (List.range a.rows).map (fun i => gather ((List.range a.cols).map (fun j =>
      f (xs.map (fun x => (x.getD i []).getD j 0)))))
    (rows.map (·.1), sumEv (rows.map (·.2))))

/-- An operation on each row. -/
def eachRow (rows : Nat) (f : Nat → List Word32 × Events) : List (List Word32) × Events :=
  let l := (List.range rows).map f
  (l.map (·.1), sumEv (l.map (·.2)))

def map1 (f : Word32 → Word32 × Events) (l : List Word32) : Word32 × Events := f (l.getD 0 0)
def map2 (f : Word32 → Word32 → Word32 × Events) (l : List Word32) : Word32 × Events := f (l.getD 0 0) (l.getD 1 0)
def map3 (f : Word32 → Word32 → Word32 → Word32 × Events) (l : List Word32) : Word32 × Events :=
  f (l.getD 0 0) (l.getD 1 0) (l.getD 2 0)

def State.map1Op (s : State) (c : OpCtx) (a : LaneArgs) (f : Word32 → Word32 × Events) : State :=
  s.laneOp c a (fun _ t => mapOp t a [a.in1] false (map1 f))
def State.map2Op (s : State) (c : OpCtx) (a : LaneArgs) (f : Word32 → Word32 → Word32 × Events) : State :=
  s.laneOp c a (fun _ t => mapOp t a [a.in1, a.in2] false (map2 f))

/-! ### Element-wise operations (Table 4.8) -/

def execLaneAdd (c : OpCtx) (a : LaneArgs) (s : State) : Res := .next (s.map2Op c a fadd)
def execLaneSub (c : OpCtx) (a : LaneArgs) (s : State) : Res := .next (s.map2Op c a fsub)
def execLaneMul (c : OpCtx) (a : LaneArgs) (s : State) : Res := .next (s.map2Op c a fmul)
def execLaneFma (c : OpCtx) (a : LaneArgs) (s : State) : Res :=
  .next (s.laneOp c a (fun _ t => mapOp t a [a.in1, a.in2, a.in3] false (map3 ffma)))
def execLaneMin (c : OpCtx) (a : LaneArgs) (s : State) : Res := .next (s.map2Op c a fmin)
def execLaneMax (c : OpCtx) (a : LaneArgs) (s : State) : Res := .next (s.map2Op c a fmax)

/-- compare (R91): the word that stands for the predicate's outcome. -/
def execLaneCompare (c : OpCtx) (a : LaneArgs) (p : Cmp) (s : State) : Res :=
  .next (s.laneOp c a (fun _ t => mapOp t a [a.in1, a.in2] true (map2 (fun x y =>
    let r := fcmp p x y; (Config.compareWord r.1, r.2)))))

/-- select: the mask chooses between the second and the third operand; a NaN chosen is the canonical one, and a signalling NaN
of either counts (R90, R94). -/
def selectWord (m x y : Word32) : Word32 :=
  if m = Config.compareWord true then x else if m = Config.compareWord false then y
  else if Config.selects m then x else y
def execLaneSelect (c : OpCtx) (a : LaneArgs) (s : State) : Res :=
  .next (s.laneOp c a (fun _ t => mapOp t a [a.in1, a.in2, a.in3] false (map3 (fun m x y =>
    ((canon (selectWord m x y)).1, (canon x).2.add (canon y).2)))))

/-- A sign-bit operation: a NaN result is the canonical NaN (R90). -/
def signOp (f : Word32 → Word32) (x : Word32) : Word32 × Events := if (dec32 x).isNan then canon x else (f x, {})
def execLaneAbs (c : OpCtx) (a : LaneArgs) (s : State) : Res := .next (s.map1Op c a (signOp fabs))
def execLaneNeg (c : OpCtx) (a : LaneArgs) (s : State) : Res := .next (s.map1Op c a (signOp fneg))
/-- The magnitude of x with the sign of y. -/
def copysign (x y : Word32) : Word32 := fabs x ||| (y &&& 0x80000000#32)
def execLaneCopysign (c : OpCtx) (a : LaneArgs) (s : State) : Res :=
  .next (s.map2Op c a (fun x y => let r := signOp (fun x => copysign x y) x; (r.1, r.2.add (canon y).2)))

def execLaneExp2 (c : OpCtx) (a : LaneArgs) (s : State) : Res := .next (s.map1Op c a fexp2)
def execLaneExp (c : OpCtx) (a : LaneArgs) (s : State) : Res := .next (s.map1Op c a fexp)
def execLaneRcp (c : OpCtx) (a : LaneArgs) (s : State) : Res := .next (s.map1Op c a frcp)
def execLaneRsqrt (c : OpCtx) (a : LaneArgs) (s : State) : Res := .next (s.map1Op c a frsqrt)
def execLaneSqrt (c : OpCtx) (a : LaneArgs) (s : State) : Res := .next (s.map1Op c a fsqrt)
def execLaneDiv (c : OpCtx) (a : LaneArgs) (s : State) : Res := .next (s.map2Op c a fdiv)
def execLaneSigmoid (c : OpCtx) (a : LaneArgs) (s : State) : Res := .next (s.map1Op c a fsigmoid)

/-! ### Conversion (R110 to R118) -/

/-- Rounding of element `ix` under a control word: nearest-even, or stochastic with its draw. -/
def convRnd (w : Word64) (seed : Word64) (step mb : Nat) (ix : Nat) : Rnd :=
  if fld w 1 0 = 1 then .draw (srDraw seed step mb (fld w 55 32) ix).toNat else .even

/-- Converts one block or one unscaled element row: scale entry (0 where unscaled), codes, events. -/
def convBlock (w : Word64) (rd : Nat → Rnd) (vs : List Val) : Nat × List Nat × Events :=
  let f := fld w 15 12
  if fmtScaled f then toBlock f (if bit w 4 then some (fld w 31 24) else none) rd vs
  else
    let l := vs.mapIdx (fun i v => if f ≤ 2 then toIeee (fmtShape f) (rd i) v else toNarrow f (rd i) true v)
    (0, l.map (·.1), sumEv (l.map (·.2)))

def padTo32 (n : Nat) : Nat := (n + 31) / 32 * 32

/-- The conversion runs along the second dimension: its lines are columns, else rows (R105, R115); how many, how long, with how
many blocks of 32; the element at a position of a line, the scale entry of a block, and the positions of a block. -/
def cvSecond (v : ConvArgs) : Bool := bit v.word 5
def cvLines (v : ConvArgs) (a : LaneArgs) : Nat := if cvSecond v then a.cols else a.rows
def cvLen (v : ConvArgs) (a : LaneArgs) : Nat := if cvSecond v then a.rows else a.cols
def cvBlocks (v : ConvArgs) (a : LaneArgs) : Nat := (cvLen v a + 31) / 32
def cvPlace (v : ConvArgs) (line pos : Nat) : Nat × Nat := if cvSecond v then (pos, line) else (line, pos)
def cvEntry (v : ConvArgs) (a : LaneArgs) (line b : Nat) : Nat := if cvSecond v then b * a.cols + line else line * cvBlocks v a + b
def blockSpan (len b : Nat) : List Nat := (List.range 32).filterMap (fun k => if 32 * b + k < len then some (32 * b + k) else none)
/-- Logical index of an element in its tensor (R118): the operand's first, and the row length of the tensor's declared shape. -/
def cvIndex (v : ConvArgs) (a : LaneArgs) (line pos : Nat) : Nat :=
  v.first + (cvPlace v line pos).1 * (if v.rowLen = 0 then a.cols else v.rowLen) + (cvPlace v line pos).2

/-- The regions of a conversion: source, target, and their scale arrays. -/
structure ConvRegs where
  src : Region
  dst : Region
  srcS : Option Region
  dstS : Option Region

/-- Words a conversion reads and writes. -/
def ConvRegs.reads (g : ConvRegs) (a : LaneArgs) (v : ConvArgs) : List (Nat × Nat) :=
  g.src.span a.rows a.cols :: g.srcS.toList.map (·.scaleSpan (cvLines v a * cvBlocks v a))
def ConvRegs.writes (g : ConvRegs) (a : LaneArgs) (v : ConvArgs) (pr pc : Nat) : List (Nat × Nat) :=
  g.dst.span pr pc :: g.dstS.toList.map (·.scaleSpan (cvLines v a * cvBlocks v a))

/-- Extent of the target: whole blocks where it is scaled (R113). -/
def cvPadded (v : ConvArgs) (a : LaneArgs) : Nat × Nat :=
  (if fmtScaled (fld v.word 15 12) && cvSecond v then padTo32 a.rows else a.rows,
   if fmtScaled (fld v.word 15 12) && !cvSecond v then padTo32 a.cols else a.cols)

/-- The regions of a conversion, after the checks of its control word and its handles. -/
def convRegs (a : LaneArgs) (v : ConvArgs) (t : Tile) : Except OpErr ConvRegs := do
  if ¬ convOk v.word then .error (.fault 0x6112) else
  let sf := fld v.word 11 8; let tf := fld v.word 15 12; let n := cvLines v a * cvBlocks v a
  let r ← t.region a.in1 false
  let _ ← ({ r with fmt := sf } : Region).check a.rows a.cols
  let o ← t.region a.out true
  let _ ← ({ o with fmt := tf } : Region).check (cvPadded v a).1 (cvPadded v a).2
  let rs ← optRegion (fmtScaled sf) (t.scaleRegion v.scaleIn false sf n false)
  let os ← optRegion (fmtScaled tf) (t.scaleRegion v.scaleOut true tf n false)
  let g : ConvRegs := ⟨{ r with fmt := sf }, { o with fmt := tf }, rs, os⟩
  let _ ← t.ready (g.reads a v) (g.writes a v (cvPadded v a).1 (cvPadded v a).2)
  .ok g

/-- The value of the source at a position of a line. -/
def convVal (m : Mem) (g : ConvRegs) (a : LaneArgs) (v : ConvArgs) (line pos : Nat) : Except OpErr Val := do
  let c ← g.src.code m (cvPlace v line pos).1 (cvPlace v line pos).2
  match g.srcS with
  | none => .ok (decodeElem g.src.fmt 127 0 c)
  | some q => (q.scale m (cvEntry v a line (pos / 32))).map (fun e => decodeElem g.src.fmt e (pos % 32) c)

/-- A converted block: its line, its number, its scale entry, its codes, its events. -/
def convPiece (a : LaneArgs) (v : ConvArgs) (seed : Word64) (step mb line b : Nat) (vs : List Val) : Nat × Nat × Nat × List Nat × Events :=
  (line, b, convBlock v.word (fun k => convRnd v.word seed step mb (cvIndex v a line (32 * b + k))) vs)

/-- The codes and scale entries that converted blocks write; a scaled target's last block is filled with zeros. -/
def convCells (v : ConvArgs) (ps : List (Nat × Nat × Nat × List Nat × Events)) : List (Nat × Nat × Nat) :=
  ps.flatMap (fun (line, b, c) =>
    let cs := if fmtScaled (fld v.word 15 12) then c.2.1 ++ List.replicate (32 - c.2.1.length) 0 else c.2.1
    cs.mapIdx (fun k y => ((cvPlace v line (32 * b + k)).1, (cvPlace v line (32 * b + k)).2, y)))
def convScales (a : LaneArgs) (v : ConvArgs) (g : ConvRegs) (ps : List (Nat × Nat × Nat × List Nat × Events)) : Tbl (Nat × Nat) :=
  match g.dstS with
  | none => []
  | some q => q.coverScales (ps.map (fun (line, b, c) => (cvEntry v a line b, c.1)))

/-- The conversion of a rows × cols region. -/
def convertOp (a : LaneArgs) (v : ConvArgs) (seed : Word64) (x : Pass) (t : Tile) : Except OpErr OpDone := do
  let g ← convRegs a v t
  let ps ← ((List.range (cvLines v a)).flatMap (fun line => (List.range (cvBlocks v a)).map (fun b => (line, b)))).mapM (fun (line, b) =>
    ((blockSpan (cvLen v a) b).mapM (convVal t.mem g a v line)).map (convPiece a v seed x.step x.mb line b))
  let cv := g.dst.cover (convCells v ps)
  let m1 := storeCover t.mem cv
  let cs := convScales a v g ps
  let m2 := storeCover m1.1 cs
  .ok { tile := { t with mem := m2.1 }, ev := sumEv (ps.map (fun p => p.2.2.2.2)), bad := m1.2 ++ m2.2,
        badHandle := if m1.2 = [] then v.scaleOut else a.out, rd := g.reads a v, wr := g.writes a v (cvPadded v a).1 (cvPadded v a).2,
        merges := merges cv + merges cs }

def execLaneConvert (c : OpCtx) (a : LaneArgs) (v : ConvArgs) (s : State) : Res :=
  .next (s.laneOp c a (fun x t => convertOp a v ((s.slot x.slot).seedAt x.step) x t))

/-! ### Row reduction (R162) -/


/-- One level of the tree: an empty side passes the other up. -/
def pairUp (comb : Word32 → Word32 → Word32 × Events) (l : List (Option (Word32 × Events))) : List (Option (Word32 × Events)) :=
  (chunks 2 l).map (fun c =>
    match c.getD 0 none, c.getD 1 none with
    | some (x, e), some (y, f) => let r := comb x y; some (r.1, (e.add f).add r.2)
    | some a, none => some a
    | none, b => b)

/-- A running combination: the first element starts it. -/
def runLane {α : Type} (first : α → Word32 × Events) (nxt : Word32 → α → Word32 × Events) (l : List α) : Option (Word32 × Events) :=
  match l with
  | [] => none
  | x :: r => some (r.foldl (fun (w, e) y => let z := nxt w y; (z.1, e.add z.2)) (first x))

/-- One segment of at most 4,096 elements: 64 lanes, then the tree over six levels. -/
def segment {α : Type} (first : α → Word32 × Events) (nxt : Word32 → α → Word32 × Events)
    (comb : Word32 → Word32 → Word32 × Events) (l : List α) : Option (Word32 × Events) :=
  let cs := chunks 64 l
  let lanes := (List.range 64).map (fun j => runLane first nxt (cs.filterMap (fun c => c.drop j |>.head?)))
  let p := pairUp comb
  ((p (p (p (p (p (p lanes)))))).getD 0 none)

/-- A segment in which positions may hold no element. -/
def segmentOpt {α : Type} (first : Option α → Word32 × Events) (nxt : Word32 → Option α → Word32 × Events)
    (comb : Word32 → Word32 → Word32 × Events) (l : List (Option α)) : Option (Word32 × Events) :=
  let cs := chunks 64 l
  let lanes := (List.range 64).map (fun j => runLane first nxt ((cs.filterMap (fun c => c.drop j |>.head?)).filter Option.isSome))
  let p := pairUp comb
  ((p (p (p (p (p (p lanes)))))).getD 0 none)

/-- The reduction of R162; none where there is no element. -/
def reduceRow {α : Type} (first : α → Word32 × Events) (nxt : Word32 → α → Word32 × Events)
    (comb : Word32 → Word32 → Word32 × Events) (l : List α) : Option (Word32 × Events) :=
  let segs := (chunks 4096 l).filterMap (segment first nxt comb)
  match segs with
  | [] => none
  | x :: r => some (r.foldl (fun (w, e) (y, f) => let z := comb w y; (z.1, (e.add f).add z.2)) x)

/-- The same reduction where the elements stand at the positions from `n` on: positions before hold none. -/
def reduceFrom {α : Type} (n : Nat) (first : α → Word32 × Events) (nxt : Word32 → α → Word32 × Events)
    (comb : Word32 → Word32 → Word32 × Events) (l : List α) : Option (Word32 × Events) :=
  let f := fun (x : Option α) => match x with | some a => first a | none => (0#32, {})
  let g := fun (w : Word32) (x : Option α) => match x with | some a => nxt w a | none => (w, {})
  let cut := n / 4096 * 4096
  let l := List.replicate (n - cut) none ++ l.map some
  let segs := (chunks 4096 l).filterMap (segmentOpt f g comb)
  match segs with
  | [] => none
  | x :: r => some (r.foldl (fun (w, e) (y, f) => let z := comb w y; (z.1, (e.add f).add z.2)) x)

def rowSum (l : List Word32) : Word32 × Events := (reduceRow canon fadd fadd l).getD (0#32, {})
def rowSumSq (l : List Word32) : Word32 × Events :=
  (reduceRow (fun x => fmul x x) (fun w x => ffma x x w) fadd l).getD (0#32, {})
def rowMax (l : List Word32) : Word32 × Events := (reduceRow canon fmax fmax l).getD (inf32 true, {})
def rowMin (l : List Word32) : Word32 × Events := (reduceRow canon fmin fmin l).getD (inf32 false, {})
/-- Sum of products, each later term fused (R267). -/
def rowDot (l : List (Word32 × Word32)) : Word32 × Events :=
  (reduceRow (fun x : Word32 × Word32 => fmul x.1 x.2) (fun w x => ffma x.1 x.2 w) fadd l).getD (0#32, {})

/-- A reduction of elements at the positions from `first` on. -/
def reduceBy (op : RowOp) (first : Nat) (l : List Word32) : Word32 × Events :=
  match op with
  | .sum => (reduceFrom first canon fadd fadd l).getD (0#32, {})
  | .sumSq => (reduceFrom first (fun x => fmul x x) (fun w x => ffma x x w) fadd l).getD (0#32, {})
  | .max => (reduceFrom first canon fmax fmax l).getD (inf32 true, {})
  | .min => (reduceFrom first canon fmin fmin l).getD (inf32 false, {})

/-- Reduces each row, or each column with the logical token index of its rows, from a.token on, as the position (R269). -/
def execLaneRowReduce (c : OpCtx) (a : LaneArgs) (op : RowOp) (byCol : Bool) (s : State) : Res :=
  .next (s.laneOp c a (fun _ t =>
    if byCol then rowsOp t a [(a.in1, a.rows, a.cols)] 1 a.cols false (fun xs =>
      let x := xs.getD 0 []
      let y := gather ((List.range a.cols).map (fun j => reduceBy op a.token (x.map (fun r => r.getD j 0))))
      ([y.1], y.2))
    else rowsOp t a [(a.in1, a.rows, a.cols)] a.rows 1 false (fun xs =>
      eachRow a.rows (fun i => let r := reduceBy op 0 ((xs.getD 0 []).getD i []); ([r.1], r.2)))))

/-! ### Draws (R163) -/

/-- A draw as its U32, or as the FP32 value (r >> 8) · 2^-24. -/
def drawWord (float : Bool) (r : Word32) : Word32 :=
  if float then (toW (.num false (r.toNat / 256) (-24))).1 else r

/-- Draws at the logical indices of the operand's elements in the tensor's declared shape (R118, R163). A U32 draw is stored
through a handle of 32-bit elements, FMT = 0, only (DESIGN CHOICE, log 29). -/
def execLaneDraw (c : OpCtx) (a : LaneArgs) (v : DrawArgs) (s : State) : Res :=
  .next (s.laneOp c a (fun x t =>
    let rowLen := if v.rowLen = 0 then a.cols else v.rowLen
    rowsOp t a [] a.rows a.cols (!v.float) (fun _ =>
      ((List.range a.rows).map (fun i => (List.range a.cols).map (fun j =>
        drawWord v.float (srDraw ((s.slot x.slot).seedAt x.step) x.step x.mb v.tensor (v.first + i * rowLen + j)))), {}))))

/-! ### Soft-maximum (R164) -/

def softRow (xs : List Word32) : List Word32 × Events :=
  let n := xs.length
  if xs.any (fun x => (dec32 x).isNan) then
    (List.replicate n nan32, (xs.map (fun x => (dec32 x).sigEv)).foldl Events.add {})
  else
    let m := (rowMax xs).1
    if m = inf32 true then (List.replicate n 0#32, {})
    else if m = inf32 false then (List.replicate n nan32, evInvalid)
    else
      let d := gather (xs.map (fun x => fsub x m))
      let e := gather (d.1.map fexp)
      let sm := rowSum e.1
      let r := frcp sm.1
      let y := gather (e.1.map (fun z => fmul z r.1))
      (y.1, (((d.2.add e.2).add sm.2).add r.2).add y.2)

def execSoftMaximum (c : OpCtx) (a : LaneArgs) (s : State) : Res :=
  .next (s.laneOp c a (fun _ t => rowsOp t a [(a.in1, a.rows, a.cols)] a.rows a.cols false (fun xs =>
    eachRow a.rows (fun i => softRow ((xs.getD 0 []).getD i [])))))

/-! ### Backward of norms and soft-maximum (R267, R268) -/

/-- 1/L correctly rounded. -/
def rcpLen (n : Nat) : Word32 := if n = 0 then 0#32 else let (q, f) := quotient 1 0 n 0 30; (rnd32 .even ⟨q, f⟩).1

def rmsBwdRow (x dy gamma : List Word32) (r : Word32) : List Word32 × Events :=
  let g := gather ((dy.zip gamma).map (fun (a, b) => fmul a b))
  let c := rowDot (g.1.zip x)
  let k1 := fmul c.1 (rcpLen x.length)
  let k2 := fmul k1.1 r
  let k := fmul k2.1 r
  let y := gather ((g.1.zip x).map (fun (a, b) =>
    let u := fmul b k.1; let w := fsub a u.1; let z := fmul r w.1; (z.1, (u.2.add w.2).add z.2)))
  (y.1, ((((g.2.add c.2).add k1.2).add k2.2).add k.2).add y.2)

def layerBwdRow (xh dy gamma : List Word32) (r : Word32) : List Word32 × Events :=
  let g := gather ((dy.zip gamma).map (fun (a, b) => fmul a b))
  let a := rowSum g.1
  let b := rowDot (g.1.zip xh)
  let al := fmul a.1 (rcpLen xh.length)
  let bl := fmul b.1 (rcpLen xh.length)
  let y := gather ((g.1.zip xh).map (fun (p, h) =>
    let u := fsub p al.1; let w := fmul h bl.1; let v := fsub u.1 w.1; let z := fmul r v.1
    (z.1, ((u.2.add w.2).add v.2).add z.2)))
  (y.1, ((((g.2.add a.2).add b.2).add al.2).add bl.2).add y.2)

def softBwdRow (y dy : List Word32) : List Word32 × Events :=
  if y.all (fun w => decide (w = 0#32)) then (y.map (fun _ => 0#32), {})
  else
    let d := rowDot (y.zip dy)
    let z := gather ((y.zip dy).map (fun (a, b) => let u := fsub b d.1; let v := fmul a u.1; (v.1, u.2.add v.2)))
    (z.1, d.2.add z.2)

/-- The operands of a norm backward: x or xh, dy, gamma as one row, r as one value per row. -/
def State.normBwd (s : State) (c : OpCtx) (a : LaneArgs)
    (f : List Word32 → List Word32 → List Word32 → Word32 → List Word32 × Events) : State :=
  s.laneOp c a (fun _ t =>
    rowsOp t a [(a.in1, a.rows, a.cols), (a.in2, a.rows, a.cols), (a.in3, 1, a.cols), (a.in4, a.rows, 1)] a.rows a.cols
      false (fun xs => eachRow a.rows (fun i =>
        f ((xs.getD 0 []).getD i []) ((xs.getD 1 []).getD i []) ((xs.getD 2 []).getD 0 [])
          (((xs.getD 3 []).getD i []).getD 0 0))))

def execRmsNormBwd (c : OpCtx) (a : LaneArgs) (s : State) : Res := .next (s.normBwd c a rmsBwdRow)
def execLayerNormBwd (c : OpCtx) (a : LaneArgs) (s : State) : Res := .next (s.normBwd c a layerBwdRow)
def execSoftmaxBwd (c : OpCtx) (a : LaneArgs) (s : State) : Res :=
  .next (s.laneOp c a (fun _ t =>
    rowsOp t a [(a.in1, a.rows, a.cols), (a.in2, a.rows, a.cols)] a.rows a.cols false (fun xs =>
      eachRow a.rows (fun i => softBwdRow ((xs.getD 0 []).getD i []) ((xs.getD 1 []).getD i [])))))

end Sys2Proof.Machine
end

