-- ==== Sys2Proof/Machine/Tiers.lean ====
section
/-! DEFINITION. Tsuton stacks, quarter caches and Ozsavex cartridges: the cipher, fresh tags, scrub, spare rows, bank
power gating, cache lines (08, 12). -/

namespace Sys2Proof.Machine

def State.stack (s : State) (n : Nat) : Stack := tget s.dram n {}
def State.setStack (s : State) (n : Nat) (x : Stack) : State := { s with dram := tput s.dram n x }
def State.updStack (s : State) (n : Nat) (f : Stack → Stack) : State := s.setStack n (f (s.stack n))
def State.cart (s : State) (k : Nat) : Cart := tget s.carts k {}
def State.updCart (s : State) (k : Nat) (f : Cart → Cart) : State := { s with carts := tput s.carts k (f (s.cart k)) }
def State.chip (s : State) (k : Nat) : Chip := tget s.chips k {}
def State.updChip (s : State) (k : Nat) (f : Chip → Chip) : State := { s with chips := tput s.chips k (f (s.chip k)) }

/-! ### The cipher (R286, R288) -/

/-- The check bits of a code word. -/
def codeCheck (c : Code160) : Nat := c.toNat / 2 ^ 128


/-- The stored word of a code word under a key: C and k' = k XOR rs_check(C XOR P). -/
def encipher (key : BitVec 512) (tweak j : Nat) (w : Code160) : Code160 :=
  let p := codeData w
  let c := xtsEnc key tweak j p
  BitVec.ofNat 160 (c.toNat + (codeCheck w ^^^ rsCheck (c ^^^ p)) * 2 ^ 128)

/-- The delivered word of a stored word. -/
def decipher (key : BitVec 512) (tweak j : Nat) (w : Code160) : Code160 :=
  let c := codeData w
  let p := xtsDec key tweak j c
  BitVec.ofNat 160 (p.toNat + (codeCheck w ^^^ rsCheck (c ^^^ p)) * 2 ^ 128)

/-- Stores words of one fresh unit whole: the written word, and encrypted zeros elsewhere (R290). -/
def fillFresh (key : BitVec 512) (base first count : Nat) (m : Mem) : Mem :=
  (List.range (16 * count)).foldl (fun m i =>
    Memory.writeWord m (16 * first + i) (encipher key (base + first + i / 16) (i % 16) 0)) m

/-! ### Addresses (R294, R296) -/

def uPch (u : Nat) : Nat := u / 2 ^ 24 % 64
def uBank (u : Nat) : Nat := u / 2 ^ 18 % 64
/-- Key of the bank of a unit, 64·pch + bank. -/
def bankOf (u : Nat) : Nat := u / 2 ^ 18 % 4096
/-- A unit of a stack's user space. -/
def unitOk (u : Nat) : Bool := decide (uPch u < 32) && decide (u / 2 ^ 30 = 0) && decide (u % 2 ^ 18 < 196608)
/-- SITE of a unit of stack n. -/
def siteUnit (n u : Nat) : Nat := siteStack n (uPch u) (uBank u)

/-- The physical unit of a pennant-relative unit number over half-stacks H: stack and unit address (R296). -/
def physUnit (hs : List Nat) (u : Nat) : Nat × Nat :=
  let h := hs.length
  let c := u % (16 * h)
  let half := hs.getD (c / 16) 0
  let pch := 16 * (half % 2) + c % 16
  let v := u / (16 * h)
  (half / 2, pch * 2 ^ 24 + ((v % 64) ^^^ (v / 64 % 64)) * 2 ^ 18 + v / 64)

/-- Units of a pennant's stack space. -/
def stackUnits (h : Nat) : Nat := h * 48 * 2 ^ 22

/-- Whether the fresh tag of 64 KiB unit t of a cartridge is clear. -/
def Cart.written (x : Cart) (t : Nat) : Bool := decide (t ∈ x.used) || decide (t / 2 ^ 24 ∈ x.cleared)

/-- Whether the fresh tag of a unit is clear. -/
def Stack.written (x : Stack) (u : Nat) : Bool := decide (u / 16 ∈ x.used)

/-! ### Row sparing and pseudo-channel moves (R447, R448) -/

/-- Spare rows of a bank are counted for the bank that serves it: PC32's where its channel has moved. -/
def Stack.bankKey (x : Stack) (u : Nat) : Nat :=
  if x.pc32 = uPch u + 1 then 32 * 64 + uBank u else bankOf u

/-- Retires the half-stack of a fault: 0x8304, its granule withdrawn, Half-mast. -/
def State.retireHalf (s : State) (n u : Nat) : State :=
  let k := 2 * n + uPch u / 16
  if k ∈ s.spare.withdrawn then s
  else
    let s := s.logErr { code := 0x8304, handling := .halfMast, siteKind := .stack, site := siteUnit n u, detail0 := n * 2 ^ 30 + u }
    (s.withdrawLasting k).halfMast 0x8304

/-- Starts the move of a unit's pseudo-channel to PC32, or retires its half-stack. -/
def State.movePch (s : State) (n u : Nat) : State :=
  let x := s.stack n
  if x.moving = some (uPch u) then s
  else if x.pc32 = 0 ∧ x.moving = none then s.setStack n { x with moving := some (uPch u) }
  else s.retireHalf n u

/-- Remaps the row of a unit to a spare row of its bank; the row's words are copied whole, so its contents stay. -/
def State.remapRow (s : State) (n u : Nat) : State :=
  let x := s.stack n
  let b := x.bankKey u
  if tget x.spareRows b 0 < 32 then
    s.setStack n { x with spareRows := tadd x.spareRows b 1, rowCorr := tput x.rowCorr (bankOf u * 2 ^ 20 + Config.rowOf u % 2 ^ 20) 0 }
  else s.movePch n u

/-- Counts a corrected word: its row's count and its byte lane's units, with what they lead to. -/
def State.corrected (s : State) (n u : Nat) (byte : Nat) : State :=
  let x := s.stack n
  let row := bankOf u * 2 ^ 20 + Config.rowOf u % 2 ^ 20
  let lane := if (uPch u, byte, u) ∈ x.laneCorr then x.laneCorr else x.laneCorr ++ [(uPch u, byte, u)]
  let x := { x with corrected := x.corrected + 1, rowCorr := tadd x.rowCorr row 1, laneCorr := lane }
  let s := s.setStack n x
  let s := if 16 ≤ tget x.rowCorr row 0 then s.remapRow n u else s
  if 1024 < (lane.filter (fun l => decide (l.1 = uPch u) && decide (l.2.1 = byte))).length then s.movePch n u else s

/-! ### Scrub of one word (R298, R299) -/

/-- The record of a word of a stack. -/
def unitRec (code n u w : Nat) : ErrRec :=
  { code := code, siteKind := .stack, site := siteUnit n u, detail0 := n * 2 ^ 30 + u, detail1 := w }

/-- What scrub finds of a stored word with the flips of its first read and of its re-read: the word to keep, the
corrected byte, and 0x4102 or 0x4103 where one is met. -/
def scrubWord (cell f g : Code160) : Code160 × Option Nat × Nat :=
  match rsDecide (cell ^^^ f) with
  | .clean => (cell ^^^ f, none, 0)
  | .corrected c b => (c, some b, 0)
  | .poisoned => (cell, none, 0)
  | .uncorrectable =>
    match rsDecide (cell ^^^ g) with
    | .clean => (cell ^^^ g, none, 0x4102)
    | .corrected c b => (c, some b, 0x4102)
    | _ => (poison, none, 0x4103)

/-- One word of a stack's scrub unit. -/
def State.scrubOne (s : State) (n u w : Nat) (f g : Code160) : State :=
  let x := s.stack n
  let (c, b, code) := scrubWord (Memory.readWord x.mem (16 * u + w)) f g
  let s := s.setStack n { x with mem := Memory.writeWord x.mem (16 * u + w) c }
  let s := match b with | some b => s.corrected n u b | none => s
  if code = 0x4102 then
    (s.updStack n (fun x => { x with transients := x.transients + 1 })).logErr { unitRec 0x4102 n u w with transient := true }
  else if code = 0x4103 then
    ((s.updStack n (fun x => { x with poisoned := x.poisoned + 1 })).logErr (unitRec 0x4103 n u w)).remapRow n u
  else s

/-! ### Bank gates (R303 to R307) -/

/-- Wakes a gated bank and counts the wake. -/
def State.wakeBank (s : State) (n b : Nat) : State :=
  let x := s.stack n
  if (x.bank b).state = .active then s
  else s.setStack n { x with banks := tput x.banks b { x.bank b with state := .active, proposed := false }, wakes := x.wakes + 1 }

/-- An access wakes a bank: one in Retention that the pass under way has not reached is scrubbed now (R307); these reads meet no
transient errors. -/
def State.wake (s : State) (n b : Nat) : State :=
  let x := s.stack n
  let k := x.bank b
  let s := s.wakeBank n b
  if k.state = .retention ∧ x.scrubOn ∧ ¬ k.scrubbed ∧ x.scrubAt / 2 ^ 18 ≤ b then
    let s := s.updStack n (fun y => { y with banks := tput y.banks b { y.bank b with scrubbed := true } })
    ((x.used.filter (fun t => decide (t / 2 ^ 14 = b))).flatMap (fun t => (List.range 16).map (fun i => 16 * t + i))).foldl (fun s u =>
      if u < x.scrubAt then s else (List.range 16).foldl (fun s w => s.scrubOne n u w 0 0) s) s
  else s

/-- A bank idle for the threshold: gated at once where no tag targets it, else when the count is zero again. -/
def State.idleProposal (s : State) (n pc b : Nat) : State :=
  let k := 64 * pc + b
  let x := s.stack n
  let y : BankSt := { x.bank k with proposed := true, offOk := s.memSet.offAllowed }
  if 8 ≤ n ∨ 32 ≤ pc ∨ 64 ≤ b ∨ (x.bank k).state ≠ .active then s
  else if y.tags = 0 then s.setStack n { x with banks := tput x.banks k (x.gated k y) }
  else s.setStack n { x with banks := tput x.banks k y }

def execBankIdleProposal (n pc bank : Nat) (s : State) : Res := .next (s.idleProposal n pc bank)
def execBankWake (n pc bank : Nat) (s : State) : Res :=
  .next (if n < 8 ∧ pc < 32 ∧ bank < 64 then s.wake n (64 * pc + bank) else s)

/-! ### Writes (R286, R287, R290, R310, R312) -/

/-- A record of a slot's access (16: module traffic). -/
def State.logFor (s : State) (who : Nat) (r : ErrRec) : State := if who < 16 then s.logSlot who r else s.logErr r

/-- A transfer that names an empty key slot: refused, nothing written or delivered, the pennant halts (R289). -/
def State.noKey (s : State) (who : Nat) (r : ErrRec) : State :=
  let s := { s with out := { s.out with refusal := 0x4105, words := [] } }
  if who < 16 then s.programFault who { r with code := 0x4105 } else s.logErr { r with code := 0x4105, handling := .program }

/-- Ways of quarter q that a slot's granules own (R311). -/
def State.ways (s : State) (q p : Nat) : List Nat :=
  ((s.slot p).granules.filter (fun k => decide (k / 4 = q))).flatMap (fun k => (List.range 4).map (fun i => 4 * (k % 4) + i))

/-- The cache of a unit's home quarter sees a write: the sector of a line present in the writer's ways is updated, pending fills
are marked (R310 to R312). -/
def Cache.wrote (c : Cache) (own : List Nat) (n u w : Nat) (v : Code160) : Cache :=
  { c with lines := c.lines.map (fun l => if l.stack = n ∧ l.unit = u ∧ l.way ∈ own then { l with words := l.words.set w v } else l),
           fills := c.fills.map (fun f => if f.stack = n ∧ f.unit = u then { f with met := true } else f) }

/-- Stale notices of a completed write: for every lease whose hoist has read the unit and whose holder has no notice of it on its
way (R225 to R227). -/
def Stack.notify (x : Stack) (u : Nat) : Stack :=
  let l := (x.leases.filter (fun l => decide (u ∈ l.read))).map (fun l => (l.tile, l.stream, u))
  { x with notices := x.notices ++ l.filter (fun e => !x.notices.contains e) }

/-- One word written to a stack under a key slot. -/
def State.stackPut (s : State) (n u w who : Nat) (v : Code160) (cipher : Nat) : State :=
  let x := s.stack n
  match tget? x.keys who with
  | none => s.noKey who (unitRec 0x4105 n u w)
  | some key =>
    let s := s.wake n (bankOf u)
    let arr := rsDecide v
    let p := checkedWord v
    let s := if arr = .uncorrectable then s.logFor who (unitRec 0x4106 n u w) else s
    let s := match arr with
      | .corrected _ _ => s.updStack n (fun x => { x with corrected := x.corrected + 1 })
      | _ => s
    let bad := !unusable v && decide (2 ≤ cipher)
    let s := if unusable v ∨ cipher = 0 then s
      else s.logFor who { unitRec 0x4107 n u w with transient := decide (cipher = 1) }
    let s := if bad then s.updStack n (fun x => { x with poisoned := x.poisoned + 1 }) else s
    let stored := if unusable v || bad then poison else encipher key (n * 2 ^ 30 + u) w p
    let x := s.stack n
    let x := if x.written u then x
      else { x with mem := fillFresh key (n * 2 ^ 30) (u / 16 * 16) 16 x.mem, used := sins x.used (u / 16) }
    let x := { x with mem := Memory.writeWord x.mem (16 * u + w) stored }
    let s := s.setStack n (x.notify u)
    let q := n / 2
    { s with caches := tput s.caches q ((tget s.caches q {}).wrote (if who < 16 then s.ways q who else []) n u w p) }

/-- A word address of a stack. -/
def addrOk (n : Nat) (a : StackAddr) (who : Nat) : Bool :=
  decide (n < 8) && unitOk a.unit && decide (a.word < 16) && decide (who ≤ 16)

def execStackWrite (n : Nat) (a : StackAddr) (who : Nat) (w : Code160) (nz : Noise) (s : State) : Res :=
  .next (if addrOk n a who then s.stackPut n a.unit a.word who w nz.cipher else s)

/-! ### Reads (R287, R290, R302, R306) -/

/-- One word read from a stack for a key slot, none where the slot is empty. -/
def State.stackGet (s : State) (n u w who : Nat) (nz : Noise) : State × Option Code160 :=
  let x := s.stack n
  match tget? x.keys who with
  | none => (s.noKey who (unitRec 0x4105 n u w), none)
  | some key =>
    if ¬ x.written u then ((if (x.bank (bankOf u)).state = .off then s else s.wake n (bankOf u)), some 0#160)
    else
      let s := s.wake n (bankOf u)
      let x := s.stack n
      let cell := Memory.readWord x.mem (16 * u + w)
      let out := fun (s : State) (c : Code160) =>
        if nz.cipher < 2 then
          let s := if nz.cipher = 1 then s.logFor who { unitRec 0x4107 n u w with transient := true } else s
          let p := decipher key (n * 2 ^ 30 + u) w c
          (s, some p)
        else
          let s := s.logFor who (unitRec 0x4107 n u w)
          (s.updStack n (fun x => { x with poisonReads := x.poisonReads + 1 }), some poison)
      let back := fun (s : State) (c : Code160) => s.updStack n (fun x => { x with mem := Memory.writeWord x.mem (16 * u + w) c })
      match rsDecide (cell ^^^ nz.first) with
      | .clean => out s (cell ^^^ nz.first)
      | .corrected c b => out ((back s c).corrected n u b) c
      | .poisoned => (s.updStack n (fun x => { x with poisonReads := x.poisonReads + 1 }), some poison)
      | .uncorrectable =>
        let c := cell ^^^ nz.again
        if unusable c then
          let s := back s poison
          let s := s.updStack n (fun x => { x with poisoned := x.poisoned + 1, poisonReads := x.poisonReads + 1 })
          let s := s.logFor who (unitRec 0x4103 n u w)
          (s.remapRow n u, some poison)
        else
          let s := s.updStack n (fun x => { x with transients := x.transients + 1 })
          let s := s.logFor who { unitRec 0x4102 n u w with transient := true }
          match rsDecide c with
          | .corrected d b => out ((back s d).corrected n u b) d
          | _ => out s c

/-- Puts a read word on the interface. -/
def State.deliver (r : State × Option Code160) : State :=
  match r.2 with
  | some w => { r.1 with out := { r.1.out with words := [w] } }
  | none => r.1

def execStackRead (n : Nat) (a : StackAddr) (who : Nat) (nz : Noise) (s : State) : Res :=
  .next (if addrOk n a who then State.deliver (s.stackGet n a.unit a.word who nz) else s)

/-! ### Scrub (R298 to R300, R307, R317) -/

/-- The lowest stored unit at or after a, over tags of `size` units each. -/
def nextUnit (used : List Nat) (size a : Nat) : Option Nat :=
  match used.find? (fun t => decide (a < (t + 1) * size)) with
  | some t => some (max a (t * size))
  | none => none

/-- The lowest unit at or after a of a cartridge's wholly clear quarters: 4 channels of 192 GiB each. -/
def nextCleared (qs : List Nat) (a : Nat) : Option Nat :=
  let b := if a % 2 ^ 30 < 805306368 then a else (a / 2 ^ 30 + 1) * 2 ^ 30
  match qs.find? (fun q => decide (b < (q + 1) * 2 ^ 32)) with
  | some q => some (max b (q * 2 ^ 32))
  | none => none

/-- The lowest unit at or after a whose fresh tag is clear. -/
def Cart.next (x : Cart) (a : Nat) : Option Nat :=
  match nextUnit x.used 256 a, nextCleared x.cleared a with
  | some u, some v => some (min u v)
  | some u, none => some u
  | none, v => v

/-- The scrub period ends: the next pass begins, or an unfinished pass goes on and an overrun is counted. -/
def execScrubPassStart (u : ScrubUnit) (s : State) : Res :=
  .next (match u with
    | .stack n => if n < 8 then s.updStack n (fun x =>
        let x := { x with rowCorr := [], laneCorr := [] }
        let x := if x.scrubOn then x else { x with banks := tmap (fun _ b => { b with scrubbed := false }) x.banks }
        if x.scrubOn then { x with overruns := x.overruns + 1 } else { x with scrubOn := true, scrubAt := 0 }) else s
    | .cartridge k => if k < 4 then s.updCart k (fun x =>
        let x := { x with rowCorr := [] }
        if x.scrubOn then { x with overruns := x.overruns + 1 } else { x with scrubOn := true, scrubAt := 0 }) else s)

/-- The 4 KiB units the pass under way still visits in turn: those stored in banks it has not scrubbed at a wake. -/
def Stack.toScrub (x : Stack) : List Nat := x.used.filter (fun t => !(x.bank (t / 2 ^ 14)).scrubbed)

/-- Scrub's next unit; past the last stored unit the pass completes. -/
def State.scrubUnit (s : State) (n : Nat) (noise again : List Code160) : State :=
  let x := s.stack n
  if 8 ≤ n ∨ ¬ x.scrubOn then s
  else match nextUnit x.toScrub 16 x.scrubAt with
    | none => s.setStack n { x with scrubOn := false, passes := x.passes + 1 }
    | some u =>
      let s := (s.wakeBank n (bankOf u)).grantAt (.bankQueue n (uPch u) (uBank u)) 16
      let s := (List.range 16).foldl (fun s w => s.scrubOne n u w (noise.getD w 0) (again.getD w 0)) s
      s.updStack n (fun x =>
        if nextUnit x.toScrub 16 (u + 1) = none then { x with scrubAt := u + 1, scrubOn := false, passes := x.passes + 1 }
        else { x with scrubAt := u + 1 })

def execScrubUnit (n : Nat) (noise again : List Code160) (s : State) : Res := .next (s.scrubUnit n noise again)

/-- The copy of a pseudo-channel to PC32 completes and the logic die switches to it (R301, R448). -/
def execPseudoChannelMoveDone (n : Nat) (s : State) : Res :=
  .next (match (s.stack n).moving with
    | none => s
    | some pc => s.updStack n (fun x => { x with moving := none, pc32 := pc + 1 }))

/-- The record of a word of cartridge k. -/
def cartRec (code k u w : Nat) : ErrRec :=
  { code := code, siteKind := .cartridge, site := siteNum k, detail0 := k * 2 ^ 34 + u, detail1 := w }

/-- Retires a cartridge quarter: 0x8304, its granule withdrawn, Half-mast (R449). -/
def State.retireQuarter (s : State) (k ch : Nat) : State :=
  let g := k + 4 * (ch / 4)
  if g ∈ s.spare.withdrawn then s
  else
    let s := s.logErr { code := 0x8304, handling := .halfMast, siteKind := .cartridge, site := siteNum k, detail0 := ch }
    (s.withdrawLasting g).halfMast 0x8304

/-- Remaps a cartridge row to a spare row of its channel. -/
def State.cartRow (s : State) (k u : Nat) : State :=
  let x := s.cart k
  let ch := u / 2 ^ 30
  if 0 < tget x.spareFree ch 0 then
    s.updCart k (fun x => { x with spareFree := tsub x.spareFree ch 1, spareRows := tadd x.spareRows ch 1,
                                   toWrite := x.toWrite ++ [(ch, Config.rowOf u % 2 ^ 26)],
                                   rowCorr := tput x.rowCorr (ch * 2 ^ 30 + Config.rowOf u % 2 ^ 30) 0 })
  else s.retireQuarter k ch

/-- Counts a word corrected on a cartridge. -/
def State.cartCorrected (s : State) (k u : Nat) : State :=
  let row := u / 2 ^ 30 * 2 ^ 30 + Config.rowOf u % 2 ^ 30
  let s := s.updCart k (fun x => { x with corrected := x.corrected + 1, rowCorr := tadd x.rowCorr row 1 })
  if 16 ≤ tget (s.cart k).rowCorr row 0 then s.cartRow k u else s

def State.cartScrubOne (s : State) (k u w : Nat) (f g : Code160) : State :=
  let x := s.cart k
  let (c, b, code) := scrubWord (Memory.readWord x.mem (16 * u + w)) f g
  let s := s.updCart k (fun x => { x with mem := Memory.writeWord x.mem (16 * u + w) c })
  let s := if b = none then s else s.cartCorrected k u
  if code = 0x4102 then s.logErr { cartRec 0x4102 k u w with transient := true }
  else if code = 0x4103 then
    ((s.updCart k (fun x => { x with poisoned := x.poisoned + 1 })).logErr (cartRec 0x4108 k u w)).cartRow k u
  else s

/-- The cartridge controller scrubs its next stored unit. -/
def State.cartScrub (s : State) (k : Nat) (noise again : List Code160) : State :=
  let x := s.cart k
  if 4 ≤ k ∨ ¬ x.scrubOn then s
  else match x.next x.scrubAt with
    | none => s.updCart k (fun x => { x with scrubOn := false, passes := x.passes + 1 })
    | some u =>
      let s := (List.range 16).foldl (fun s w => s.cartScrubOne k u w (noise.getD w 0) (again.getD w 0)) s
      s.updCart k (fun x =>
        if x.next (u + 1) = none then { x with scrubAt := u + 1, scrubOn := false, passes := x.passes + 1 }
        else { x with scrubAt := u + 1 })

def execCartridgeScrubUnit (n : Nat) (noise again : List Code160) (s : State) : Res := .next (s.cartScrub n noise again)

/-! ### Quarter caches (R308 to R314) -/

/-- Whether a subtree of the 16-way tree holds an owned way; `lv` levels below it. -/
def treeHas (own : List Nat) (node lv : Nat) : Bool :=
  own.any (fun w => decide ((16 + w) / 2 ^ lv = node))

/-- The pseudo-LRU victim among owned ways. -/
def treeVictim (own : List Nat) (bits : BitVec 15) (node lv : Nat) : Nat :=
  match lv with
  | 0 => node - 16
  | n + 1 =>
    let r := bit bits (node - 1)
    let child := if r then (if treeHas own (2 * node + 1) n then 2 * node + 1 else 2 * node)
                 else (if treeHas own (2 * node) n then 2 * node else 2 * node + 1)
    treeVictim own bits child n

/-- An access to a way turns every node on its path away from it. -/
def treeTouch (bits : BitVec 15) (way : Nat) : BitVec 15 :=
  [1, 2, 3, 4].foldl (fun b lv =>
    let node := (16 + way) / 2 ^ lv
    putFld b (node - 1) (node - 1) (1 - (16 + way) / 2 ^ (lv - 1) % 2)) bits

def cacheSetOf (n u : Nat) : Nat := Config.cacheSet (n * 2 ^ 30 + u) % 24576

/-- Installs a line in the slot's ways. -/
def Cache.install (c : Cache) (own : List Nat) (n u : Nat) (ws : List Code160) : Cache :=
  if own = [] then c
  else
    let st := cacheSetOf n u
    let busy := (c.lines.filter (fun l => decide (l.set = st))).map Line.way
    let w := (own.find? (fun w => !(w ∈ busy))).getD (treeVictim own (tget c.plru st 0) 1 4)
    { c with lines := c.lines.filter (fun l => !(decide (l.set = st) && decide (l.way = w))) ++ [{ set := st, way := w, stack := n, unit := u, words := ws }],
             plru := tput c.plru st (treeTouch (tget c.plru st 0) w) }

/-- Counts in the cache's counters and in the slot's. -/
def State.cacheCount (s : State) (q p : Nat) (f : CacheCtrs → CacheCtrs) : State :=
  let c := tget s.caches q {}
  let s := { s with caches := tput s.caches q { c with ctrs := f c.ctrs } }
  if p < 16 then s.updSlot p (fun x => { x with cacheC := f x.cacheC }) else s

/-- The line in a set of ways that holds a unit, where the sector of the word is valid. -/
def Cache.line? (c : Cache) (own : List Nat) (n u w : Nat) : Option Line :=
  c.lines.find? (fun l => decide (l.stack = n) && decide (l.unit = u) && decide (l.way ∈ own) && bit l.sectors (w / 2))

/-- Drops a line. -/
def Cache.drop (c : Cache) (n u : Nat) : Cache :=
  { c with lines := c.lines.filter (fun l => !(decide (l.stack = n) && decide (l.unit = u))) }

/-- Requests a fill: the unit's words as the stack holds them now, ordered before any later write. -/
def State.requestFill (s : State) (q p n u w : Nat) (nz : Noise) : State :=
  let r := (List.range 16).foldl (fun (x : State × Option (List Code160)) i =>
    match x.2 with
    | none => x
    | some l =>
      let y := x.1.stackGet n u i p (if i = w then nz else {})
      (y.1, y.2.map (fun v => l ++ [v]))) (s, some [])
  match r.2 with
  | none => r.1
  | some ws =>
    let s := r.1
    let c := tget s.caches q {}
    { s with caches := tput s.caches q { c with fills := c.fills ++ [⟨p, n, u, w, ws, false⟩] }, out := { s.out with words := [] } }

/-- A read at a quarter cache: a hit in the pennant's ways delivers its word, corrected where it can be; otherwise a fill
is requested. -/
def State.cacheRead (s : State) (q p n : Nat) (a : StackAddr) (nz : Noise) : State :=
  if ¬ addrOk n a p ∨ n / 2 ≠ q then s
  else
    let c := tget s.caches q {}
    let own := if p < 16 then s.ways q p else []
    match c.line? own n a.unit a.word with
    | some l =>
      let v := l.words.getD a.word 0 ^^^ nz.first
      match rsDecide v with
      | .clean =>
        let c := { c with plru := tput c.plru l.set (treeTouch (tget c.plru l.set 0) l.way) }
        let s := { s with caches := tput s.caches q c }
        State.deliver (s.cacheCount q p (fun k => { k with hits := k.hits + 1 }), some v)
      | .corrected w _ =>
        let s := { s with caches := tput s.caches q (c.drop n a.unit) }
        State.deliver (s.cacheCount q p (fun k => { k with hits := k.hits + 1, corrected := k.corrected + 1 }), some w)
      | _ =>
        if isPoison v then State.deliver (s.cacheCount q p (fun k => { k with hits := k.hits + 1 }), some poison)
        else
          let s := { s with caches := tput s.caches q (c.drop n a.unit) }
          let s := s.cacheCount q p (fun k => { k with refetched := k.refetched + 1 })
          let s := s.logFor p { unitRec 0x4102 n a.unit a.word with transient := true }
          s.requestFill q p n a.unit a.word {}
    | none => s.requestFill q p n a.unit a.word nz

def execCacheRead (q p n : Nat) (a : StackAddr) (nz : Noise) (s : State) : Res := .next (s.cacheRead q p n a nz)

/-- A fill returns: its word is delivered, and the line installed unless a write met it or the traffic does not allocate. -/
def State.cacheFill (s : State) (q p n : Nat) (a : StackAddr) : State :=
  let c := tget s.caches q {}
  match c.fills.find? (fun f => decide (f.slot = p) && decide (f.stack = n) && decide (f.unit = a.unit) && decide (f.word = a.word)) with
  | none => s
  | some f =>
    let c := { c with fills := c.fills.erase f }
    let own := if p < 16 then s.ways q p else []
    let c := if f.met then c else c.install own n a.unit f.words
    let s := { s with caches := tput s.caches q c }
    let s := s.cacheCount q p (fun k =>
      if f.met then { k with notInstalled := k.notInstalled + 1 } else { k with misses := k.misses + 1 })
    State.deliver (s, some (f.words.getD a.word 0))

def execCacheFill (q p n : Nat) (a : StackAddr) (s : State) : Res := .next (s.cacheFill q p n a)

end Sys2Proof.Machine
end

