-- ==== Sys2Proof/Machine/Tiles.lean ====
section
/-! DEFINITION. The handle table, credited writes between tiles, remote reads and window registers (05). -/

namespace Sys2Proof.Machine

/-! ### Handle entries (R179 to R181, R186) -/

/-- Units of a receive area. -/
def areaUnits (h : BitVec 128) : Nat := hLen h / 32

/-- The module a KIND 0b10 entry names, of those the pennant spans: this ring's position, or the partner over M. -/
def State.spansModule (s : State) (p : Nat) (mirror : Bool) (pos : Nat) : Bool :=
  let b := (s.slot p).burgee
  if mirror then bMirrored b && decide (pos = s.ring.pos) && decide (bSpan b / 2 ^ pos % 2 = 1)
  else decide (pos ≠ s.ring.pos) && decide (bSpan b / 2 ^ pos % 2 = 1)

/-- The checks of R180 and R186 on an entry with VALID = 1, in order; none: accepted. -/
def State.entryCheck (s : State) (p : Nat) (t : TileRef) (x : Tile) (n : Nat) (e : BitVec 128) : Option Nat :=
  let k := hKind e
  let eventOk := (k = 0 && hRecv e) || decide (hEvent e = 0)
  if k = 3 ∨ ¬ fmtDefined (hFmt e) then some 0x6132
  else if hLen e = 0 ∨ 40960 < hLen e ∨ 40960 < hBase e + hLen e then some 0x6133
  else if k = 0 ∧ (hPitch e = 0 ∨ hLen e < (if hTiled e then hPitch e * wordsPerTile (hFmt e) else hPitch e)) then some 0x6133
  else if (hTiled e ∧ k ≠ 0) ∨ (hRecv e ∧ (k ≠ 0 ∨ ¬ hWr e)) then some 0x6134
  else if k = 1 ∧ (¬ trOk (hTile e) ∨ s.tileSlot (hTile e) ≠ some p ∨ hTile e = t) then some 0x6135
  else if k = 2 ∧ ¬ s.spansModule p (hMirror e) (hPos e) then some 0x6135
  else if fld e 87 86 ≠ 0 ∨ fld e 71 64 ≠ 0 ∨ fld e 6 0 ≠ 0 ∨ ¬ eventOk ∨ (k = 2 ∧ fld e 94 91 ≠ 0) then some 0x6132
  else if hRecv e ∧ (hLen e % 32 ≠ 0 ∨ 256 < areaUnits e ∨ 4 ≤ (x.areas.filter (fun y => decide (y.1 ≠ n))).length) then some 0x6138
  else none

/-- Stores a checked entry: hardware sets PENNANT, and UNITS_HELD and FIRST_UNIT go on where the entry still names the
same area, else read zero; a receive area's units all become free. -/
def Tile.putEntry (x : Tile) (p n : Nat) (e : BitVec 128) : Tile :=
  let old := x.handle n
  let keep := hValid old && decide (hKind old = 1) && decide (hKind e = 1) && decide (hTile old = hTile e)
    && decide (hTarget old = hTarget e)
  let e := putFld e 116 113 p
  let e := putFld (putFld e 23 15 (if keep then hHeld old else 0)) 14 7 (if keep then hFirst old else 0)
  { x with handles := tput x.handles n e,
           areas := if hRecv e then tput x.areas n { units := List.replicate (areaUnits e) .free } else tdel x.areas n }

/-- Invalidates an entry: its other fields stay; a receive area is forgotten. -/
def Tile.clearEntry (x : Tile) (n : Nat) : Tile :=
  { x with handles := (if tget? x.handles n = none then x.handles else tput x.handles n (putFld (x.handle n) 127 127 0)),
           areas := tdel x.areas n }

/-- Whether a unit of the area at entry n is held (R193). -/
def Tile.anyHeld (x : Tile) (n : Nat) : Bool :=
  ((tget x.areas n { units := [] }).units).any (fun u => match u with | .held _ _ _ => true | _ => false)

/-- Whether a stream descriptor names an entry: its local handle, the handle of another tile or module, its control word. -/
def sNames (d : BitVec 256) (n : Nat) : Bool :=
  decide (sLocal d = n) || (decide (sRemote d = n) && decide (0x32 ≤ sOp d) && decide (sOp d ≤ 0x34))
    || (sConvert d && decide (sConv d = n))

/-- Whether a stream under way, or issued and waiting for a place, names an entry (R184). -/
def Tile.named (x : Tile) (n : Nat) : Bool :=
  x.streams.any (fun r => sNames r.desc n) || x.queued.any (fun q => sNames q.2 n)

/-- The lowest-numbered invalid entry. -/
def Tile.lowFree (x : Tile) : Option Nat := (List.range 128).find? (fun n => !hValid (x.handle n))

/-- What an entry write waits for: an operation under way, or a handle operation that waits, that names the entry (cause 0xE),
or held units (0x7). -/
def Tile.entryFree (x : Tile) (n : Nat) : Except OpErr Unit :=
  let k := if n = 128 then x.lowFree.getD 128 else n
  if x.named k || x.hwaits.any (fun w => decide (w.n = k) || decide (w.n = 128)) then .error (.wait 0xE)
  else if x.anyHeld k then .error (.wait 7) else .ok ()

/-- The 128-bit image in code word w of the scratchpad, once what fills that word has finished (R135, R179). -/
def Tile.image (x : Tile) (w : Nat) : Except OpErr (BitVec 128) := do
  let _ ← x.ready [(w / 2, 1)] []
  let v ← readCode x.mem 0 w
  pure (BitVec.ofNat 128 v)

/-- Writes one entry after its checks, or clears it where the image has VALID = 0 (R180). -/
def State.writeEntry (s : State) (t : TileRef) (n : Nat) (e : BitVec 128) (p : Pass) (x : Tile) : Except OpErr Tile :=
  if ¬ hValid e then .ok (x.clearEntry n)
  else match s.entryCheck p.slot t x n e with
    | some k => .error (.fault k)
    | none => .ok (x.putEntry p.slot n e)

/-- HSET, HCLEAR: one entry, its image read from the scratchpad; an image with VALID = 0 acts as an HCLEAR. -/
def State.hsetOp (s : State) (t : TileRef) (w : HWait) (p : Pass) (x : Tile) : Except OpErr OpDone :=
  match w.image with
  | none => .ok { tile := x.clearEntry w.n }
  | some a => do
    let e ← x.image a
    let y ← s.writeEntry t w.n e p x
    pure { tile := y, rd := [(a / 2, 1)] }

/-- HALLOC: as HSET, into the lowest-numbered invalid entry; the number, zero-extended, takes the result's code word. An image
with VALID = 0 changes no entry (R180, R181). -/
def State.hallocOp (s : State) (t : TileRef) (w : HWait) (p : Pass) (x : Tile) : Except OpErr OpDone := do
  let a := w.image.getD 0
  let e ← x.image a
  match x.lowFree with
  | none => .error (.fault 0x6136)
  | some n =>
    let _ ← x.ready [] [(w.result / 2, 1)]
    let y ← if hValid e then s.writeEntry t n e p x else .ok x
    pure { tile := { y with mem := Memory.writeWord y.mem w.result (encodeWord (BitVec.ofNat 128 n)) },
           value := [BitVec.ofNat 32 n], rd := [(a / 2, 1)], wr := [(w.result / 2, 1)] }

/-- A handle operation on the tile as the operations issued before it leave it. -/
def State.entryOp (s : State) (t : TileRef) (w : HWait) (p : Pass) (x : Tile) : Except OpErr OpDone := do
  let _ ← x.entryFree w.n
  if w.n < 128 then s.hsetOp t w p x else s.hallocOp t w p x

/-- A handle operation of a pass: one that must wait stays with the tile's sequencer and is done in its turn (R184, R193). -/
def State.seqOp (s : State) (c : OpCtx) (n : Nat) (image : Option Nat) (result : Nat) : State :=
  match s.opPass c with
  | none => s
  | some x =>
    let w : HWait := { pass := x.id, n := n, image := image, result := result }
    let s := match s.entryOp c.tile w x (s.tile (s.phys c.tile)) with
      | .error (.wait k) =>
        s.updTile (s.phys c.tile) (fun t => { t with waits := tput t.waits 3 k, hwaits := t.hwaits ++ [w] })
      | r => s.finishOp c x 3 x.block r
    s.ranOp x c.tile (.handle n 0)

/-- The first waiting handle operation that nothing holds back any more: its place in the list, and its outcome, which leaves
the operations issued before it waiting. A pass that is gone writes nothing. -/
def State.nextEntry (s : State) (t : TileRef) (x : Tile) : Option (Nat × HWait × Option (Pass × Except OpErr OpDone)) :=
  (x.hwaits.mapIdx (fun i w => (i, w))).findSome? (fun (i, w) =>
    match s.pass? w.pass with
    | none => some (i, w, none)
    | some p => match s.entryOp t w p { x with hwaits := x.hwaits.take i } with
      | .error (.wait _) => none
      | r => some (i, w, some (p, r)))

/-- Waiting entry writes of a tile are made as the operations that hold them back finish (R184, R193). -/
def State.entryTurn (fuel : Nat) (s : State) (t : TileRef) : State :=
  match fuel with
  | 0 => s
  | k + 1 =>
    let x := s.tile (s.phys t)
    match s.nextEntry t x with
    | none => s
    | some (i, w, o) =>
      let rest := x.hwaits.eraseIdx i
      let s1 := s.setTile (s.phys t) { x with hwaits := rest, waits := tdel x.waits 3 }
      State.entryTurn k (match o with
        | none => s1
        | some (p, .ok d) => s1.finishOp ⟨t, w.pass⟩ p 3 p.block (.ok { d with tile := { d.tile with hwaits := rest } })
        | some (p, .error e) => s1.finishOp ⟨t, w.pass⟩ p 3 p.block (.error e)) t

def execHset (c : OpCtx) (n w : Nat) (s : State) : Res :=
  .next (if n < 128 ∧ w < 81920 then s.seqOp c n (some w) 0 else s)
def execHalloc (c : OpCtx) (a : AllocArgs) (s : State) : Res :=
  .next (if a.image < 81920 ∧ a.result < 81920 then s.seqOp c 128 (some a.image) a.result else s)
def execHclear (c : OpCtx) (n : Nat) (s : State) : Res :=
  .next (if n < 128 then s.seqOp c n none 0 else s)

/-! ### Window registers (R195) -/

def wOpen (w : BitVec 128) : Bool := bit w 127
def wOnce (w : BitVec 128) : Bool := bit w 126
def wPeer (w : BitVec 128) : Nat := fld w 125 124
def wMirror (w : BitVec 128) : Bool := bit w 123
def wPos (w : BitVec 128) : Nat := fld w 122 117
def wEvent (w : BitVec 128) : Nat := fld w 103 96
def wBase (w : BitVec 128) : Nat := fld w 95 80
def wLen (w : BitVec 128) : Nat := fld w 79 64
def wReceived (w : BitVec 128) : Nat := fld w 63 32
def wRefused (w : BitVec 128) : Nat := fld w 31 16

def Tile.window (x : Tile) (n : Nat) : BitVec 128 := tget x.windows n 0

/-- Whether words [b, b + l) lie within a VALID local entry with WR = 1. -/
def Tile.writable (x : Tile) (b l : Nat) : Bool :=
  x.handles.any (fun (_, h) => hValid h && decide (hKind h = 0) && hWr h && decide (hBase h ≤ b) && decide (b + l ≤ hBase h + hLen h))

/-- WSET: opening is checked; RECEIVED_W and REFUSED count from the write that sets OPEN. -/
def wsetOp (w : Nat) (e : BitVec 128) (p : Pass) (x : Tile) : Except OpErr OpDone :=
  let old := x.window w
  let put := fun (v : BitVec 128) => { x with windows := tput x.windows w (putFld v 116 113 p.slot) }
  if ¬ wOpen e then .ok { tile := put (putFld e 63 16 (fld old 63 16)) }
  else if 1 < wPeer e ∨ fld e 112 104 ≠ 0 ∨ fld e 15 0 ≠ 0 then .error (.fault 0x6132)
  else if wLen e = 0 ∨ 40960 < wLen e ∨ ¬ x.writable (wBase e) (wLen e) then .error (.fault 0x6133)
  else .ok { tile := put (putFld e 63 16 0) }

def execWset (c : OpCtx) (w : Nat) (e : BitVec 128) (s : State) : Res :=
  .next (if w < 8 then (match s.opPass c with | none => s | some x => s.runOp c 3 x.block (wsetOp w e)) else s)

/-! ### Remote reads (R185) -/

/-- Scratchpad words [a, a + n) as checked code words (R281, R283). -/
def Tile.words (x : Tile) (a n : Nat) : List Code160 :=
  (List.range (2 * n)).map (fun i => checkedWord (Memory.readWord x.mem (2 * a + i)))

/-- What the target of a KIND 0b01 handle says of words [off, off + n) of it: the first word there, or the refusal. -/
def State.remoteBase (s : State) (h : BitVec 128) (off n : Nat) (wr : Bool) : Except OpErr (Nat × Nat) := do
  if ¬ hValid h then .error (.fault 0x6132)
  else if hKind h ≠ 1 ∨ (if wr then ¬ hWr h else ¬ hRd h) then .error (.fault 0x6134)
  else if hLen h < off + n then .error (.fault 0x6133) else
  let m := s.phys (hTile h)
  let r ← (s.tile m).region (hTarget h) wr
  if r.len < hBase h + off + n then .error (.fault 0x6133) else pure (m, r.base + hBase h + off)

/-- Whether a frozen crossing lies between two tiles: between either's group and its fabric, or on a stitched boundary of the
fixed route (R78, R177). -/
def State.pathFrozen (s : State) (a b : TileRef) : Bool :=
  let m := if a.q % 2 = b.q % 2 then a.q else a.q / 2 * 2 + b.q % 2
  decide (groupNum a.q a.g ≠ groupNum b.q b.g) &&
    (s.frozen (groupNum a.q a.g) (64 + a.q) || s.frozen (64 + a.q) (64 + m) || s.frozen (64 + m) (64 + b.q)
      || s.frozen (groupNum b.q b.g) (64 + b.q))

/-- A request that would cross a frozen crossing waits there under the cause region crossing (R78). -/
def State.crossWait (s : State) (t : TileRef) : State := s.updTile (s.phys t) (fun x => { x with waits := tput x.waits 2 0xC })

/-- Serves a read of `len` words at word offset `off` of a KIND 0b01 handle, or faults the reading block. -/
def State.remoteRead (s : State) (c : OpCtx) (h off len : Nat) : State :=
  match s.livePass c with
  | none => s
  | some x =>
    let e := (s.tile (s.phys c.tile)).handle h
    if s.pathFrozen c.tile (hTile e) then s.crossWait c.tile
    else
      match s.remoteBase e off len false with
      | .error e => s.finishOp c x 2 x.block (.error e)
      | .ok (m, a) =>
        let s := (s.updTile (s.phys c.tile) (fun t => { t with waits := tdel t.waits 2 })).slotPass (hTile e) x.slot len
        { s with out := { s.out with words := (s.tile m).words a len } }

def execRemoteTileRead (c : OpCtx) (h off len : Nat) (s : State) : Res := .next (s.remoteRead c h off len)

/-! ### Credited writes (R186 to R192) -/

/-- Whether unit u is held by handle h of logical tile n. -/
def heldBy (n h : Nat) (u : UnitState) : Bool :=
  match u with
  | .held m k _ => decide (m = n) && decide (k = h)
  | _ => false

/-- Sets FIRST_UNIT and UNITS_HELD of a writer's handle to what the keeper holds for it. -/
def State.showHeld (s : State) (w : TileRef) (h : Nat) (a : Area) : State :=
  s.updTile (s.phys w) (fun t =>
    let n := (a.units.filter (heldBy (trNum w) h)).length
    let f := if n = 0 then 0 else a.units.findIdx (heldBy (trNum w) h)
    { t with handles := tput t.handles h (putFld (putFld (t.handle h) 23 15 n) 14 7 f) })

/-- Sets the units [f, f + n) of an area. -/
def setUnits (l : List UnitState) (f n : Nat) (u : UnitState) : List UnitState :=
  l.mapIdx (fun i v => if f ≤ i ∧ i < f + n then u else v)

def Area.range (a : Area) (f n : Nat) : List UnitState := (a.units.drop f).take n

def State.area (s : State) (t : TileRef) (n : Nat) : Option Area := tget? (s.tile (s.phys t)).areas n
def State.setArea (s : State) (t : TileRef) (n : Nat) (a : Area) : State :=
  s.updTile (s.phys t) (fun x => { x with areas := tput x.areas n a })

/-- The writer's handle of a credited write: VALID, KIND 0b01, WR. -/
def creditHandle (h : BitVec 128) : Except OpErr Unit :=
  if ¬ hValid h then .error (.fault 0x6132) else if hKind h ≠ 1 ∨ ¬ hWr h then .error (.fault 0x6134) else .ok ()

/-- CREQ: queued at the keeper, or kept until there is a place where 16 requests are already queued; its writer waits under
credit wait until the grant (R189). A range outside the area is refused; so is a count of 0 (DESIGN CHOICE, log 30). -/
def State.creqOp (s : State) (c : OpCtx) (h first count : Nat) : State :=
  match s.livePass c with
  | none => s
  | some x =>
    let e := (s.tile (s.phys c.tile)).handle h
    let r : Except OpErr Area := do
      let _ ← creditHandle e
      match s.area (hTile e) (hTarget e) with
      | none => .error (.fault 0x6138)
      | some a => if count = 0 ∨ 256 < count ∨ a.units.length < first + count then .error (.fault 0x6138) else pure a
    match r with
    | .error e => s.finishOp c x 2 x.block (.error e)
    | .ok a =>
      if s.pathFrozen c.tile (hTile e) then s.crossWait c.tile
      else
        let s := s.updTile (s.phys c.tile) (fun t => { t with waits := tput t.waits 2 7 })
        let q : CreditReq := ⟨trNum c.tile, h, x.id, first, count⟩
        s.setArea (hTile e) (hTarget e) (if 16 ≤ a.queue.length then { a with late := a.late ++ [q] } else { a with queue := a.queue ++ [q] })

def execCreq (c : OpCtx) (h first count : Nat) (s : State) : Res := .next (s.creqOp c h first count)

/-- The keeper grants the oldest request of an area once every unit of its range is free. -/
def State.creditGrant (s : State) (t : TileRef) (n : Nat) : State :=
  match s.area t n with
  | none => s
  | some a =>
    match a.queue with
    | [] => s
    | q :: rest =>
      if (a.range q.first q.count).all (fun u => decide (u = .free)) ∧ ¬ s.pathFrozen t (refOf q.tile) then
        let a := { a with units := setUnits a.units q.first q.count (.held q.tile q.handle q.pass), queue := rest ++ a.late.take 1,
                          late := a.late.drop 1 }
        let s := s.updTile (s.phys (refOf q.tile)) (fun x => { x with waits := tdel x.waits 2 })
        (s.setArea t n a).showHeld (refOf q.tile) q.handle a
      else s

def execCreditGrant (t : TileRef) (area : Nat) (s : State) : Res := .next (s.creditGrant t area)

/-- Whether a TILE_WRITE through handle h, under way or waiting for a place, still has words of units [f, f + n) to write
(R188). -/
def Tile.writing (x : Tile) (h f n : Nat) : Bool :=
  x.issued.any (fun r => decide (sOp r.desc = 0x33) && decide (sRemote r.desc = h)
    && decide (32 * f < hBase (x.handle h) + sLen r.desc / 32) && decide (hBase (x.handle h) + r.done / 32 < 32 * (f + n)))

/-- CDLV: held units become full and the area's event is raised, number 0 where the entry's EVENT is 0 (DESIGN CHOICE, log 30);
units not held are refused with 0x6137. -/
def State.cdlvOp (s : State) (c : OpCtx) (h first count : Nat) : State :=
  match s.livePass c with
  | none => s
  | some x =>
    let t := s.tile (s.phys c.tile)
    let e := t.handle h
    let r : Except OpErr Area := do
      let _ ← creditHandle e
      match s.area (hTile e) (hTarget e) with
      | none => .error (.fault 0x6137)
      | some a =>
        let u := a.range first count
        if u.length ≠ count ∨ count = 0 ∨ ¬ u.all (heldBy (trNum c.tile) h) then .error (.fault 0x6137)
        else if t.writing h first count then .error (.wait 6)
        else pure a
    match r with
    | .error e => s.finishOp c x 2 x.block (.error e)
    | .ok a =>
      if s.pathFrozen c.tile (hTile e) then s.crossWait c.tile
      else
        let a := { a with units := setUnits a.units first count .full,
                          src := (List.range count).foldl (fun m i => tput m (first + i) (trNum c.tile + 1)) a.src }
        let s := s.updTile (s.phys c.tile) (fun t => { t with waits := tdel t.waits 2 })
        let s := s.setArea (hTile e) (hTarget e) a
        let s := s.updTile (s.phys (hTile e)) (fun y => { y with events := y.events ++ [hEvent (y.handle (hTarget e))] })
        (s.showHeld c.tile h a).entryTurn 129 (hTile e)

def execCdlv (c : OpCtx) (h first count : Nat) (s : State) : Res := .next (s.cdlvOp c h first count)

/-- Full units of an area become free again. -/
def State.relUnits (s : State) (t : TileRef) (n first count : Nat) : State :=
  match s.area t n with
  | none => s
  | some a => s.setArea t n { a with units := a.units.mapIdx (fun i u => if first ≤ i ∧ i < first + count ∧ u = .full then .free else u) }

/-- Whether a tile lies in the groups of a pass's block. -/
def Slot.inBlock (x : Slot) (p : Pass) (t : TileRef) : Bool :=
  match x.block? p.block with
  | some bd => bit bd (groupNum t.q t.g)
  | none => true

/-- CREL: full units become free; those that hold an input of the pass, delivered by a tile outside its block's groups, become
free at its release (R255). A release of units that are not full is ignored and counted as misuse. -/
def State.crelOp (s : State) (c : OpCtx) (n first count : Nat) : State :=
  match s.livePass c with
  | none => s
  | some x =>
    let bad := s.updGroup (groupNum c.tile.q c.tile.g) (fun g => { g with misuse := g.misuse + 1 })
    match s.area c.tile n with
    | none => bad
    | some a =>
      let u := a.range first count
      if u.length = count ∧ u.all (fun v => decide (v = .full)) then
        (if (List.range count).any (fun i => !(s.slot x.slot).inBlock x (refOf (tget a.src (first + i) (trNum c.tile + 1) - 1))) then
          s.updPass x.id (fun y => { y with rels := y.rels ++ [(c.tile, n, first, count)] })
        else s.setArea c.tile n { a with units := setUnits a.units first count .free })
      else bad

def execCrel (c : OpCtx) (area first count : Nat) (s : State) : Res := .next (s.crelOp c area first count)

/-- Held units of a range return to free at the hold timeout: the expiry is counted and 0x613A is logged (R192). -/
def State.holdTimeout (s : State) (t : TileRef) (n first count : Nat) : State :=
  match s.area t n with
  | none => s
  | some a =>
    let u := a.range first count
    match u.findSome? (fun v => match v with | .held w h _ => some (w, h) | _ => none) with
    | none => s
    | some (w, h) =>
      let back := a.units.mapIdx (fun i v => if first ≤ i ∧ i < first + count ∧ heldBy w h v then UnitState.free else v)
      let a := { a with units := back }
      let s := (s.setArea t n a).showHeld (refOf w) h a
      let s := s.updGroup (groupNum t.q t.g) (fun g => { g with expiries := g.expiries + 1 })
      let r := s.siteRec t { code := 0x613A, detail0 := n, detail1 := first }
      let s := match s.tileSlot t with
        | some p => s.logSlot p r
        | none => s.logErr r
      s.entryTurn 129 t

def execCreditHoldTimeout (t : TileRef) (area first count : Nat) (s : State) : Res :=
  .next (s.holdTimeout t area first count)

end Sys2Proof.Machine
end

