-- ==== Sys2Proof/Machine/Streams.lean ====
section
/-! DEFINITION. Stream units: descriptors and their checks, tags, leases, transfers, bunting queues, arbitration (06). -/

namespace Sys2Proof.Machine

/-! ### Resources and arbitration (R237 to R241) -/

def Tile.stream? (t : Tile) (id : Nat) : Option Stream := t.streams.find? (fun x => decide (x.id = id))
def Tile.updStream (t : Tile) (id : Nat) (f : Stream → Stream) : Tile :=
  { t with streams := t.streams.map (fun x => if x.id = id then f x else x) }
def State.updStream (s : State) (n id : Nat) (f : Stream → Stream) : State := s.updTile n (fun t => t.updStream id f)

/-- A step of a path: the number of its resource and, at a tile's scratchpad slots, the words of the transfer there: its first
word, their number (below 16) and direction. -/
def slotStep (t : TileRef) (w n : Nat) (wr : Bool) : Nat := resKey (.scratchSlots t) + 2 ^ 20 * (2 * (16 * w + n) + b2n wr)
def stepKey (k : Nat) : Nat := k % 2 ^ 20
def stepWords (k : Nat) : Nat := k / 2 ^ 21 % 16

/-- Whether the issue step at hand has a scheduled access, in the direction of a step of a path, to a bank of its words; in the
step whose slots are reserved it has none (R205). -/
def State.bankBusy (s : State) (k : Nat) : Bool :=
  if stepKey k / 2 ^ 16 ≠ 1 then false
  else
    let x := s.tile (s.phys (refOf (stepKey k % 2 ^ 16)))
    let w := k / 2 ^ 25
    if x.issue % 64 = 63 then false
    else (x.plan.headD []).any (fun a => decide (a.write = decide (k / 2 ^ 20 % 2 = 1))
      && (List.range (stepWords k)).any (fun i => decide (spBank (w + i) = spBank a.word)))

/-- Number of a queue engine's requester for queue n at the arbiters. -/
def queueTile (n : Nat) : Nat := 10000 + n

/-- A transfer of a burst asks for the next resource of its path; past the last it is granted. It joins its entry while that has
transfers of its burst to come (R241). Accesses that find other requests or scheduled traffic at a tile's scratchpad slots have
waited for their bank: they are counted once, and the stream waits under DMA bank conflict (R206). -/
def State.ask (s : State) (slot tile stream burst : Nat) (path : List Nat) : State :=
  match path with
  | [] =>
    if 10000 ≤ tile then { s with queues := tmap (fun n q => if queueTile n = tile then
        (if q.engine then { q with granted := q.granted + 1 } else { q with engine := true }) else q) s.queues }
    else s.updStream (s.phys (refOf tile)) stream (fun x => { x with granted := x.granted + 1 })
  | k :: _ =>
    let key := stepKey k
    let a := s.arb key
    let same := fun (r : ArbReq) => decide (r.tile = tile) && decide (r.stream = stream) && decide (r.done + r.paths.length < r.burst)
    let rs := if a.reqs.any same then a.reqs.map (fun r => if same r then { r with paths := r.paths ++ [path] } else r)
              else a.reqs ++ [{ slot := slot, tile := tile, stream := stream, paths := [path], burst := burst }]
    let s := if key / 2 ^ 16 = 1 ∧ (a.reqs ≠ [] ∨ s.bankBusy k) then
        (s.updGroup (key % 2 ^ 16 / 20) (fun g => { g with unsched := g.unsched + stepWords k })).updTile (s.phys (refOf tile))
          (fun t => { t with waits := tput t.waits 2 5 })
      else s
    { s with arbs := tput s.arbs key { a with reqs := rs } }

/-- Readable bytes not yet passed, or free bytes the producer can still write: the free sections, without what it has written
of the current one (R215). -/
def Stream.ahead (t : Tile) (x : Stream) : Nat :=
  let b := x.secBytes t
  if sInbound x.desc then (x.secDone t - x.passed) * b
  else (sSections x.desc - (x.passed - x.secDone t)) * b - x.wrote32

/-- Slack of a deadline-class stream in ticks of the consumer's group, none for the fill class. -/
def Stream.slack (t : Tile) (x : Stream) : Option Nat :=
  if x.drain = 0 then none
  else
    let v := 1024 * x.ahead t / x.drain
    some (if ¬ x.filled ∧ 0 < sSlack x.desc then min v (sSlack x.desc - x.age) else v)

/-- Slack in the arbiter's ticks (R216). -/
def State.slackAt (s : State) (key tile c : Nat) : Nat :=
  let pa := s.rate (tickSource key); let pc := s.rate (tile / 20)
  if pa = 0 ∨ pc = 0 then c else c * pa / pc

/-- Rank of the i-th waiting request (R217): deadline class by slack, requester, stream; then fill class by waiting
time. -/
def State.rankOf (s : State) (key i : Nat) (r : ArbReq) : Nat × Nat × Nat × Nat :=
  let t := s.tile (s.phys (refOf r.tile))
  match (t.stream? r.stream).bind (fun x => x.slack t) with
  | some c => (0, s.slackAt key r.tile c, r.tile, r.stream)
  | none => (1, i, 0, 0)
def rankLt (a b : Nat × Nat × Nat × Nat) : Bool :=
  decide (a.1 < b.1) || (decide (a.1 = b.1) && (decide (a.2.1 < b.2.1) || (decide (a.2.1 = b.2.1)
    && (decide (a.2.2.1 < b.2.2.1) || (decide (a.2.2.1 = b.2.2.1) && decide (a.2.2.2 < b.2.2.2))))))

/-- The ordinary choice: the next slot after the last served that waits, and its best request. -/
def State.ordinary (s : State) (key : Nat) (a : Arbiter) : Option ArbReq :=
  let order := (List.range 17).map (fun i => (a.last + 1 + i) % 17)
  match order.find? (fun p => a.reqs.any (fun r => decide (r.slot = p))) with
  | none => none
  | some p =>
    let l := (a.reqs.mapIdx (fun i r => (s.rankOf key i r, r))).filter (fun x => decide (x.2.slot = p))
    l.foldl (fun (b : Option ((Nat × Nat × Nat × Nat) × ArbReq)) x =>
      match b with
      | none => some x
      | some y => if rankLt x.1 y.1 then some x else some y) none |>.map (·.2)

/-- Whether a request waits for a frozen crossing on its way through a resource (R78). A queue engine stands in its fabric. -/
def State.frozenAt (s : State) (key : Nat) (r : ArbReq) : Bool :=
  let x := key % 2 ^ 16
  match key / 2 ^ 16 with
  | 2 => s.frozen (x / 20) (64 + x / 320)
  | 3 => decide (r.tile < 10000) && s.frozen (r.tile / 20) (64 + r.tile / 320)
  | 4 => s.frozen (64 + x / 8192) (68 + x / 4096)
  | 5 => s.frozen (64 + x / 4) (64 + x % 4)
  | _ => false

/-- One grant of a resource (R238 to R241). -/
def State.grantOne (s : State) (key : Nat) : State :=
  let a := s.arb key
  let free := a.reqs.filter (fun r => !s.frozenAt key r && !s.bankBusy ((r.paths.headD []).headD 0))
  match s.ordinary key { a with reqs := free }, free with
  | some o, oldest :: _ =>
    let c := a.count + 1
    let reserved := decide (c % (max 1 s.test.grantPeriod) = 0)
    let r := if reserved then oldest else o
    let s := if reserved ∧ r.slot < 16 then s.updSlot r.slot (fun x => { x with str := { x.str with reserved := x.str.reserved + 1 } }) else s
    let s := if reserved ∧ r ≠ o then s.updTile (s.phys (refOf o.tile)) (fun t => { t with waits := tput t.waits 2 0xD }) else s
    let lostBurst := match a.holder with
      | some (t, i) => if (r.tile, r.stream) = (t, i) then none
                       else (a.reqs.find? (fun q => decide (q.tile = t) && decide (q.stream = i) && decide (0 < q.done))).map ArbReq.slot
      | none => none
    let s := match lostBurst with
      | some p => if p < 16 then s.updSlot p (fun x => { x with str := { x.str with withdrawals := x.str.withdrawals + 1 } }) else s
      | none => s
    let left := r.paths.tail
    let rs := a.reqs.erase r
    let rs := if left = [] then rs else rs ++ [{ r with paths := left, done := r.done + 1 }]
    let s := { s with arbs := tput s.arbs key { last := r.slot, count := c, reqs := rs,
                                                holder := if left = [] then none else some (r.tile, r.stream) } }
    s.ask r.slot r.tile r.stream r.burst (r.paths.headD []).tail
  | _, _ => s

def execArbiterGrant (x : Resource) (s : State) : Res := .next (s.grantOne (resKey x))

/-- Stitched boundaries from one quarter to another, the horizontal one first (R177). -/
def boundaries (q h : Nat) : List Nat :=
  let m := if q % 2 = h % 2 then q else q / 2 * 2 + h % 2
  (if m = q then [] else [resKey (.boundary q m)]) ++ (if m = h then [] else [resKey (.boundary m h)])

/-- Path of a transfer of a tile of quarter q to a unit of a stack. -/
def stackPath (q n u : Nat) : List Nat :=
  resKey (.cachePort q) :: (boundaries q (n / 2) ++ [resKey (.bankQueue n (uPch u) (uBank u))])

/-- Path of a transfer from tile a to tile b (R185, Table 6.7): n words from word wa there to word wb here. -/
def tilePath (a b : TileRef) (wa wb n : Nat) : List Nat :=
  [slotStep a wa n false, resKey (.remotePort a)] ++ boundaries a.q b.q ++ [resKey (.remotePort b), slotStep b wb n true]

/-- Path of a transfer of tile t's stream that reaches no stack (Table 6.7): n words at word w of the tile, and at word fw of the
other tile. -/
def localPath (op : Nat) (t far : TileRef) (w fw n : Nat) : List Nat :=
  if op = 0x32 then tilePath far t fw w n
  else if op = 0x33 then tilePath t far w fw n
  else if op = 0x34 then [slotStep t w n false, resKey (.remotePort t)]
  else [slotStep t w n (decide (op = 0x36))]

/-! ### Words of the stack space of a pennant -/

/-- Stack and unit of a pennant-relative stack byte address. -/
def Slot.unitAt (x : Slot) (a : Nat) : Nat × Nat := physUnit x.granules (a / 256)

/-- Reads the 16-byte word at a pennant-relative stack word number, through the stack's home cache: a line of the pennant's ways
answers; a miss does not allocate (R308, Table 8.7). -/
def State.stackWord (s : State) (p w : Nat) : State × Option Code160 :=
  let (st, u) := (s.slot p).unitAt (16 * w)
  let q := st / 2
  let c := tget s.caches q {}
  match c.line? (s.ways q p) st u (w % 16) with
  | some l =>
    let s := { s with caches := tput s.caches q { c with plru := tput c.plru l.set (treeTouch (tget c.plru l.set 0) l.way) } }
    (s.cacheCount q p (fun k => { k with hits := k.hits + 1 }), l.words[w % 16]?)
  | none => s.stackGet st u (w % 16) p {}

/-- Reads 256-byte unit words through the home cache (R308 to R310): the line where it is present, else filled. -/
def State.readUnit (s : State) (p n u : Nat) : State × Option (List Code160) :=
  let q := n / 2
  let c := tget s.caches q {}
  match c.line? (s.ways q p) n u 0 with
  | some l =>
    let s := { s with caches := tput s.caches q { c with plru := tput c.plru l.set (treeTouch (tget c.plru l.set 0) l.way) } }
    (s.cacheCount q p (fun k => { k with hits := k.hits + 1 }), some l.words)
  | none =>
    let s' := s.requestFill q p n u 0 {}
    match (tget s'.caches q {}).fills.find? (fun f => decide (f.slot = p) && decide (f.stack = n) && decide (f.unit = u) && decide (f.word = 0)) with
    | some f => (s'.cacheFill q p n ⟨u, 0⟩, some f.words)
    | none => (s', none)

/-- Reads the 16-byte word at a pennant-relative stack word number for a source whose misses allocate (Table 8.7). -/
def State.stackWordIn (s : State) (p w : Nat) : State × Option Code160 :=
  let (st, u) := (s.slot p).unitAt (16 * w)
  let r := s.readUnit p st u
  (r.1, r.2.map (fun l => l.getD (w % 16) poison))

/-- Writes words at pennant-relative stack addresses. -/
def State.putWords (s : State) (p : Nat) (l : List (Nat × Code160)) : State :=
  l.foldl (fun s (a, v) =>
    let (st, u) := (s.slot p).unitAt a
    s.stackPut st u (a % 256 / 16) p v 0) s

/-! ### Bunting queues (R229 to R234) -/

def qNum (d : BitVec 192) : Nat := fld d 191 182
def qMiddle (d : BitVec 192) : Nat := fld d 127 115
def qProducer (d : BitVec 192) : Nat := fld d 111 99
def qConsumer (d : BitVec 192) : Nat := fld d 98 86
/-- Words of 32 bytes of a message. -/
def qMsg (d : BitVec 192) : Nat := fld d 78 72 + 1
def qTimeout (d : BitVec 192) : Nat := fld d 63 32
def qCapacity (d : BitVec 192) : Nat := 8192 + 65536 * qMiddle d
/-- Messages of a page. -/
def qPage (d : BitVec 192) : Nat := 128 / qMsg d
/-- Endpoint of a tile (Table 6.6). -/
def endpointOf (t : TileRef) : Nat := t.q * 2 ^ 9 + t.g * 2 ^ 5 + t.t

def Queue.msgs (q : Queue) : Nat := q.head.length + q.middle.sum + q.tail.length
def Queue.bytes (q : Queue) : Nat := 32 * qMsg q.desc * q.msgs

/-- A message of a micro-batch enters the tail: its credit is taken, the timer is armed where the tail was empty. -/
def Queue.push (mb : Nat) (q : Queue) (m : List Code160) : Queue :=
  let q := { q with armed := q.armed || (decide (q.tail = []) && decide (qTimeout q.desc ≠ 0)), tail := q.tail ++ [m],
                    mbs := q.mbs ++ [mb], credit := q.credit - 32 * qMsg q.desc }
  { q with high := max q.high q.bytes }

/-- The oldest message: of the head, or of the tail where head and middle are empty. -/
def Queue.pop (q : Queue) : Option (List Code160 × Queue) :=
  match q.head with
  | m :: r => some (m, { q with head := r, mbs := q.mbs.tail })
  | [] => match q.middle, q.tail with
    | [], m :: r => some (m, { q with tail := r, mbs := q.mbs.tail, armed := q.armed && decide (r ≠ []), short := q.short - 1 })
    | _, _ => none

def State.queue? (s : State) (n : Nat) : Option Queue := tget? s.queues n
def State.putQueue (s : State) (n : Nat) (q : Queue) : State := { s with queues := tput s.queues n q }

/-- Bytes of a queue's middle, and of the pages it holds. -/
def Queue.midSize (q : Queue) : Nat := 65536 * qMiddle q.desc
def Queue.midBytes (q : Queue) : Nat := 32 * qMsg q.desc * q.middle.sum
/-- Pennant-relative stack byte of byte o of the pages, which follow each other round the middle (log 31). -/
def Queue.midAt (q : Queue) (o : Nat) : Nat := fld q.desc 175 128 + (q.start + o) % (max 1 q.midSize)

/-- Whether a page leaves the tail for the head, and else whether the middle has room for it. -/
def Queue.straight (q : Queue) : Bool := decide (q.head = []) && decide (q.middle = [])
def Queue.pageRoom (q : Queue) : Bool :=
  q.straight || decide (q.midBytes + 32 * qMsg q.desc * min (qPage q.desc) q.tail.length ≤ q.midSize)

/-- Messages of the page that leaves the tail next: a full page, or the partial tail that the timer has emitted (R233). -/
def Queue.pageLen (q : Queue) : Nat := if qPage q.desc ≤ q.tail.length then qPage q.desc else q.short

/-- The tail's messages leave as one page: straight to the head, or appended to the middle in the pennant's stack region
(R232); without room in the middle the page stays. -/
def State.tailOut (s : State) (n : Nat) (q : Queue) : State :=
  if !q.pageRoom then s
  else
    let page := q.tail.take q.pageLen; let rest := q.tail.drop q.pageLen
    let r := { q with tail := rest, armed := decide (rest ≠ []) && decide (qTimeout q.desc ≠ 0), short := 0 }
    if q.straight then s.putQueue n { r with head := page }
    else
      let ws := page.flatten
      let s := (s.putWords q.slot (ws.mapIdx (fun i v => (q.midAt (q.midBytes + 16 * i), v)))).work q.slot 6 0 (16 * ws.length)
      s.putQueue n { r with middle := q.middle ++ [page.length], spilled := q.spilled + 1 }

/-- The words at stack word numbers of a pennant, none where its stack cannot be read. -/
def State.stackWords (s : State) (p : Nat) (l : List Nat) : State × Option (List Code160) :=
  l.foldl (fun (r : State × Option (List Code160)) w =>
    match r.2 with
    | none => r
    | some ws => let g := r.1.stackWord p w; (g.1, g.2.map (fun v => ws ++ [v]))) (s, some [])

/-- The oldest page of the middle moves to the head. -/
def State.middleOut (s : State) (n : Nat) (q : Queue) : State :=
  match q.middle with
  | [] => s
  | k :: rest =>
    let words := 2 * qMsg q.desc * k
    let r := s.stackWords q.slot ((List.range words).map (fun i => q.midAt (16 * i) / 16))
    match r.2 with
    | none => r.1
    | some ws => (r.1.work q.slot 5 0 (16 * words)).putQueue n
        { q with head := chunks (2 * qMsg q.desc) (ws.map checkedWord), middle := rest,
                 start := (q.start + 16 * words) % (max 1 q.midSize) }

/-- Neighbouring messages of one micro-batch, joined. -/
def joinRuns (l : List (Nat × List Code160)) : List (Nat × List Code160) :=
  l.foldr (fun m r => match r with
    | h :: t => if h.1 = m.1 then (m.1, m.2 ++ h.2) :: t else m :: h :: t
    | [] => [m]) []

/-- The position of the next stage (port E) or of the previous one (W) of this module's replica (R326). -/
def State.stageAt (s : State) (p k : Nat) : Option Nat :=
  match s.placeEntry p, (s.slot p).image with
  | some e, some im =>
    let want : Int := if k = 0 then peStage e + 1 else (peStage e : Int) - 1
    (im.places.find? (fun f => decide ((peStage f : Int) = want) && decide (peReplica f = peReplica e))).map pePos
  | _, _ => none

/-- A queue whose consumer is VC 0 of E or W sends its head as packets of up to 64 units of one micro-batch each to the module of
the neighbouring stage of its replica, a short page marked so; the credit of what left returns (R233, R252, R326, R406). Where
the link leads to another module, or the replica has no such stage, nothing leaves. -/
def State.linkFeed (s : State) (n : Nat) : State :=
  match s.queue? n with
  | none => s
  | some q =>
    let c := qConsumer q.desc
    let k := c / 2 ^ 8 % 8
    if c / 2 ^ 12 = 0 ∨ q.head = [] ∨ s.stageAt q.slot k ≠ some (s.port k).peerPos then s
    else
      let short := decide (q.head.length < qPage q.desc)
      let tenant := (s.slot q.slot).tenant
      let runs := joinRuns (q.head.mapIdx (fun i m => (q.mbs.getD i 0xFFFF, m)))
      let s := s.putQueue n { q with head := [], mbs := q.mbs.drop q.head.length, credit := q.credit + 32 * qMsg q.desc * q.head.length }
      runs.foldl (fun s run =>
        let cs := chunks 64 (unitsOf run.2)
        let bad := badOf run.2
        (cs.mapIdx (fun i c => (i, c))).foldl (fun s (i, c) =>
          let last := decide (i + 1 = cs.length) || decide ((i + 1) * 64 % qMsg q.desc = 0)
          let h := mkHdr s 1 0 last false s.ring.ring (s.port k).peerPos c.length tenant run.1 n 0
          s.sendPk k (putFld h 242 242 (b2n short)) c (badPart i bad)) (s.portPoison k run.2)) s

/-- The units of a QUEUE_DATA packet enter its queue where the producer's credit covers them (R409): whole messages join
the tail, the words of an unfinished one wait for the packet that brings its rest. -/
def State.queueIn (s : State) (n : Nat) (pk : Packet) : Option State :=
  match s.queue? n with
  | none => none
  | some q =>
    let words := 2 * qMsg q.desc
    let ws := q.part ++ pkWords pk
    let k := ws.length / words
    if q.credit < 16 * ws.length ∨ qPage q.desc < q.tail.length + k then none
    else
      let q := { (chunks words (ws.take (k * words))).foldl (Queue.push (fld pk.hdr 166 151)) q with part := ws.drop (k * words) }
      some ((s.putQueue n q).gotUnits q.slot pk.units.length)

/-! ### The ingest stream of port F (R426 to R429) -/

def cadence (d : BitVec 256) : Nat := fld d 255 224
def frameBytes (d : BitVec 256) : Nat := fld d 223 192
def clipFrames (d : BitVec 256) : Nat := fld d 191 176
def firstClip (d : BitVec 256) : Nat := fld d 175 144

/-- The ingest queue of a slot: producer endpoint F with VC 5 (R427). -/
def State.ingestQueue (s : State) (p : Nat) : List Nat :=
  (s.queues.filter (fun (_, q) => decide (q.slot = p) && decide (qProducer q.desc = 2 ^ 12 + 5 * 2 ^ 8 + 5 * 2 ^ 5))).map (·.1)

/-- Header fields of a FRAME packet (Table 11.4). -/
def fClip (p : Packet) : Nat := fld p.hdr 110 79
def fFrame (p : Packet) : Nat := fld p.hdr 78 47
def fWord (p : Packet) : Nat := fld p.hdr 46 15

/-- The clip under way is complete or gone: a waiting declaration takes effect, and the next clip is expected. -/
def Ingest.boundary (x : Ingest) (next : Nat) : Ingest :=
  let x := { x with clip := next % 2 ^ 32, frame := 0, word := 0, words := [] }
  match x.next with
  | some d => { x with declared := some d, next := none, clip := firstClip d }
  | none => x

/-- A clip is discarded with its uncommitted pages (R428). -/
def State.dropClip (s : State) (p clip : Nat) : State :=
  let s := s.logSlot p { code := 0x510B, siteKind := .port, site := siteNum 5, detail0 := clip }
  s.updSlot p (fun y => { y with ingest := { y.ingest.boundary (clip + 1) with discarded := y.ingest.discarded + 1 } })

/-- A clip commits whole: its messages enter the queue, page after page, and the module at the feeder notes the clip of
micro-batch 0 (R428, R466). The clip's words lie in the queue from their arrival, so that its tail may pass a page here. -/
def State.commitClip (s : State) (p n : Nat) (q : Queue) : State :=
  let x := s.slot p
  let s := (chunks (2 * qMsg q.desc) x.ingest.words).foldl (fun (s : State) m =>
    let s := match s.queue? n with
      | some q => if qPage q.desc ≤ q.tail.length then (s.tailOut n q).linkFeed n else s
      | none => s
    match s.queue? n with
    | some q => s.putQueue n (q.push 0xFFFF m)
    | none => s) s
  let sd := (x.image.map Image.stash).getD 0
  let per := fld sd 39 24 * fld sd 55 40
  s.updSlot p (fun y =>
    let k := y.seq.clips
    { y with
      seq := { y.seq with clips := k + 1,
                          clipNo := if per ≠ 0 ∧ k % per = 0 then y.seq.clipNo ++ [(y.seq.start + k / per, y.ingest.clip)] else y.seq.clipNo },
      ingest := { y.ingest.boundary (y.ingest.clip + 1) with committed := y.ingest.committed + 1 } })

/-- A FRAME packet of slot p reaches its queue: in order its words are added to the clip, which commits with its last word;
out of order it discards its clip. None: the queue has no room yet, and the packet waits (R408). -/
def State.frameIn (s : State) (p : Nat) (pk : Packet) : Option State :=
  let g := (s.slot p).ingest
  match g.declared, s.ingestQueue p with
  | some d, n :: _ =>
    match s.queue? n with
    | none => some s
    | some q =>
      let ahead := (fClip pk + 2 ^ 32 - g.clip) % 2 ^ 32
      if 2 ^ 31 ≤ ahead then some s
      else if ahead ≠ 0 then
        some ((if g.words = [] then s else s.dropClip p g.clip).dropClip p (fClip pk))
      else if fFrame pk ≠ g.frame ∨ fWord pk ≠ g.word ∨ frameBytes d / 32 < g.word + pk.units.length then some (s.dropClip p g.clip)
      else if q.credit < 16 * g.words.length + 32 * pk.units.length then none
      else
        let s := s.gotUnits p pk.units.length
        let w := g.word + pk.units.length
        let full := decide (w = frameBytes d / 32)
        let s := s.updSlot p (fun y => { y with
          ingest := { y.ingest with words := y.ingest.words ++ pkWords pk, word := if full then 0 else w,
                                    frame := if full then y.ingest.frame + 1 else y.ingest.frame } })
        some (if full ∧ g.frame + 1 = clipFrames d then s.commitClip p n q else s)
  | _, _ => some s

/-- Packets held in the receive buffers for queue n leave in order while the queue's credit covers them (R409, R411). -/
def State.release409 (s : State) (n : Nat) : State :=
  let take := fun (r : State × Bool) (k : Nat) (pk : Packet) =>
    let mine := if k = 5 then (match r.1.slotOfTenant (fld pk.hdr 190 167) with | some p => decide (n ∈ r.1.ingestQueue p) | none => false)
                else decide (fld pk.hdr 150 141 = n)
    if !mine || r.2 then r
    else
      match (if k = 5 then (r.1.slotOfTenant (fld pk.hdr 190 167)).bind (fun p => r.1.frameIn p pk) else r.1.queueIn n pk) with
      | some s' => ((s'.updPort k (fun x => { x with heldRx := x.heldRx.erase pk })).freeRx k (fld pk.hdr 247 245) (pkUnits pk), false)
      | none => (r.1, true)
  (List.range 6).foldl (fun s k => ((s.port k).heldRx.foldl (fun r pk => take r k pk) (s, false)).1) s

/-- Whether a page move is due (R232): tail to head or middle with a full page or an emitted partial tail, or middle to an empty
head. -/
def Queue.moveDue (q : Queue) (d : PageDir) : Bool :=
  match d with
  | .tailToHead => decide (0 < q.pageLen) && q.straight
  | .tailToMiddle => decide (0 < q.pageLen) && !q.straight && q.pageRoom
  | .middleToHead => decide (q.head = []) && decide (q.middle ≠ [])

/-- Assigns a DMA tag of quarter q for a transfer to a bank, or says which limit it meets (R222, R223). -/
def State.takeTag (s : State) (q slot n u : Nat) (deep : Bool) : Except Nat State :=
  let p := tget s.pools q {}
  let b := n * 4096 + bankOf u
  if 4096 ≤ p.inUse ∨ (deep ∧ 2048 ≤ p.deepUse) then .error 7
  else if 1024 ≤ tget p.banks b 0 then .error 5
  else
    let p := { p with inUse := p.inUse + 1, deepUse := p.deepUse + b2n deep, peak := max p.peak (p.inUse + 1), banks := tadd p.banks b 1,
                      atCap := p.atCap + (if tget p.banks b 0 + 1 = 1024 then 1 else 0) }
    let s := { s with pools := tput s.pools q p }
    .ok (s.updStack n (fun x => { x with banks := tput x.banks (bankOf u) { x.bank (bankOf u) with tags := (x.bank (bankOf u)).tags + 1 },
                                         slotTags := tadd x.slotTags slot 1 }))

/-- A tag returns: the counts fall, and a proposed bank gates once its count is zero (R305). -/
def State.giveTag (s : State) (q slot n u : Nat) (deep : Bool) : State :=
  let p := tget s.pools q {}
  let s := { s with pools := tput s.pools q { p with inUse := p.inUse - 1, deepUse := p.deepUse - b2n deep,
                                                     banks := tsub p.banks (n * 4096 + bankOf u) 1 } }
  s.updStack n (fun x =>
    let b := x.bank (bankOf u)
    let b := { b with tags := b.tags - 1 }
    { x with banks := tput x.banks (bankOf u) (if b.tags = 0 ∧ b.proposed then x.gated (bankOf u) b else b), slotTags := tsub x.slotTags slot 1 })

/-- A transfer has found a limit: it is counted in the quarter's tag counters (R223, Table 6.9). -/
def State.tagWait (s : State) (q k : Nat) : State :=
  let p := tget s.pools q {}
  { s with pools := tput s.pools q (if k = 7 then { p with poolWaits := p.poolWaits + 1 } else { p with bankWaits := p.bankWaits + 1 }) }

/-- The units a page move writes or reads in the middle. -/
def Queue.pageUnits (x : Slot) (q : Queue) (d : PageDir) : List (Nat × Nat) :=
  let range := fun (o n : Nat) => ((List.range (n / 16)).map (fun i => x.unitAt (q.midAt (o + 16 * i)))).dedup
  match d with
  | .tailToHead => []
  | .tailToMiddle => range q.midBytes (32 * qMsg q.desc * q.pageLen)
  | .middleToHead => range 0 (32 * qMsg q.desc * q.middle.headD 0)

/-- A page move asks its queue engine, engine n mod 4 of the queue's home quarter (log 31). -/
def State.pageAsk (s : State) (n : Nat) (q : Queue) (d : PageDir) : State :=
  let q := { q with move := some d, engine := false, granted := 0, flying := [], counted := false, todo := q.pageUnits (s.slot q.slot) d }
  (s.putQueue n q).ask q.slot (queueTile n) 0 1 [resKey (.queueEngine (n / 256) (n % 4))]

/-- Tags that a queue engine holds. -/
def State.engineTags (s : State) (n : Nat) : Nat :=
  ((s.queues.filter (fun x => decide (x.1 / 256 = n / 256) && decide (x.1 % 4 = n % 4))).map (fun x => x.2.flying.length)).sum

/-- A page move's transfers take their tags and ask for their paths while the engine has fewer than 256, and the quarter and the
bank have tags (Table 6.3); a wait is counted once. -/
def State.pageTags (fuel : Nat) (s : State) (n : Nat) : State :=
  match fuel, s.queue? n with
  | k + 1, some q =>
    match q.todo with
    | [] => s
    | (st, u) :: rest =>
      let wait := fun (w : Nat) => if q.counted then s else (s.tagWait (n / 256) w).putQueue n { q with counted := true }
      if 256 ≤ s.engineTags n then wait 7
      else match s.takeTag (n / 256) q.slot st u false with
        | .error w => wait w
        | .ok s =>
          let s := s.putQueue n { q with flying := q.flying ++ [(st, u)], todo := rest, counted := false }
          State.pageTags k (s.ask q.slot (queueTile n) 0 16 (stackPath (n / 256) st u)) n
  | _, _ => s

/-- PAGE_MOVE (R232, R237): a due move asks its queue engine; granted, its transfers take tags and their paths; once all have
been granted the page moves. What it lets in or out of the queue follows: packets held for it, and packets of a head whose
consumer is a link. -/
def State.pageMove (s : State) (qq n : Nat) (d : PageDir) : State :=
  match s.queue? n with
  | none => s
  | some q =>
    if n / 256 ≠ qq then s
    else match q.move with
      | none => if q.moveDue d then s.pageAsk n q d else s
      | some m =>
        if m ≠ d ∨ ¬ q.engine then s
        else if q.todo ≠ [] then s.pageTags 513 n
        else if q.granted < q.flying.length then s
        else
          let s := q.flying.foldl (fun s e => s.giveTag qq q.slot e.1 e.2 false) s
          let q := { q with move := none, engine := false, flying := [], granted := 0 }
          if !q.moveDue d then s.putQueue n q
          else ((match d with
            | .middleToHead => s.middleOut n q
            | _ => s.tailOut n q).linkFeed n).release409 n

def execPageMove (q n : Nat) (d : PageDir) (s : State) : Res := .next (s.pageMove q n d)

/-- TAIL_TIMEOUT (R233): the partial tail forms a short page, which is counted and moves as if full. -/
def State.tailTimeout (s : State) (qq n : Nat) : State :=
  match s.queue? n with
  | none => s
  | some q =>
    if n / 256 ≠ qq ∨ ¬ q.armed ∨ q.tail = [] then s
    else (s.putQueue n { q with partials := q.partials + 1, short := q.tail.length, armed := false }).updSlot q.slot
      (fun x => { x with str := { x.str with partials := x.str.partials + 1 } })

def execTailTimeout (q n : Nat) (s : State) : Res := .next (s.tailTimeout q n)

/-! ### Descriptor checks (R211, R230) -/

/-- The conversion control word a stream names. -/
def convWord (t : Tile) (d : BitVec 256) : Except OpErr Word64 := do
  let r ← t.region (sConv d) false
  let c ← readCode t.mem r.handle (2 * r.base)
  let w := BitVec.ofNat 64 c
  if convOk w then pure w else .error (.fault 0x6112)

/-- The load check of a conversion handle (R211): VALID, kind and direction, and a word of its region; the control word itself
is read when the stream issues (R110). -/
def convHandleCode (t : Tile) (d : BitVec 256) : Nat :=
  match t.region (sConv d) false with
  | .error (.fault c) => c
  | .error _ => 0
  | .ok r => if r.len = 0 then 0x6133 else 0

/-- The end of the stack space a program may address: below the Bortis regions of a module with no cartridge (R296, R489). -/
def Slot.stackTop (x : Slot) : Nat := x.granules.length * 48 * 2 ^ 30 - 4 * (bBortis x.burgee * unit64)

/-- The checks on a stream descriptor, first failure first; `top`: the end of the stack space, `qs`: the declared queues. -/
def streamCheck (t : Tile) (ref : TileRef) (top slot : Nat) (qs : Tbl Queue) (op : Nat) (d : BitVec 256) : Except OpErr Unit := do
  if sOp d ≠ op then .error (.fault 0x6140) else
  let remote := decide (0x32 ≤ op) && decide (op ≤ 0x34)
  let stack := decide (op = 0x30) || decide (op = 0x31)
  let queue := decide (op = 0x35) || decide (op = 0x36)
  if sLen d % 32 ≠ 0 ∨ sLen d = 0 ∨ (stack ∧ sAddr d % 32 ≠ 0) ∨ (sLease d ∧ (op ≠ 0x30 ∨ sRelease d = 0)) ∨ sSections d = 4
      ∨ fld d 214 208 ≠ 0 ∨ fld d 43 32 ≠ 0 ∨ fld d 15 8 ≠ 0 ∨ (¬ remote ∧ sRemote d ≠ 0)
      ∨ (¬ stack ∧ ¬ queue ∧ sAddr d ≠ 0) ∨ (queue ∧ 1024 ≤ sAddr d) then .error (.fault 0x6141) else
  let l ← t.region (sLocal d) (sInbound d)
  if 32 * l.len % (32 * sSections d) ≠ 0 then .error (.fault 0x6141) else
  if stack ∧ top < sAddr d + sLen d then .error (.fault 0x6142) else
  let h := t.handle (sRemote d)
  if remote ∧ ¬ hValid h then .error (.fault 0x6132) else
  if remote ∧ (hKind h ≠ (if op = 0x34 then 2 else 1) ∨ (if op = 0x32 then ¬ hRd h else ¬ hWr h)) then .error (.fault 0x6134) else
  if remote ∧ hLen h < sLen d / 32 then .error (.fault 0x6133) else
  let _ ← (if queue then match tget? qs (sAddr d) with
    | none => .error (.fault 0x6143)
    | some q =>
      if q.slot ≠ slot ∨ (if op = 0x35 then qProducer q.desc else qConsumer q.desc) ≠ endpointOf ref then .error (.fault 0x6143)
      else if sLen d % (32 * qMsg q.desc) ≠ 0 then .error (.fault 0x6141) else pure ()
    else pure ())
  if sConvert d then do let _ ← convWord t d; pure () else pure ()

/-! ### Issue (R210, R222 to R225) -/

/-- Bytes of the transfer at offset o: what lies in one aligned 256-byte unit of the source, in one section of the buffer (log 31)
and within the range (R212). -/
def Stream.chunk (t : Tile) (x : Stream) (o : Nat) : Nat :=
  let d := x.desc
  let b := max 1 (x.secBytes t)
  let src := if sOp d = 0x30 then x.addr + o else if sOp d = 0x32 then 32 * hBase (t.handle (sRemote d)) + o
             else if sOp d = 0x36 then 0 else 32 * hBase (t.handle (sLocal d)) + o % max 1 (x.bufBytes t)
  let n := min (sLen d - o) (256 - src % 256)
  if sInbound d && x.conv.isSome then n else min n (b - o % b)

/-- Bytes of a stream's transfer at offset o: a pop's carries no more than one message. -/
def State.chunkOf (s : State) (t : Tile) (x : Stream) (o : Nat) : Nat :=
  let n := x.chunk t o
  match sOp x.desc, s.queue? (sAddr x.desc) with
  | 0x36, some q => min n (32 * qMsg q.desc)
  | _, _ => n

/-- Whether a transfer at offset o may run: its section is free to fill, or has been passed for draining (R213). -/
def Stream.room (t : Tile) (x : Stream) (o : Nat) : Bool :=
  let b := x.secBytes t
  decide (0 < b) && decide (o < sLen x.desc)
    && (if sInbound x.desc then decide (x.loc o / b < x.passed + sSections x.desc) else decide (o / b < x.passed))

/-- Where the byte at an offset of a stack stream lies: a stack address, the scratchpad stash slot that holds the
stash of its block and micro-batch, or nowhere, where a fallback stashes nothing (R257, R260). -/
inductive Place where
  | stack (a : Nat)
  | slot (k : Nat)
  | nowhere
  deriving DecidableEq, Repr, Inhabited

/-- Whether an address lies within the stash of a block as its op lists address it (log 8). -/
def Slot.inStash (x : Slot) (b a : Nat) : Bool :=
  match x.block? b with
  | none => false
  | some bd =>
    let lo := sdRegion x.stashDesc * unit64
    decide (lo ≤ a) && decide (a < lo + bdStash bd * unit64)
/-- First byte of the fallback reserve. -/
def Slot.reserveAt (x : Slot) : Nat := (sdRegion x.stashDesc + sdSize x.stashDesc - sdReserve x.stashDesc) * unit64

/-- Whether a stream of a tile brings a pass an input: a queue's, the stash it hoists, or a region of a tile outside its block's
groups (R255). -/
def Slot.inputStream (x : Slot) (d : BitVec 256) (t : Tile) : Bool :=
  match sOp d with
  | 0x36 => true
  | 0x30 => x.inStash (sBlock d) (sAddr d)
  | 0x32 =>
    let r := hTile (t.handle (sRemote d))
    match x.block? (sBlock d) with
    | some bd => !bit bd (groupNum r.q r.g)
    | none => false
  | _ => false

/-- The place of offset o of a stream's stack range. -/
def State.place (s : State) (x : Stream) (o : Nat) : Place :=
  let sl := s.slot x.slot
  let a := x.addr + o
  match s.pass? x.pass with
  | none => .stack a
  | some p =>
    if sl.inStash (sBlock x.desc) a then
      let r := a - sdRegion sl.stashDesc * unit64
      match sl.seq.stash.find? (fun e => decide (e.block = sBlock x.desc) && decide (e.mb = p.mb) && decide (e.step = p.step)) with
      | none => if p.reserve ∧ sBlock x.desc = p.block then .stack (sl.reserveAt + r) else .nowhere
      | some e => match e.slot with
        | some k => .slot k
        | none => .stack ((sdRegion sl.stashDesc + e.pages.getD (r / unit64) 0) * unit64 + r % unit64)
    else .stack a

/-- Code word of slot k of a tile's stash area that holds offset o of a stream's range: the bytes of the stash follow each other
round the slot (R257). -/
def State.slotWord (s : State) (t : Tile) (x : Stream) (k o : Nat) : Nat :=
  let sl := s.slot x.slot
  match sl.block? (sBlock x.desc) with
  | none => 0
  | some bd =>
    let h := t.handle (bdHandle bd)
    let size := hLen h / max 1 (bdSlots bd)
    2 * (hBase h + k * size) + (x.addr + o - sdRegion sl.stashDesc * unit64) % max 1 (32 * size) / 16

/-- Records what a forward pass stashes, and what a backward pass writes to a gather slot (R454). -/
def State.stashRec (s : State) (t : TileRef) (x : Stream) (ws : List Code160) : State :=
  match s.pass? x.pass with
  | none => s
  | some p =>
    let sl := s.slot x.slot
    let a := x.addr
    let g := sdGather sl.stashDesc * unit64
    let rec_ := if p.kind = .forward then sl.inStash (sBlock x.desc) a && decide (sBlock x.desc = p.block)
                else decide (g ≤ a) && decide (a < g + sdGatherSize sl.stashDesc * unit64)
    if rec_ then
      let k := 256 * trNum t + sIndex x.desc
      s.updPass x.pass (fun p => { p with stashed := tput p.stashed k (tget p.stashed k [] ++ ws) })
    else s

/-- Whether a tile's stream unit is in deep mode (R224): by the maintainer's setting, or while it carries the reload of a rejoin
or the restore of an import, which the unit of T00 of each of the slot's groups does (log 18). -/
def State.deepUnit (s : State) (p : Nat) (t : TileRef) : Bool :=
  s.test.deepTest || (decide (t.t = 0) && (decide ((s.slot p).mirror.rj = .copies) || (s.slot p).imp.isSome))

/-- Word of a tile's scratchpad where offset o of a stream's range lies. -/
def Stream.word (t : Tile) (x : Stream) (o : Nat) : Nat := hBase (t.handle (sLocal x.desc)) + x.loc o % max 1 (x.bufBytes t) / 32

/-- The transfer of c bytes at offset o takes its tag, where it reaches a stack, and asks for its path; else the limit it meets
(R222, R223). -/
def State.issueAt (s : State) (t : TileRef) (x : Stream) (o c : Nat) : Except Nat State :=
  let n := s.phys t
  let tl := s.tile n
  let op := sOp x.desc
  let w := x.word tl o; let k := (c + 31) / 32
  let slots := slotStep t w k (sInbound x.desc)
  if op = 0x30 ∨ op = 0x31 then
    match s.place x (x.formed o) with
    | .stack a =>
      let deep := s.deepUnit x.slot t
      if (if deep then 512 else 8) ≤ (tl.streams.map Stream.tags).sum then .error 7
      else
        let (st, u) := (s.slot x.slot).unitAt a
        match s.takeTag t.q x.slot st u deep with
        | .error w => .error w
        | .ok s =>
          let path := if op = 0x30 then stackPath t.q st u ++ [slots] else slots :: stackPath t.q st u
          .ok ((s.updStream n x.id (fun y => { y with tags := y.tags + 1, deepTags := y.deepTags + b2n deep })).ask x.slot (trNum t) x.id
            (sBurst x.desc) path)
    | _ => .ok (s.ask x.slot (trNum t) x.id (sBurst x.desc) [slots])
  else
    let h := tl.handle (sRemote x.desc)
    let fw := hBase ((s.tile (s.phys (hTile h))).handle (hTarget h)) + hBase h + o / 32
    .ok (s.ask x.slot (trNum t) x.id (sBurst x.desc) (localPath op t (hTile h) w fw k))

def State.streamWait (s : State) (t : TileRef) (k : Nat) : State :=
  s.updTile (s.phys t) (fun y => { y with waits := tput y.waits 2 k })

/-- Issues a stream's next transfers while its sections have room and its limits allow. A transfer that finds its bank at its
limit waits there and lets later ones pass; at another limit the stream waits. Either wait is counted once (R223). -/
def State.issueMore (fuel : Nat) (s : State) (t : TileRef) (id : Nat) : State :=
  match fuel with
  | 0 => s
  | k + 1 =>
    let n := s.phys t
    let tl := s.tile n
    match tl.stream? id with
    | none => s
    | some x =>
      if x.held ∨ ¬ x.room tl x.sent then s
      else
        let c := s.chunkOf tl x x.sent
        match s.issueAt t x x.sent c with
        | .ok s => State.issueMore k (s.updStream n id (fun y => { y with sent := y.sent + c, stuck := false })) t id
        | .error w =>
          if w = 5 then
            State.issueMore k (((s.tagWait t.q 5).updStream n id (fun y =>
              { y with sent := y.sent + c, skipped := y.skipped ++ [(x.sent, c)] })).streamWait t 5) t id
          else ((if x.stuck then s else s.tagWait t.q w).updStream n id (fun y => { y with stuck := true })).streamWait t w

/-- Transfers of a stream that waited at their banks take their tags where they can. -/
def State.issueSkipped (s : State) (t : TileRef) (id : Nat) : State :=
  let n := s.phys t
  match (s.tile n).stream? id with
  | none => s
  | some x =>
    x.skipped.foldl (fun s e =>
      match (s.tile n).stream? id with
      | none => s
      | some y => match s.issueAt t y e.1 e.2 with
        | .ok s => s.updStream n id (fun z => { z with skipped := z.skipped.erase e })
        | .error _ => s) s

/-- A tag of quarter q has returned: transfers of its stream units and of its queue engines that waited go on (R223). -/
def State.wakeStreams (s : State) (q : Nat) : State :=
  let s := s.tiles.foldl (fun s (n, t) =>
    if n / 320 = q then t.streams.foldl (fun s x =>
      if x.skipped = [] ∧ ¬ x.stuck then s else State.issueMore 512 (s.issueSkipped (s.logTile n) x.id) (s.logTile n) x.id) s
    else s) s
  s.queues.foldl (fun s (n, x) => if n / 256 = q ∧ x.counted then State.pageTags 513 s n else s) s

/-- Units of a stream's source range, in order, as stack and unit. -/
def Slot.rangeUnits (x : Slot) (a n : Nat) : List (Nat × Nat) :=
  (List.range ((a + n + 255) / 256 - a / 256)).map (fun i => physUnit x.granules (a / 256 + i))

/-- Takes the lease entries of a range at every stack it touches; none where a die has no free entry (R225). -/
def State.takeLease (s : State) (tile id slot a n : Nat) : Option State :=
  let us := (s.slot slot).rangeUnits a n
  let dies := (us.map (·.1)).dedup
  if dies.any (fun k => decide (8192 ≤ (s.stack k).leases.length)) then none
  else some (dies.foldl (fun s k => s.updStack k (fun x =>
    { x with leases := x.leases ++ [{ tile := tile, stream := id, units := (us.filter (fun u => decide (u.1 = k))).map (·.2) }] })) s)

/-- Whether a stack range lies in the working set of a pass's block: the stash and tie-gather regions, and what the pass's op
lists hoist (R154). -/
def Slot.workingSet (x : Slot) (p : Pass) (a n : Nat) : Bool :=
  let within := fun (lo size : Nat) => decide (lo ≤ a) && decide (a + n ≤ lo + size)
  within (sdRegion x.stashDesc * unit64) (sdSize x.stashDesc * unit64) || within (sdGather x.stashDesc * unit64) (sdGatherSize x.stashDesc * unit64)
    || (x.passParts p).any (fun e => e.ops.any (fun o => match o with
        | .stream d => decide (sOp d = 0x30) && within (sAddr d) (sLen d)
        | _ => false))

/-- Outputs that wait for their pass's release (R154, R235, R264): pushes to a queue, to the tier link, to a window, writes to a
tile outside the block's groups, and spills outside its working set. -/
def State.heldOut (s : State) (p : Pass) (t : Tile) (d : BitVec 256) : Bool :=
  if sOp d = 0x34 ∨ sOp d = 0x35 ∨ sOp d = 0x37 then true
  else if sOp d = 0x33 then
    let r := hTile (t.handle (sRemote d))
    match (s.slot p.slot).block? p.block with
    | some b => !bit b (groupNum r.q r.g)
    | none => false
  else decide (sOp d = 0x31) && !(s.slot p.slot).workingSet p (sAddr d) (sLen d)

/-- DRAIN_RATE = ceil(1,024 · B · f / (10^9 · p_c)), f in mHz and p_c in 1/65,536 ticks per ns. -/
def ingestRate (d : BitVec 256) (rate : Nat) : Nat :=
  let num := 1024 * frameBytes d * cadence d * 65536
  let den := 10 ^ 12 * rate
  (num + den - 1) / den

/-- The rate a stream starts with: of the ingest queue the block sequencer's, none before a declaration, else the descriptor's
(R219). -/
def State.startRate (s : State) (t : TileRef) (slot : Nat) (d : BitVec 256) : Nat :=
  if sOp d = 0x36 ∧ sAddr d ∈ s.ingestQueue slot then
    match (s.slot slot).ingest.declared with
    | some f => let r := s.rate (groupNum t.q t.g); if r = 0 then 0 else ingestRate f r
    | none => 0
  else sDrain d

/-- The tensor header that names a tile's handle as one of its readers (R103). -/
def Slot.header? (x : Slot) (t : TileRef) (n : Nat) : Option TensorHdr :=
  x.image.bind (fun im => im.tensors.find? (fun h => h.readers.any (fun r => decide (r.1 = t) && decide (r.2.1 = n))))

/-- Row length of the tensor a stream moves: of the tensor header that names its local handle, else one row of the buffer (DESIGN
CHOICE, log 31). -/
def State.rowLenOf (s : State) (t : TileRef) (slot : Nat) (d : BitVec 256) (fmt : Nat) : Nat :=
  match (s.slot slot).header? t (sLocal d) with
  | some h => max 1 h.cols
  | none =>
    let e := (s.tile (s.phys t)).handle (sLocal d)
    max 1 (if hTiled e then 8 * hPitch e else 256 * hPitch e / fmtBits fmt)

/-- Logical index of the first element of a stream: from the first of the working copy that the stack address lies in, else 0
(DESIGN CHOICE, log 31: Table 6.1 has no field for it). -/
def Slot.baseOf (x : Slot) (a fmt : Nat) : Nat :=
  let at_ := fun (w : BitVec 128) (c : Nat) => decide (c * unit64 ≤ a) && decide (a < (c + wsSize w) * unit64)
  match x.wsets.find? (fun w => at_ w (wsCopy w) || (wsOverlap w && at_ w (wsShadow w))) with
  | some w => 8 * (a - (if at_ w (wsCopy w) then wsCopy w else wsShadow w) * unit64) / fmtBits fmt
  | none => 0

/-- A stream as it starts: its control word is read (R110), its rate, its version's address and its outputs' hold are set. -/
def State.newStream (s : State) (c : OpCtx) (p : Pass) (d : BitVec 256) : Except OpErr Stream :=
  let t := s.tile (s.phys c.tile)
  let sl := s.slot p.slot
  let a := if sOp d = 0x30 then sl.versionAt p.step (sAddr d) else sAddr d
  let x : Stream := { id := sId d, desc := d, pass := p.id, slot := p.slot, step := p.step, mb := p.mb, drain := s.startRate c.tile p.slot d,
                      leased := sLease d, held := s.heldOut p t d, src := if a = sAddr d then none else some a }
  if !sConvert d then .ok x
  else match convWord t d with
    | .error e => .error e
    | .ok w =>
      let f := if sInbound d then fld w 11 8 else fld w 15 12
      let x := { x with conv := some w, rowLen := s.rowLenOf c.tile p.slot d (if sInbound d then fld w 15 12 else fld w 11 8),
                        base := if sOp d = 0x30 ∨ sOp d = 0x31 then sl.baseOf a f else 0 }
      if sOp d = 0x31 ∧ sl.stackTop < a + x.total then .error (.fault 0x6142) else .ok x

/-- Whether a stream's buffer must wait for an earlier stream's: one of them fills it while the other still uses it (R135). -/
def Tile.clash (t : Tile) (earlier x : Stream) : Bool :=
  let h := t.handle (sLocal earlier.desc); let k := t.handle (sLocal x.desc)
  overlap (hBase h, hLen h) (hBase k, hLen k) && (sInbound x.desc || (sInbound earlier.desc && decide (earlier.done < sLen earlier.desc)))

/-- Whether an issued stream finds a place: at most 32 active, its identifier free, no earlier stream on its buffer. -/
def Tile.mayStart (t : Tile) (earlier : List Stream) (x : Stream) : Bool :=
  decide (t.streams.length < 32) && !(t.streams ++ earlier).any (fun y => decide (y.id = x.id) || t.clash y x)

/-- A stream becomes active. -/
def State.startStream (s : State) (t : TileRef) (x : Stream) : State :=
  let s := s.updTile (s.phys t) (fun y => { y with streams := y.streams ++ [x], waits := tdel y.waits 2 })
  State.issueMore 512 s t x.id

/-- Starts a stream with its lease; none: no logic die has an entry free, and it waits under credit wait (R225). -/
def State.tryStart (s : State) (t : TileRef) (x : Stream) : Option State :=
  if x.leased then (s.takeLease (trNum t) x.id x.slot x.addr (sLen x.desc)).map (fun s => s.startStream t x) else some (s.startStream t x)

/-- Issued streams that wait on a tile start, in their order, as they find a place; those of a pass that is gone or abandoned are
dropped (R210, R225). -/
def State.startQueued (s : State) (t : TileRef) : State :=
  let n := s.phys t
  let keep := fun (s : State) (e : OpCtx × BitVec 256) => s.updTile n (fun y => { y with queued := y.queued ++ [e] })
  let l := (s.tile n).queued
  l.foldl (fun s (c, d) =>
    match s.pass? c.pass with
    | none => s
    | some p =>
      if p.abandoned then s
      else match s.newStream c p d with
        | .error (.wait _) => keep s (c, d)
        | .error e => s.finishOp c p 2 (sBlock d) (.error e)
        | .ok x =>
          let y := s.tile n
          let earlier := y.issued.drop y.streams.length
          if !y.mayStart earlier x then keep s (c, d)
          else match s.tryStart t x with
            | some s => s
            | none => (keep s (c, d)).streamWait t 7) (if l = [] then s else s.updTile n (fun y => { y with queued := [] }))

/-- Issues a stream: its checks, then a place, or a wait for one in the tile's sequencer. A pass that runs again finds the inputs
it holds (R255). -/
def State.issueStream (s : State) (c : OpCtx) (op : Nat) (d : BitVec 256) : State :=
  match s.opPass c with
  | none => s
  | some p =>
    let n := s.phys c.tile
    let t := s.tile n
    let sl := s.slot p.slot
    match streamCheck t c.tile sl.stackTop p.slot s.queues op d with
    | .error e => s.finishOp c p 2 (sBlock d) (.error e)
    | .ok _ =>
      if t.streams.any (fun x => decide (x.pass = p.id) && decide (x.desc = d) && sl.inputStream d t) then s.ranOp p c.tile (.stream d)
      else
        match s.newStream c p d with
        | .error e => s.finishOp c p 2 (sBlock d) (.error e)
        | .ok _ =>
          let s := s.updTile n (fun t => { t with queued := t.queued ++ [(c, d)] })
          (s.startQueued c.tile).ranOp p c.tile (.stream d)

def execHoist (c : OpCtx) (d : BitVec 256) (s : State) : Res := .next (s.issueStream c 0x30 d)
def execSpill (c : OpCtx) (d : BitVec 256) (s : State) : Res := .next (s.issueStream c 0x31 d)
def execTileRead (c : OpCtx) (d : BitVec 256) (s : State) : Res := .next (s.issueStream c 0x32 d)
def execTileWrite (c : OpCtx) (d : BitVec 256) (s : State) : Res := .next (s.issueStream c 0x33 d)
def execWindowWrite (c : OpCtx) (d : BitVec 256) (s : State) : Res := .next (s.issueStream c 0x34 d)
def execQueuePush (c : OpCtx) (d : BitVec 256) (s : State) : Res := .next (s.issueStream c 0x35 d)
def execQueuePop (c : OpCtx) (d : BitVec 256) (s : State) : Res := .next (s.issueStream c 0x36 d)
def execTierPush (c : OpCtx) (d : BitVec 256) (s : State) : Res := .next (s.issueStream c 0x37 d)

/-- Whether a stream has moved everything and, inbound, its every section has been passed. -/
def Stream.ended (t : Tile) (x : Stream) : Bool :=
  decide (sLen x.desc ≤ x.done) && !x.leased && decide (x.answers = [])
    && (if sInbound x.desc then decide (x.secTotal t ≤ x.passed) && decide (x.total ≤ x.localDone) else true)

/-- Ends a tile's streams that have ended: what waited for them, entry writes and issued streams, goes on (R184, R210). -/
def State.endStreams (s : State) (t : TileRef) : State :=
  let n := s.phys t
  let tl := s.tile n
  if tl.streams.any (Stream.ended tl) then
    ((s.setTile n { tl with streams := tl.streams.filter (fun x => !x.ended tl) }).entryTurn 129 t).startQueued t
  else s

/-! ### Converters (R104, R110 to R118) -/

/-- Elements of `bits` bits of a byte list. -/
def unpack (bits : Nat) (bs : List Byte) : List Nat :=
  let v := leNat bs
  (List.range (8 * bs.length / bits)).map (fun i => v / 2 ^ (bits * i) % 2 ^ bits)
/-- The little-endian number of packed elements. -/
def pack (bits : Nat) (es : List Nat) : Nat :=
  match es with
  | [] => 0
  | e :: r => e % 2 ^ bits + 2 ^ bits * pack bits r

/-- Row-major position of the e-th element in block order along the second dimension, and back: rows of length n, blocks row group
by row group, then column by column (R104, R385). -/
def rowMajor (n e : Nat) : Nat := (e / 32 / n * 32 + e % 32) * n + e / 32 % n
def blockOrder (n p : Nat) : Nat := (p / n / 32 * n + p % n) * 32 + p / n % 32

/-- Converts the elements of whole groups, the first of them element e0 of the stream: target elements in their order, events. A
block the source does not fill is padded with +0 (R103). The scales chosen for a scaled target are written nowhere (DESIGN
CHOICE, log 31: 06 gives them no place). -/
def Stream.convert (x : Stream) (w seed : Word64) (base e0 : Nat) (cs : List Nat) : List Nat × Events :=
  let sf := fld w 11 8; let tf := fld w 15 12
  let n := max 1 x.rowLen; let g := x.group w
  let vs := cs.mapIdx (fun k c => decodeElem sf (Config.streamScale x.desc x.pass ((e0 + k) / 32)).toNat ((e0 + k) % 32) c)
  let at_ := fun (e : Nat) => if bit w 5 && fmtScaled tf then rowMajor n e else e
  let src := fun (e : Nat) => if bit w 5 && fmtScaled sf then blockOrder n (at_ e) else at_ e
  let m := if fmtScaled tf then (cs.length + g - 1) / g * g else cs.length
  let r := (chunks 32 (List.range m)).map (fun ks =>
    convBlock w (fun i => convRnd w seed x.step x.mb (base + at_ (e0 + ks.headD 0 + i)))
      (ks.map (fun k => vs.getD (src (e0 + k) - e0) (.num false 0 0))))
  (r.flatMap (fun b => b.2.1), sumEv (r.map (fun b => b.2.2)))

/-- The converter takes the whole groups that have come; at the range's end, what is left. -/
def Stream.convStep (x : Stream) (w seed : Word64) (base : Nat) (last : Bool) : Stream × Events :=
  let sb := fmtBits (fld w 11 8); let tb := fmtBits (fld w 15 12)
  let k := 8 * x.cin.length / sb
  let n := if last then k else k / x.group w * x.group w
  if n = 0 then (x, {})
  else
    let r := x.convert w seed base x.cdone ((unpack sb x.cin).take n)
    ({ x with cin := if last then [] else x.cin.drop (n * sb / 8), cdone := x.cdone + n,
              cout := x.cout ++ bytesLE ((r.1.length * tb + 7) / 8) (pack tb r.1) }, r.2)

/-- Source words enter a stream's converter; a word it cannot use stops it (Table 8.1). -/
def Stream.take (x : Stream) (w seed : Word64) (base c : Nat) (ws : List Code160) : Except Nat (Stream × Events) :=
  let ws := ws.map checkedWord
  match ws.findIdx? unusable with
  | some i => .error i
  | none =>
    .ok ({ x with cin := x.cin ++ ws.flatMap (fun v => bytesLE 16 (codeData v).toNat) }.convStep w seed base (decide (sLen x.desc ≤ x.done + c)))

/-! ### Transfers (R212 to R214) -/

/-- Code-word number of byte offset o of a stream's local buffer. -/
def Stream.localWord (t : Tile) (x : Stream) (o : Nat) : Nat :=
  2 * hBase (t.handle (sLocal x.desc)) + o % (max 1 (x.bufBytes t)) / 16
def Stream.fetch (t : Tile) (x : Stream) (o n : Nat) : List Code160 :=
  (List.range (n / 16)).map (fun i => checkedWord (Memory.readWord t.mem (x.localWord t (o + 16 * i))))

/-- A code word of a tiled region of a tensor with its padding as +0: elements beyond the tensor's rows or columns, where its
handle holds the whole tensor's rows, or columns (R174; log 31). -/
def padWord (e : BitVec 128) (h : TensorHdr) (k : Nat) (c : Code160) : Code160 :=
  let tb := fmtTileBits (hFmt e)
  let per := 128 / tb
  let tiles := 2 * wordsPerTile (hFmt e)
  let tile := k / max 1 tiles
  let row := 8 * (tile / max 1 (hPitch e)); let col := 8 * (tile % max 1 (hPitch e))
  let out := fun (i : Nat) => decide (h.rows ≤ row + (k % max 1 tiles * per + i) / 8) || decide (h.cols ≤ col + (k % max 1 tiles * per + i) % 8)
  if unusable c ∨ ¬ (List.range per).any out then c
  else encodeWord ((List.range per).foldl (fun d i => if out i then putFld d (tb * i + tb - 1) (tb * i) 0 else d) (codeData (checkedWord c)))

/-- A word that an inbound stream stores at code word k of its buffer. -/
def Stream.pad (t : Tile) (h : Option TensorHdr) (x : Stream) (k : Nat) (c : Code160) : Code160 :=
  match h with
  | some h => if hTiled (t.handle (sLocal x.desc)) then padWord (t.handle (sLocal x.desc)) h k c else c
  | none => c

/-- Stores whole words at offset o of the buffer. -/
def Stream.place (t : Tile) (h : Option TensorHdr) (x : Stream) (o : Nat) (ws : List Code160) : Mem :=
  (ws.mapIdx (fun i w => (i, w))).foldl (fun m (i, w) =>
    let k := x.localWord t (o + 16 * i)
    Memory.writeWord m k (x.pad t h (k - 2 * hBase (t.handle (sLocal x.desc))) w)) t.mem

/-- Stores bytes at offset o of the buffer, parts of words merged (R169): the memory, words that could not be merged. -/
def Stream.placeBytes (t : Tile) (h : Option TensorHdr) (x : Stream) (o : Nat) (bs : List Byte) : Mem × List Nat :=
  let base := 32 * hBase (t.handle (sLocal x.desc))
  let size := max 1 (x.bufBytes t)
  let cv := (bs.mapIdx (fun i b => (i, b))).foldl (fun tb (i, b) => coverBits tb (8 * (base + (o + i) % size)) 8 b.toNat) []
  let r := storeCover t.mem cv
  (cv.foldl (fun m e => Memory.writeWord m e.1 (x.pad t h (e.1 - base / 16) (Memory.readWord m e.1))) r.1, r.2)

/-- The first section of a stream is full, or, outbound, written: FILL_EVENT is raised (Table 6.1). -/
def Tile.firstFill (t : Tile) (id : Nat) : Tile :=
  match t.stream? id with
  | none => t
  | some x =>
    if x.filled then t
    else { t.updStream id (fun x => { x with filled := true, missed := false }) with
      events := if sFill x.desc = 0 then t.events else t.events ++ [sFill x.desc] }

/-- Converted bytes enter an inbound stream's buffer as far as its free sections reach: the state, and the words that could not be
merged. -/
def State.drainIn (s : State) (t : TileRef) (id : Nat) : State × List Nat :=
  let n := s.phys t
  let tl := s.tile n
  match tl.stream? id with
  | none => (s, [])
  | some x =>
    let k := min x.cout.length ((x.passed + sSections x.desc) * x.secBytes tl - x.moved)
    if k = 0 ∨ ¬ sInbound x.desc then (s, [])
    else
      let r := x.placeBytes tl ((s.slot x.slot).header? t (sLocal x.desc)) x.moved (x.cout.take k)
      (s.setTile n { tl.updStream id (fun y => { y with cout := y.cout.drop k, moved := y.moved + k }) with mem := r.1 }, r.2)

/-- After a transfer: progress, the first section's event, the next transfers, the stream's end. -/
def State.moved (s : State) (t : TileRef) (id c : Nat) : State :=
  let n := s.phys t
  let s := s.updStream n id (fun x => { x with done := x.done + c, granted := x.granted - 1 })
  let s := s.updTile n (fun tl =>
    match tl.stream? id with
    | none => tl
    | some x =>
      if sInbound x.desc ∧ ¬ x.filled ∧ 0 < x.secDone tl then { tl.firstFill id with waits := tdel tl.waits 2 }
      else { tl.updStream id (fun x => { x with missed := x.missed && decide (x.slack tl = some 0) }) with waits := tdel tl.waits 2 })
  (State.issueMore 512 s t id).endStreams t

/-- The stream's fault falls on its block. -/
def State.streamFault (s : State) (t : TileRef) (x : Stream) (code : Nat) : State :=
  match s.pass? x.pass with
  | some p => s.finishOp ⟨t, x.pass⟩ p 2 (sBlock x.desc) (.error (.fault code))
  | none => s.programFault x.slot { s.siteRec t { code := code } with block := sBlock x.desc, mb := x.mb, step := x.step }

/-- A stream's converter, or a merge, meets a word it cannot use: 0x4104 with the scratchpad word and the handle (R283). -/
def State.streamPoison (s : State) (t : TileRef) (x : Stream) (word : Nat) : State :=
  s.retryFault x.pass (s.siteRec t { code := 0x4104, detail0 := word, detail1 := sLocal x.desc })

/-- One transfer's words arrive at an inbound stream: they enter its buffer, or its converter; `fin` ends the transfer. -/
def State.arrive (s : State) (t : TileRef) (x : Stream) (c : Nat) (fin : State → State) (ws : List Code160) : State :=
  let n := s.phys t
  let h := (s.slot x.slot).header? t (sLocal x.desc)
  match x.conv with
  | none => fin (s.updTile n (fun tl => { tl with mem := x.place tl h x.done ws }))
  | some w =>
    match x.take w ((s.slot x.slot).seedAt x.step) x.base c ws with
    | .error i => (fin s).streamPoison t x ((x.localWord (s.tile n) (x.loc x.done) + i) / 2)
    | .ok (y, ev) =>
      let s := (s.updStream n x.id (fun z => { z with cin := y.cin, cdone := y.cdone, cout := y.cout })).events x.slot ev
      let r := s.drainIn t x.id
      match r.2 with
      | [] => fin r.1
      | b :: _ => (fin r.1).streamPoison t x (b / 2)

/-- What an outbound stream's transfer of c bytes at offset o sends, and from which byte of the far range on: the words of its
buffer, or what its converter has formed in whole 32-byte words, the last one padded with zeros; the header of a tier push is not
converted. -/
structure Sent where
  stream : Stream
  at_ : Nat
  words : List Code160
  ev : Events := {}
  deriving DecidableEq, Repr, Inhabited

def State.send (s : State) (t : TileRef) (x : Stream) (o c : Nat) : Except Nat Sent :=
  let ws := x.fetch (s.tile (s.phys t)) o c
  match x.conv with
  | none => .ok { stream := x, at_ := o, words := ws }
  | some w =>
    let raw := if sOp x.desc = 0x37 ∧ o = 0 then ws.take 2 else []
    let base := if sOp x.desc = 0x37 then fld (codeData ((x.part ++ raw).getD 1 0)) 63 24 else x.base
    match { x with done := o }.take w ((s.slot x.slot).seedAt x.step) base c (ws.drop raw.length) with
    | .error i => .error ((x.localWord (s.tile (s.phys t)) (o + 16 * raw.length) + i) / 2)
    | .ok (y, ev) =>
      let out := if sLen x.desc ≤ o + c then y.cout ++ List.replicate ((32 - y.cout.length % 32) % 32) 0 else y.cout.take (y.cout.length / 32 * 32)
      .ok { stream := { x with cin := y.cin, cdone := y.cdone, cout := y.cout.drop out.length, moved := y.moved + out.length }, at_ := x.moved,
            words := raw ++ (chunks 16 out).map (fun b => encodeWord (BitVec.ofNat 128 (leNat b))), ev := ev }

/-- What a transfer has taken through the converter stays with its stream. -/
def State.sentBy (s : State) (t : TileRef) (r : Sent) : State :=
  let y := r.stream
  (s.updStream (s.phys t) y.id (fun x => { x with cin := y.cin, cdone := y.cdone, cout := y.cout, moved := y.moved })).events y.slot r.ev

/-- The words that covered bits make, parts merged with what the stack holds: address, word. A word that cannot be merged stays as
it is and is logged (R169, R283). -/
def State.mergeCover (s : State) (p : Nat) (tb : Tbl (Nat × Nat)) : State × List (Nat × Code160) :=
  tb.foldl (fun (r : State × List (Nat × Code160)) (wd, msk, d) =>
    if msk = 2 ^ 128 - 1 then (r.1, r.2 ++ [(16 * wd, encodeWord (BitVec.ofNat 128 d))])
    else
      let g := r.1.stackWord p wd
      match g.2 with
      | none => (g.1, r.2)
      | some old =>
        if unusable old then
          let u := (s.slot p).unitAt (16 * wd)
          (g.1.logSlot p { code := 0x4104, siteKind := .stack, site := siteUnit u.1 u.2, detail0 := wd }, r.2)
        else
          let o := (codeData (checkedWord old)).toNat
          (g.1, r.2 ++ [(16 * wd, encodeWord (BitVec.ofNat 128 ((o - (o &&& msk)) ||| d)))])) (s, [])

/-- The words of a SPILL go where their offsets lie; a fallback's forward stashes nothing. -/
def State.putSpill (s : State) (t : TileRef) (x : Stream) (o : Nat) (ws : List Code160) : State :=
  let n := s.phys t
  (ws.mapIdx (fun i v => (o + 16 * i, v))).foldl (fun s (o, v) =>
    match s.place x o with
    | .nowhere => s
    | .slot k => s.updTile n (fun tl => { tl with mem := Memory.writeWord tl.mem (s.slotWord tl x k o) v })
    | .stack a => s.putWords x.slot [(a, v)]) s

/-- One transfer between a stack, or a scratchpad stash slot, and a local buffer: its tag returns with its end (R313). -/
def State.stackTransfer (s : State) (t : TileRef) (x : Stream) (c : Nat) : State :=
  let n := s.phys t
  let tl := s.tile n
  let fin := fun (s : State) =>
    match s.place x (x.formed x.done) with
    | .stack a =>
      let (st, u) := (s.slot x.slot).unitAt a
      let d := match (s.tile n).stream? x.id with | some y => decide (0 < y.deepTags) | none => false
      let s := s.giveTag t.q x.slot st u d
      ((s.updStream n x.id (fun y => { y with tags := y.tags - 1, deepTags := y.deepTags - b2n d })).moved t x.id c).wakeStreams t.q
    | _ => s.moved t x.id c
  if sOp x.desc = 0x30 then
    match s.place x x.done with
    | .nowhere => fin s
    | .slot k => s.arrive t x c fin ((List.range (c / 16)).map (fun i => checkedWord (Memory.readWord tl.mem (s.slotWord tl x k x.done + i))))
    | .stack a =>
      let (st, u) := (s.slot x.slot).unitAt a
      let r := s.readUnit x.slot st u
      match r.2 with
      | none => fin r.1
      | some ws =>
        let s := r.1.work x.slot 5 0 c
        let s := if x.leased then s.updStack st (fun k => { k with leases := k.leases.map (fun l =>
            if l.tile = trNum t ∧ l.stream = x.id then { l with read := sins l.read u } else l) }) else s
        s.arrive t x c fin ((ws.drop (a % 256 / 16)).take (c / 16))
  else
    match s.send t x x.done c with
    | .error w => (fin s).streamPoison t x w
    | .ok r =>
      let onStack := match s.place x (x.formed x.done) with | .stack _ => true | _ => false
      let s := (s.sentBy t r).putSpill t x r.at_ r.words
      let s := if onStack then s.work x.slot 6 0 (16 * r.words.length) else s
      fin (s.stashRec t x r.words)

/-- One transfer between tiles or to a window. -/
def State.tileTransfer (s : State) (t : TileRef) (x : Stream) (c : Nat) : State :=
  let n := s.phys t
  let tl := s.tile n
  let h := tl.handle (sRemote x.desc)
  if sOp x.desc = 0x32 then
    match s.remoteBase h (x.done / 32) (c / 32) false with
    | .error (.fault k) => s.streamFault t x k
    | .error _ => s
    | .ok (m, a) => s.arrive t x c (fun s => s.moved t x.id c) ((s.tile m).words a (c / 32))
  else if sOp x.desc = 0x33 then
    match s.send t x x.done c with
    | .error w => (s.moved t x.id c).streamPoison t x w
    | .ok r =>
      let off := hBase h + r.at_ / 32
      let k := r.words.length / 2
      let held : Bool := match s.area (hTile h) (hTarget h) with
        | none => false
        | some a => (List.range k).all (fun i => heldBy (trNum t) (sRemote x.desc) (a.units.getD ((off + i) / 32) .free))
      let asked : Bool := match s.area (hTile h) (hTarget h) with
        | none => false
        | some a => (a.queue ++ a.late).any (fun q => decide (q.tile = trNum t) && decide (q.handle = sRemote x.desc))
      if !held then (if asked then s.streamWait t 7 else s.streamFault t x 0x6137)
      else
        let s := (s.sentBy t r).updTile (s.phys (hTile h)) (fun y =>
          let b := 2 * (hBase (y.handle (hTarget h)) + off)
          { y with mem := (r.words.mapIdx (fun i w => (i, w))).foldl (fun m (i, w) => Memory.writeWord m (b + i) w) y.mem })
        s.moved t x.id c
  else
    let o := x.done + (x.answers.map (fun a => a.2.2)).sum
    match s.send t x o c with
    | .error w => (s.moved t x.id c).streamPoison t x w
    | .ok r =>
      let s := s.sentBy t r
      if r.words = [] then s.moved t x.id c
      else
        let ring := if hMirror h then 1 - s.ring.ring else s.ring.ring
        let route := tget s.spaces (routeKey (hPos h) ring 0) 0
        let q := tget s.spaces (txSpace (hPos h) ring 0 route) 0
        let tenant := (s.slot x.slot).tenant
        let e := hTile h
        let f := (e.q * 2 ^ 9 + e.g * 2 ^ 5 + e.t) * 2 ^ 130 + hTarget h % 8 * 2 ^ 127 + (hBase h + r.at_ / 32) % 65536 * 2 ^ 111
        let hd := mkHdr s 2 0 true (decide (route = 1)) ring (hPos h) (r.words.length / 2) tenant x.mb 0 f
        let port := s.route 0 (s.encFor tenant 0) false ring (hPos h) (route = 1)
        let s := { s with spaces := tput s.spaces (routeKey (hPos h) ring 0) (1 - route) }
        let s := match port with
          | some k => (s.portPoison k r.words).sendPk k hd (unitsOf r.words) (badOf r.words)
          | none => { s with spaces := tput s.spaces (txSpace (hPos h) ring 0 route) (q + 1) }
        s.updStream n x.id (fun y => { y with granted := y.granted - 1, answers := y.answers ++ [(q % 2 ^ 24, o, c)] })

/-- Whether a push waits at its tier link: the update of the step before has not read the set's accumulator at its chip (R344). -/
def Slot.pushWaits (x : Slot) (h : BitVec 256) (step : Nat) : Bool :=
  x.shards.any (fun e => decide (e.1 = phChip h) && decide (dTensor e.2.desc = phTensor h) && decide (e.2.accStep < step) && decide (step = e.2.count + 1))

/-- The header a tier push's message begins with. -/
def pushHeader (ws : List Code160) : BitVec 256 :=
  BitVec.ofNat 256 ((codeData (ws.getD 0 0)).toNat + (codeData (ws.getD 1 0)).toNat * 2 ^ 128)

/-- One transfer of a queue push or pop, or of a tier push. -/
def State.queueTransfer (s : State) (t : TileRef) (x : Stream) (c : Nat) : State :=
  let n := s.phys t
  if sOp x.desc = 0x36 then
    match s.queue? (sAddr x.desc) with
    | none => s
    | some q =>
      let got := if x.part = [] then q.pop else some (x.part, q)
      match got with
      | none => s.streamWait t 3
      | some (m, q) =>
        let rest := m.drop (c / 16)
        let q := if rest = [] then { q with credit := q.credit + 32 * qMsg q.desc } else q
        let s := (s.putQueue (sAddr x.desc) q).updStream n x.id (fun y => { y with part := rest })
        let s := s.arrive t x c (fun s => s.moved t x.id c) (m.take (c / 16))
        if rest = [] then s.release409 (sAddr x.desc) else s
  else
    match s.send t x x.done c with
    | .error w => (s.moved t x.id c).streamPoison t x w
    | .ok r =>
      let ws := x.part ++ r.words
      if sOp x.desc = 0x37 then
        let hdr := pushHeader ws
        let last := decide (sLen x.desc ≤ x.done + c)
        if last ∧ (s.slot x.slot).pushWaits hdr x.step then s.streamWait t 7
        else
          let s := (s.sentBy t r).work x.slot 9 2 (16 * r.words.length)
          let s := if last then { s with out := { s.out with tier := s.out.tier ++ [(x.slot, phChip hdr, ⟨hdr, ws.drop 2, x.step, x.mb⟩)] } } else s
          (s.updStream n x.id (fun y => { y with part := ws })).moved t x.id c
      else
        match s.queue? (sAddr x.desc) with
        | none => s
        | some q =>
          let words := 2 * qMsg q.desc
          let k := ws.length / words
          if 0 < k ∧ q.credit < 32 * qMsg q.desc * k then s.streamWait t 7
          else if 0 < k ∧ qPage q.desc < q.tail.length + k then s.streamWait t 4
          else
            let q := (chunks words (ws.take (k * words))).foldl (Queue.push x.mb) q
            (((s.sentBy t r).putQueue (sAddr x.desc) q).updStream n x.id (fun y => { y with part := ws.drop (k * words) })).moved t x.id c

/-- TRANSFER_COMPLETE: the stream's next transfer completes, once it has been granted its path. -/
def State.transfer (s : State) (t : TileRef) (id : Nat) : State :=
  let tl := s.tile (s.phys t)
  match tl.stream? id with
  | none => s
  | some x =>
    let op := sOp x.desc
    let o := if op = 0x34 then x.done + (x.answers.map (fun a => a.2.2)).sum else x.done
    let c := s.chunkOf tl x o
    if x.held ∨ c = 0 ∨ ¬ x.room tl o ∨ x.granted = 0 ∨ x.skipped.any (fun e => decide (e.1 = o)) then s
    else if op = 0x30 ∨ op = 0x31 then s.stackTransfer t x c
    else if op ≤ 0x34 then s.tileTransfer t x c
    else s.queueTransfer t x c

def execTransferComplete (t : TileRef) (id : Nat) (s : State) : Res := .next (s.transfer t id)

/-- SADV: the current section is passed for reuse, and what the converter holds for it enters; on an input the section is passed
when the pass is released (R213, R255). An outbound stream's first SADV says that its first section is full. -/
def State.sadvOp (s : State) (c : OpCtx) (id : Nat) : State :=
  match s.livePass c with
  | none => s
  | some p =>
    let n := s.phys c.tile
    let tl := s.tile n
    match tl.stream? id with
    | none => s
    | some x =>
      if x.pass ≠ p.id ∨ x.secTotal tl ≤ x.passed + x.due then s
      else if sInbound x.desc ∧ x.secDone tl ≤ x.passed + x.due then s.streamWait c.tile 3
      else if (s.slot x.slot).inputStream x.desc tl then
        s.updTile n (fun t => { t.updStream id (fun x => { x with due := x.due + 1 }) with waits := tdel t.waits 2 })
      else
        let b := x.secBytes tl
        let s := s.updTile n (fun t => { t.updStream id (fun x =>
            { x with passed := x.passed + 1, missed := false, wrote32 := 0, seen := x.seen.filter (fun r => decide ((x.passed + 1) * b < r.2)) }) with
          waits := tdel t.waits 2 })
        let s := if sInbound x.desc then s else s.updTile n (fun t => t.firstFill id)
        let r := s.drainIn c.tile id
        let s := (State.issueMore 512 r.1 c.tile id).endStreams c.tile
        match r.2 with
        | [] => s
        | b :: _ => s.streamPoison c.tile x (b / 2)

def execSadv (c : OpCtx) (id : Nat) (s : State) : Res := .next (s.sadvOp c id)

/-- STREAM_ANSWER_TIMEOUT: the transfer's answer has not come: 0x6147, the sending block rolls back. -/
def State.answerTimeout (s : State) (t : TileRef) (id sq : Nat) : State :=
  let n := s.phys t
  match (s.tile n).stream? id with
  | none => s
  | some x =>
    if x.answers.any (fun a => decide (a.1 = sq)) then
      let s := s.updStream n id (fun y => { y with answers := y.answers.filter (fun a => decide (a.1 ≠ sq)) })
      let h := (s.tile n).handle (sRemote x.desc)
      let r : ErrRec := { code := 0x6147, detail0 := hPos h, detail1 := sIndex x.desc }
      match s.pass? x.pass with
      | some p => s.rollbackFault x.slot { s.siteRec t (p.fill r) with block := sBlock x.desc }
      | none => s.rollbackFault x.slot { s.siteRec t r with block := sBlock x.desc }
    else s

def execStreamAnswerTimeout (t : TileRef) (id sq : Nat) (s : State) : Res := .next (s.answerTimeout t id sq)

/-! ### Deadlines (R218, R219) -/

def State.drainUpdate (s : State) (t : TileRef) (id : Nat) : State :=
  let n := s.phys t
  match (s.tile n).stream? id with
  | none => s
  | some x =>
    match (s.slot x.slot).ingest.declared with
    | some d =>
      let r := s.rate (groupNum t.q t.g)
      if sOp x.desc = 0x36 ∧ sAddr x.desc ∈ s.ingestQueue x.slot ∧ 0 < r then
        s.updStream n id (fun y => { y with drain := ingestRate d r })
      else s
    | none => s

def execDrainRateUpdate (t : TileRef) (id : Nat) (s : State) : Res := .next (s.drainUpdate t id)

/-- Whether a request of a stream waits at an arbiter. -/
def State.waiting (s : State) (tile id : Nat) : Bool :=
  s.arbs.any (fun (_, a) => a.reqs.any (fun r => decide (r.tile = tile) && decide (r.stream = id)))

/-- DEADLINE_MISS: slack 0 with a request still waiting, counted once each time. -/
def State.deadlineMiss (s : State) (t : TileRef) (id : Nat) : State :=
  let n := s.phys t
  let tl := s.tile n
  match tl.stream? id with
  | none => s
  | some x =>
    if x.slack tl = some 0 ∧ ¬ x.missed ∧ s.waiting (trNum t) id then
      (s.updStream n id (fun y => { y with missed := true })).updSlot x.slot (fun y => { y with str := { y.str with misses := y.str.misses + 1 } })
    else s

def execDeadlineMiss (t : TileRef) (id : Nat) (s : State) : Res := .next (s.deadlineMiss t id)

/-! ### Hoist leases (R225 to R228) -/

/-- Index in a stream's range of a unit given as stack · 2^30 + unit. -/
def State.unitIndex (s : State) (x : Stream) (unit : Nat) : Option Nat :=
  let us := (s.slot x.slot).rangeUnits x.addr (sLen x.desc)
  let i := us.findIdx (fun u => decide (u.1 * 2 ^ 30 + u.2 = unit))
  if i < us.length then some i else none

/-- First byte of unit i within the range, and the byte after its last. -/
def Stream.unitStart (x : Stream) (i : Nat) : Nat := 256 * i - sAddr x.desc % 256
def Stream.unitEnd (x : Stream) (i : Nat) : Nat := min (sLen x.desc) (256 * (i + 1) - sAddr x.desc % 256)

/-- Whether an operation has read words of unit i: those of sections passed, or those it has noted (R228). -/
def Stream.consumed (t : Tile) (x : Stream) (i : Nat) : Bool :=
  let lo := x.loc (x.unitStart i); let hi := x.loc (x.unitEnd i)
  decide (lo < (x.passed + x.due) * x.secBytes t) || x.seen.any (fun r => decide (r.1 < hi) && decide (lo < r.2))

/-- STALE_NOTICE: the unit is stale until refetched; a unit whose words the consumer has read logs 0x6144 once. -/
def State.staleNotice (s : State) (t : TileRef) (id unit : Nat) : State :=
  let n := s.phys t
  let st := unit / 2 ^ 30; let u := unit % 2 ^ 30
  let nt := (trNum t, id, u)
  if nt ∈ (s.stack st).notices then
    let s := s.updStack st (fun x => { x with notices := x.notices.erase nt })
    match (s.tile n).stream? id with
    | none => s
    | some x =>
      match s.unitIndex x unit with
      | none => s
      | some i =>
        let consumed := x.consumed (s.tile n) i
        let s := s.updStream n id (fun y => { y with stale := sins y.stale i, wrote := y.wrote || consumed })
        if consumed then
          let s := s.updSlot x.slot (fun y => { y with str := { y.str with consumed := y.str.consumed + 1 } })
          if x.wrote then s
          else s.logSlot x.slot { s.siteRec t { code := 0x6144, detail0 := unit, detail1 := sIndex x.desc } with block := sBlock x.desc, mb := sMb x.desc }
        else s
  else s

def execStaleNotice (t : TileRef) (id unit : Nat) (s : State) : Res := .next (s.staleNotice t id unit)

/-- A byte list whose bytes at [o, o + bs.length) of the range that begins at `at_` are replaced. -/
def patch (l : List Byte) (at_ o : Nat) (bs : List Byte) : List Byte :=
  l.mapIdx (fun k v => if o ≤ at_ + k then bs.getD (at_ + k - o) v else v)

/-- The source bytes [lo, hi) of a stream's range, read anew from their 16-byte words; none where the stack cannot be read. -/
def State.sourceBytes (s : State) (x : Stream) (lo hi : Nat) : State × Option (List Code160) :=
  s.stackWords x.slot ((List.range ((hi + 15) / 16 - lo / 16)).map (fun k => x.addr / 16 + lo / 16 + k))

/-- A unit of a converting stream is read anew: the groups of elements that lie in it are converted again, into the buffer as far as
they are there, and into what the converter still holds; a poisoned word is reported. -/
def State.reconvert (s : State) (t : TileRef) (x : Stream) (w : Word64) (i : Nat) : State × Option Nat :=
  let n := s.phys t
  let sb := fmtBits (fld w 11 8); let tb := fmtBits (fld w 15 12); let g := x.group w
  let e0 := 8 * x.unitStart i / sb / g * g
  let e1 := min x.cdone ((8 * x.unitEnd i / sb + g) / g * g)
  let b0 := e0 * sb / 8; let c0 := x.cdone * sb / 8
  let r := s.sourceBytes x b0 (min (sLen x.desc) (max ((e1 * sb + 7) / 8) (min x.done (x.unitEnd i))))
  match r.2.map (fun l => l.map checkedWord) with
  | none => (r.1, none)
  | some ws =>
    match ws.findIdx? unusable with
    | some k => (r.1, some k)
    | none =>
      let bytes := ws.flatMap (fun v => bytesLE 16 (codeData v).toNat)
      let v := leNat (bytes.drop (b0 % 16))
      let c := x.convert w ((s.slot x.slot).seedAt x.step) x.base e0 ((List.range (e1 - e0)).map (fun k => v / 2 ^ (sb * k) % 2 ^ sb))
      let out := bytesLE ((c.1.length * tb + 7) / 8) (pack tb c.1)
      let o := e0 * tb / 8
      let tl := r.1.tile n
      let lo := max o (x.moved - x.bufBytes tl); let hi := min (o + out.length) x.moved
      let m := if lo < hi then (x.placeBytes tl ((s.slot x.slot).header? t (sLocal x.desc)) lo ((out.drop (lo - o)).take (hi - lo))).1 else tl.mem
      let f := fun (y : Stream) => { y with cout := patch y.cout x.moved o out, cin := patch y.cin c0 (b0 / 16 * 16) bytes }
      (r.1.setTile n { tl.updStream x.id f with mem := m }, none)

/-- LEASE_REFETCH_DONE: the unit's words are read anew into the buffer where it still holds them, and waiting reads proceed. -/
def State.refetchDone (s : State) (t : TileRef) (id unit : Nat) : State :=
  let n := s.phys t
  match (s.tile n).stream? id with
  | none => s
  | some x =>
    match s.unitIndex x unit with
    | none => s
    | some i =>
      if i ∉ x.stale then s
      else
        let r := s.readUnit x.slot (unit / 2 ^ 30) (unit % 2 ^ 30)
        match r.2 with
        | none => r.1
        | some ws =>
          let lo := x.unitStart i; let hi := x.unitEnd i
          let v : State × Option Nat := match x.conv with
            | some w => r.1.reconvert t x w i
            | none =>
              let tl := r.1.tile n
              if hi ≤ x.done ∧ x.done ≤ lo + x.bufBytes tl then
                let ws := (ws.drop (if i = 0 then sAddr x.desc % 256 / 16 else 0)).take ((hi - lo) / 16)
                (r.1.setTile n { tl with mem := x.place tl ((s.slot x.slot).header? t (sLocal x.desc)) lo ws }, none)
              else (r.1, none)
          let f := fun (y : Stream) => { y with stale := y.stale.filter (fun j => decide (j ≠ i)) }
          let s := v.1.updTile n (fun tl => { tl.updStream id f with waits := tdel tl.waits 2 })
          let s := (s.work x.slot 5 0 (hi - lo)).updSlot x.slot (fun y => { y with str := { y.str with refetches := y.str.refetches + 1 } })
          match v.2 with
          | none => s
          | some k => s.streamPoison t x ((x.localWord (s.tile n) (x.loc lo) + k) / 2)

def execLeaseRefetchDone (t : TileRef) (id unit : Nat) (s : State) : Res := .next (s.refetchDone t id unit)

/-- RELEASE_EVENT is raised: the leases it ends are freed at every logic die, and streams that waited for an entry start. -/
def State.leaseRelease (s : State) (t : TileRef) (ev : Nat) : State :=
  let n := s.phys t
  let ids := ((s.tile n).streams.filter (fun x => x.leased && decide (sRelease x.desc = ev))).map Stream.id
  let s := s.updTile n (fun y =>
    let l := y.streams.map (fun x => if x.id ∈ ids then { x with leased := false } else x)
    { y with events := y.events ++ [ev], streams := l })
  let free := fun (_ : Nat) (k : Stack) => { k with
    leases := k.leases.filter (fun l => !(decide (l.tile = trNum t) && decide (l.stream ∈ ids))),
    notices := k.notices.filter (fun l => !(decide (l.1 = trNum t) && decide (l.2.1 ∈ ids))) }
  let s := ({ s with dram := tmap free s.dram }).endStreams t
  if ids = [] then s else s.tiles.foldl (fun s (m, y) => if y.queued = [] then s else s.startQueued (s.logTile m)) s

end Sys2Proof.Machine
end

