-- ==== Sys2Proof/Machine/Digests.lean ====
section
/-! DEFINITION. Digest records of mirrored pennants: their keys, their layout, the compare, replay and disagreement
(R451 to R460). -/

namespace Sys2Proof.Machine

/-- The lane key block B_k (Table 12.4). -/
def laneBlock (k : Nat) (d : Digest) : Data128 :=
  BitVec.ofNat 128 (k * 2 ^ 120 + passKindNum d.kind * 2 ^ 112 + d.tensor % 2 ^ 24 * 2 ^ 88 + d.chip % 4 * 2 ^ 86
    + d.block % 65536 * 2 ^ 64 + d.mb % 65536 * 2 ^ 48 + d.step % 2 ^ 48)

/-- H_k (R452). -/
def laneKey (key : BitVec 256) (k : Nat) (d : Digest) : Data128 :=
  let h := aesEnc key (laneBlock k d)
  if h = 0 then 1 else h

/-- Fills in the lanes of a record over a sequence of code words (R453). -/
def Digest.over (key : BitVec 256) (d : Digest) (ws : List Code160) : Digest :=
  { d with words := ws.length, lane0 := digestLane ws (laneKey key 0 d), lane1 := digestLane ws (laneKey key 1 d) }

def kindOfNum (n : Nat) : PassKind :=
  match n with
  | 1 => .forward | 2 => .backward | 3 => .gather | 4 => .update | 5 => .reload | 6 => .checkpoint | _ => .none

/-- The 64 bytes of a digest record (Table 12.5). -/
def Digest.bits (d : Digest) : BitVec 512 :=
  BitVec.ofNat 512 (passKindNum d.kind * 2 ^ 504 + d.attempt % 4 * 2 ^ 502 + b2n d.replay * 2 ^ 501 + d.block % 65536 * 2 ^ 472
    + d.mb % 65536 * 2 ^ 456 + d.tensor % 2 ^ 24 * 2 ^ 432 + d.chip % 4 * 2 ^ 430 + d.step % 2 ^ 64 * 2 ^ 320
    + d.words % 2 ^ 64 * 2 ^ 256 + d.lane1.toNat * 2 ^ 128 + d.lane0.toNat)
def digestOfBits (b : BitVec 512) : Digest :=
  { kind := kindOfNum (fld b 511 504), attempt := fld b 503 502, replay := bit b 501, block := fld b 487 472, mb := fld b 471 456,
    tensor := fld b 455 432, chip := fld b 431 430, step := fld b 383 320, words := fld b 319 256,
    lane1 := BitVec.ofNat 128 (fld b 255 128), lane0 := BitVec.ofNat 128 (fld b 127 0) }

/-- Two records of the same work (R455). -/
def Digest.same (a b : Digest) : Bool :=
  decide (a.kind = b.kind) && decide (a.step = b.step) && decide (a.block = b.block) && decide (a.mb = b.mb)
    && decide (a.tensor = b.tensor) && decide (a.chip = b.chip)
def Digest.agrees (a b : Digest) : Bool :=
  decide (a.lane0 = b.lane0) && decide (a.lane1 = b.lane1) && decide (a.words = b.words)

/-- Sends a record to the partner on VC 3 over M. -/
def State.sendDigest (s : State) (p : Nat) (d : Digest) : State :=
  s.sendPartner p 3 [BitVec.ofNat 256 d.bits.toNat, BitVec.ofNat 256 (d.bits.toNat / 2 ^ 256)]

/-- Whether a slot compares the work of a step with its partner: paired, or from the boundary of a rejoin on (R455,
R472 step 4). -/
def Slot.compares (x : Slot) (step : Nat) : Bool :=
  bMirrored x.burgee && (decide (x.mirror.state = .paired)
    || (decide (x.mirror.rj = .running) && decide (x.mirror.boundary ≤ step)))

/-- A lasting disagreement (R459, R460): rollback with self-test, or, where it recurs, a halt on both rings. -/
def State.disagree (s : State) (p : Nat) (r : ErrRec) : State :=
  let x := s.slot p
  match x.mirror.lastDis with
  | some t =>
    if x.seq.step < t + 1 then
      let s := s.logSlot p { r with handling := .program }
      s.programFault p { r with code := 0x8315 }
    else
      let s := s.rollbackFault p r
      s.updSlot p (fun y => { y with mirror := { y.mirror with testing := true, lastDis := some y.mirror.rbTarget } })
  | none =>
    let s := s.rollbackFault p r
    s.updSlot p (fun y => { y with mirror := { y.mirror with testing := true, lastDis := some y.mirror.rbTarget } })

/-- Compares a pass's record with the partner's where both are there (R455, R458, Table 12.6). -/
def State.comparePass (s : State) (id : Nat) : State :=
  match s.pass? id with
  | none => s
  | some x =>
    match x.digest with
    | none => s
    | some d =>
      match (s.slot x.slot).mirror.remote.find? (fun r => r.same d && (r.replay == d.replay)) with
      | none => s
      | some r =>
        let s := s.updSlot x.slot (fun y => { y with
          mirror := { y.mirror with remote := y.mirror.remote.erase r, probing := false },
          recC := { y.recC with compared := y.recC.compared + 1 } })
        if ¬ d.replay then
          if d.agrees r then s.updPass id (fun y => { y with matched := true, waitTicks := false })
          else
            let s := s.logSlot x.slot (x.fill { code := 0x8310, handling := .retry })
            let s := s.updSlot x.slot (fun y => { y with recC := { y.recC with mismatches := y.recC.mismatches + 1 } })
            let s := s.returnUnits id
            s.updPass id (fun y => { y with abandoned := true, faults := [], attempt := 0, original := some d, partner := some r,
                                            digest := none, replaying := true, replayDue := true, waitTicks := false })
        else if d.agrees r then
          let s := if x.original.map (fun o => o.agrees d) = some false then s.logSlot x.slot (x.fill { code := 0x8311 }) else s
          s.updPass id (fun y => { y with matched := true, waitTicks := false })
        else s.disagree x.slot (x.fill { code := 0x8312 })

end Sys2Proof.Machine
end

