-- ==== Sys2Proof/Machine/Chips.lean ====
section
/-! DEFINITION. A Bortis chip's state space on its cartridge or stack region, the layout of a shard's state area and
retention area, and its arithmetic (08, 10, 12). -/

namespace Sys2Proof.Machine

/-! ### The state space (R316, R317, R354, R488, R489) -/

/-- Whether the module has an accepted cartridge at all, and in socket K(n). -/
def State.anyCart (s : State) : Bool := s.mod.accepted.any id
def State.hasCart (s : State) (n : Nat) : Bool := s.mod.accepted.getD n false

/-- 256-byte units of a cartridge quarter. -/
def quarterUnits : Nat := 3 * 2 ^ 30

/-- Cartridge quarters of slot p on K(n), in ascending order. -/
def State.quarters (s : State) (p n : Nat) : List Nat :=
  if s.hasCart n then ((s.slot p).granules.filter (fun k => decide (k % 4 = n))).map (· / 4) else []

/-- Bytes of slot p's state space on chip n. -/
def State.stateSpace (s : State) (p n : Nat) : Nat :=
  if s.anyCart then (s.quarters p n).length * quarterUnits * 256 else bBortis (s.slot p).burgee * unit64

/-- Cartridge unit of a unit of the state space. -/
def cartUnit (qs : List Nat) (u : Nat) : Nat :=
  let j := qs.getD (u / quarterUnits) 0
  let v := u % quarterUnits
  (4 * j + v % 4) * 2 ^ 30 + v / 4

/-- Stack word number of word w of chip n's state space where the module has no cartridge (R489). -/
def Slot.stateWord (x : Slot) (n w : Nat) : Nat :=
  (x.granules.length * 48 * 2 ^ 30 - (n + 1) * (bBortis x.burgee * unit64)) / 16 + w

/-- Reads word w of cartridge unit u under a key, with the checks and retries of Table 8.2 (R287, R317). -/
def State.cartGet (s : State) (k u w who : Nat) (nz : Noise := {}) : State × Option Code160 :=
  let x := s.cart k
  match tget? (s.chip k).keys who with
  | none => (s.noKey who (cartRec 0x4105 k u w), none)
  | some key =>
    if ¬ x.written (u / 256) then (s, some 0#160)
    else
      let cell := Memory.readWord x.mem (16 * u + w)
      let back := fun (s : State) (c : Code160) => s.updCart k (fun x => { x with mem := Memory.writeWord x.mem (16 * u + w) c })
      let out := fun (s : State) (c : Code160) =>
        if nz.cipher < 2 then
          let s := if nz.cipher = 1 then s.logFor who { cartRec 0x4107 k u w with transient := true } else s
          (s, some (decipher key (k * 2 ^ 34 + u) w c))
        else (s.logFor who (cartRec 0x4107 k u w), some poison)
      match rsDecide (cell ^^^ nz.first) with
      | .clean => out s (cell ^^^ nz.first)
      | .corrected c _ => out ((back s c).cartCorrected k u) c
      | .poisoned => (s, some poison)
      | .uncorrectable =>
        let again := s.logFor who { cartRec 0x4102 k u w with transient := true }
        match rsDecide (cell ^^^ nz.again) with
        | .clean => out again (cell ^^^ nz.again)
        | .corrected c _ => out ((back again c).cartCorrected k u) c
        | _ => (((back s poison).logFor who (cartRec 0x4103 k u w)).cartRow k u, some poison)

/-- Writes word w of cartridge unit u, checked on arrival and after encryption (R287); a fresh 64 KiB is first filled with
encrypted zeros (R290, R317). -/
def State.cartPut (s : State) (k u w who : Nat) (v : Code160) (cipher : Nat := 0) : State :=
  match tget? (s.chip k).keys who with
  | none => s.noKey who (cartRec 0x4105 k u w)
  | some key =>
    let s := match rsDecide v with
      | .uncorrectable => s.logFor who (cartRec 0x4106 k u w)
      | .corrected _ _ => s.updCart k (fun x => { x with corrected := x.corrected + 1 })
      | _ => s
    let s := if unusable v ∨ cipher = 0 then s else s.logFor who { cartRec 0x4107 k u w with transient := decide (cipher = 1) }
    s.updCart k (fun x =>
      let x := if x.written (u / 256) then x
        else { x with mem := fillFresh key (k * 2 ^ 34) (u / 256 * 256) 256 x.mem, used := sins x.used (u / 256) }
      let c := if unusable v ∨ 2 ≤ cipher then poison else encipher key (k * 2 ^ 34 + u) w (checkedWord v)
      { x with mem := Memory.writeWord x.mem (16 * u + w) c })

/-- Where word w of chip n's state space lies: the physical unit address of its cartridge or stack, and the word (R322). -/
def State.ssAt (s : State) (p n w : Nat) : Nat × Nat × Bool :=
  if s.anyCart then (n * 2 ^ 34 + cartUnit (s.quarters p n) (w / 16), w % 16, false)
  else
    let k := (s.slot p).stateWord n w
    let (st, u) := (s.slot p).unitAt (16 * k)
    (st * 2 ^ 30 + u, k % 16, true)

/-- Word w of chip n's state space for slot p. -/
def State.ssGet (s : State) (p n w : Nat) : State × Option Code160 :=
  if s.anyCart then (s.work p 7 1 16).cartGet n (cartUnit (s.quarters p n) (w / 16)) (w % 16) p
  else (s.work p 5 0 16).stackWordIn p ((s.slot p).stateWord n w)
def State.ssPut (s : State) (p n w : Nat) (v : Code160) : State :=
  if s.anyCart then (s.work p 8 1 16).cartPut n (cartUnit (s.quarters p n) (w / 16)) (w % 16) p v
  else (s.work p 6 0 16).putWords p [(16 * (s.slot p).stateWord n w, v)]

/-- The two code words of a 32-byte unit. -/
def hdrWords (h : BitVec 256) : List Code160 :=
  [encodeWord (BitVec.ofNat 128 h.toNat), encodeWord (BitVec.ofNat 128 (h.toNat / 2 ^ 128))]

/-- Writes a run of code words from byte a of chip n's state space. -/
def State.putRun (s : State) (p n a : Nat) (ws : List Code160) : State :=
  (ws.mapIdx (fun k w => (k, w))).foldl (fun s (k, w) => s.ssPut p n (a / 16 + k) w) s

/-- Reads a run of k code words from byte a; none where a word cannot be used, which the chip notes. -/
def State.getRun (s : State) (p n a k : Nat) : State × Option (List Code160) :=
  (List.range k).foldl (fun (r : State × Option (List Code160)) i =>
    match r.2 with
    | none => r
    | some l =>
      let x := r.1.ssGet p n (a / 16 + i)
      match x.2 with
      | none => (x.1, none)
      | some c =>
        if unusable c then (x.1.updChip n (fun k => { k with lost := s.ssAt p n (a / 16 + i) }), none)
        else (x.1, some (l ++ [c]))) (s, some [])

/-! ### Vectors of 32-bit words in the state space -/

/-- The four 32-bit words of a code word. -/
def wordLanes (c : Code160) : List Word32 := (List.range 4).map (fun i => BitVec.ofNat 32 (c.toNat / 2 ^ (32 * i)))
def lanesWord (l : List Word32) : Code160 :=
  encodeWord (BitVec.ofNat 128 ((l.take 4).foldr (fun w n => w.toNat + 2 ^ 32 * n) 0))

/-- Reads `len` words from byte a; none where a word cannot be used. -/
def State.getVec (s : State) (p n a len : Nat) : State × Option (List Word32) :=
  let r := s.getRun p n a ((a % 16 + 4 * len + 15) / 16)
  (r.1, r.2.map (fun l => ((l.flatMap (fun c => wordLanes (checkedWord c))).drop (a % 16 / 4)).take len))

/-- Writes words from byte a; code words covered in part are merged. -/
def State.putVec (s : State) (p n a : Nat) (vs : List Word32) : State :=
  let lo := a / 4
  (List.range ((a % 16 + 4 * vs.length + 15) / 16)).foldl (fun s i =>
    let w := a / 16 + i
    let covered := (List.range 4).all (fun j => decide (lo ≤ 4 * w + j) && decide (4 * w + j < lo + vs.length))
    if covered then s.ssPut p n w (lanesWord ((vs.drop (4 * w - lo)).take 4))
    else
      let x := s.ssGet p n w
      match x.2 with
      | none => x.1
      | some c =>
        if unusable c then x.1.updChip n (fun k => { k with lost := s.ssAt p n w })
        else
          let old := wordLanes (checkedWord c)
          x.1.ssPut p n w (lanesWord ((List.range 4).map (fun j =>
            if lo ≤ 4 * w + j ∧ 4 * w + j < lo + vs.length then vs.getD (4 * w + j - lo) 0 else old.getD j 0)))) s

/-- A 0x4108 event of chip n: its socket's cartridge counts it (Table 8.11), the update is withheld and the pennant rolls back
(R438). -/
def State.withhold (s : State) (p n : Nat) (r : ErrRec) : State :=
  (s.updCart n (fun x => { x with poisoned := x.poisoned + 1 })).rollbackFault p { r with code := 0x4108 }

/-- A chip has met a word of its state that it cannot use: the record names it (R322). -/
def State.lostState (s : State) (p n : Nat) (step : Nat) : State :=
  let (u, w, onStack) := (s.chip n).lost
  s.withhold p n { (if onStack then unitRec 0x4108 (u / 2 ^ 30) (u % 2 ^ 30) w else { code := 0x4108, siteKind := .cartridge, site := siteNum n, detail0 := u, detail1 := w }) with step := step }

/-! ### Shards (R360, R462) -/

def State.chipSlot (s : State) (p n : Nat) : ChipSlot := tget (s.slot p).chips n {}
def State.updChipSlot (s : State) (p n : Nat) (f : ChipSlot → ChipSlot) : State :=
  s.updSlot p (fun x => { x with chips := tput x.chips n (f (tget x.chips n {})) })
def State.shard? (s : State) (p n i : Nat) : Option Shard := ((s.chipSlot p n).shards)[i]?
def State.updShard (s : State) (p n i : Nat) (f : Shard → Shard) : State :=
  s.updChipSlot p n (fun c => { c with shards := c.shards.modify i f })
/-- Index of the shard of a set on a chip. -/
def State.shardIx (s : State) (p n tensor : Nat) : Option Nat :=
  let l := (s.chipSlot p n).shards
  let i := l.findIdx (fun h => decide (dTensor h.desc = tensor))
  if i < l.length then some i else none

/-- Blocks of a BLOCK_PRECOND shard in row-major block order: first row and height, first column and width. -/
def dBlocks (d : BitVec 640) : List (Nat × Nat × Nat × Nat) :=
  let b := max 1 (dDim d)
  (List.range ((dShardRows d + b - 1) / b)).flatMap (fun i =>
    (List.range ((dCols d + b - 1) / b)).map (fun j =>
      (i * b, min b (dShardRows d - i * b), j * b, min b (dCols d - j * b))))
/-- Words of a block's statistics and roots. -/
def blockWords (x : Nat × Nat × Nat × Nat) : Nat := 2 * (x.2.1 * x.2.1 + x.2.2.2 * x.2.2.2)

def hasB1 (d : BitVec 640) : Bool := decide (fabs (dB1 d) ≠ 0)

/-- Words of the parts of a state area, in the order of R360. -/
def dParts (d : BitVec 640) (thin : Nat) : List Nat :=
  let n := dLen d
  let st := match dRule d with
    | 2 => [n, n]
    | 3 => [dRows d, dCols d] ++ (if hasB1 d then [n] else [])
    | 4 => [n, n]
    | 6 => [n, ((dBlocks d).map blockWords).sum]
    | _ => [n]
  [n, n] ++ st ++ (if 2 ≤ thin then [n] else []) ++ (if dSparse d then [dShardRows d, (dShardRows d + 31) / 32] else [])

/-- Whole 64 KiB units of some 32-bit words. -/
def units64 (n : Nat) : Nat := (4 * n + unit64 - 1) / unit64

/-- First byte of part i of a state area. -/
def partAt (d : BitVec 640) (thin i : Nat) : Nat :=
  (dState d + (((dParts d thin).take i).map units64).sum) * unit64
/-- Units of a whole state area. -/
def stateUnits (d : BitVec 640) (thin : Nat) : Nat := ((dParts d thin).map units64).sum

/-- A pass over a shard has met a word it cannot use: the first such word of the state area is the one the record names. -/
def State.lostShard (s : State) (p n step : Nat) (d : BitVec 640) (thin : Nat) : State :=
  let ws := ((dParts d thin).mapIdx (fun i k => (partAt d thin i / 16, (4 * k + 15) / 16))).flatMap (fun (a, k) => (List.range k).map (a + ·))
  let r := ws.foldl (fun (r : State × Bool) w =>
    if r.2 then r
    else
      let x := r.1.ssGet p n w
      match x.2 with
      | none => (x.1, true)
      | some c => if unusable c then (x.1.updChip n (fun k => { k with lost := s.ssAt p n w }), true) else (x.1, false)) (s, false)
  r.1.lostState p n step

/-- Part numbers: rule tensor i, anchor, row counts, touched bitmap. -/
def pTensor (i : Nat) : Nat := 2 + i
def pAnchor (d : BitVec 640) : Nat := (dParts d 1).length - (if dSparse d then 2 else 0)
def pCounts (d : BitVec 640) (thin : Nat) : Nat := (dParts d thin).length - 2
def pTouched (d : BitVec 640) (thin : Nat) : Nat := (dParts d thin).length - 1

/-- HALF on this ring (R461). -/
def State.half (s : State) (r : BitVec 128) : Nat :=
  if s.ring.ring = 1 ∧ (rtHalf r = 1 ∨ rtHalf r = 2) then 3 - rtHalf r else rtHalf r

/-- Elements of a shard that a half retains. -/
def halfRange (half len : Nat) : Nat × Nat :=
  let h := min len ((len / 2 + 16383) / 16384 * 16384)
  match half with
  | 1 => (0, h)
  | 2 => (h, len)
  | 3 => (0, len)
  | _ => (0, 0)

/-- Pieces of the state area that cover a range of a shard's elements, in the order of R360: first byte, words. -/
def retPieces (d : BitVec 640) (thin lo hi : Nat) : List (Nat × Nat) :=
  let vec := fun i => (partAt d thin i + 4 * lo, hi - lo)
  let st := match dRule d with
    | 2 => [vec 2, vec 3]
    | 3 => (if lo = 0 then [(partAt d thin 2, dRows d), (partAt d thin 3, dCols d)] else [])
           ++ (if hasB1 d then [vec 4] else [])
    | 4 => [vec 2, vec 3]
    | 6 =>
      let bs := dBlocks d
      let mine := fun (b : Nat × Nat × Nat × Nat) => decide (lo ≤ b.1 * dCols d) && decide (b.1 * dCols d < hi)
      let before := ((bs.takeWhile (fun b => !mine b)).map blockWords).sum
      [vec 2, (partAt d thin 3 + 4 * before, ((bs.filter mine).map blockWords).sum)]
    | _ => [vec 2]
  let r0 := (lo + dCols d - 1) / max 1 (dCols d); let r1 := (hi + dCols d - 1) / max 1 (dCols d)
  if hi ≤ lo then []
  else [vec 0] ++ st ++ (if 2 ≤ thin then [vec (pAnchor d)] else [])
    ++ (if dSparse d then [(partAt d thin (pCounts d thin) + 4 * r0, r1 - r0)] else [])

/-! ### Arithmetic (R352, R353) -/

/-- Runs an operation and counts its events. -/
def ev {α : Type} (r : α × Events) : StateM Events α := fun e => (r.1, e.add r.2)

/-- Runs operations from no event. -/
def runEv {α : Type} (x : StateM Events α) : α × Events := x {}

/-- Correctly rounded division. -/
def cdiv (a b : Word32) : Word32 × Events :=
  let x := dec32 a; let y := dec32 b
  let e := x.sigEv.add y.sigEv
  match x, y with
  | .nan _, _ => (nan32, e)
  | _, .nan _ => (nan32, e)
  | .inf _, .inf _ => (nan32, evInvalid)
  | .inf s, .num t _ _ => (inf32 (s != t), {})
  | .num s _ _, .inf t => (zero32 (s != t), {})
  | .num s m e, .num t m' e' =>
    if m' = 0 then (if m = 0 then (nan32, evInvalid) else (inf32 (s != t), {}))
    else if m = 0 then (zero32 (s != t), {})
    else let (q, f) := quotient m e m' e' 30; rnd32 .even (Val.num (s != t) q f).dy

/-- 1/n, correctly rounded. -/
def rcpNat (n : Nat) : Word32 := (cdiv one32 (toW (.num false n 0)).1).1
def wordNat (n : Nat) : Word32 := (toW (.num false n 0)).1

/-- An exact sum of products, rounded once. -/
def dotV (l : List (Val × Val)) : Word32 × Events :=
  let ps := l.map (fun x => mulV x.1 x.2)
  let e := sumEv (l.map (fun x => x.1.sigEv.add x.2.sigEv))
  let inf := fun (neg : Bool) => ps.any (fun v => decide (v = .inf neg))
  if ps.any Val.isNan then
    (nan32, e.add (if l.all (fun x => !(x.1.isNan || x.2.isNan)) then evInvalid else {}))
  else if inf true && inf false then (nan32, e.add evInvalid)
  else if inf true then (inf32 true, e)
  else if inf false then (inf32 false, e)
  else
    let d := (ps.map Val.dy).foldl Dy.add ⟨0, 0⟩
    if d.m = 0 then
      (zero32 (!ps.isEmpty && ps.all (fun v => match v with | .num n m _ => n && decide (m = 0) | _ => false)), e)
    else let r := rnd32 .even d; (r.1, e.add r.2)

/-- Adds one level of the tree over pairs. -/
def treeLevel (l : List (Option Word32)) : StateM Events (List (Option Word32)) :=
  (chunks 2 l).mapM (fun c => match c.getD 0 none, c.getD 1 none with
    | some a, some b => do let r ← ev (fadd a b); pure (some r)
    | some a, none => pure (some a)
    | none, b => pure b)
def treeSum (n : Nat) (l : List (Option Word32)) : StateM Events (List (Option Word32)) :=
  match n with
  | 0 => pure l
  | n + 1 => do let l ← treeLevel l; treeSum n l

/-- The Bortis sum order (R353): 1,024 lanes by index, then the tree; `sq` sums squares. -/
def bortisSum (sq : Bool) (l : List Word32) : StateM Events Word32 := do
  match chunks 1024 l with
  | [] => pure 0#32
  | c :: rest =>
    let first ← c.mapM (fun x => if sq then ev (fmul x x) else pure x)
    let lanes ← rest.foldlM (fun (acc : List Word32) r => do
      let l ← (acc.zip r).mapM (fun (a, x) => if sq then ev (ffma x x a) else ev (fadd a x))
      pure (l ++ acc.drop r.length)) first
    let t ← treeSum 10 (lanes.map some ++ List.replicate (1024 - lanes.length) none)
    pure ((t.headD none).getD 0#32)

/-- Sums sequentially, the first value taken as it is. -/
def seqSum (l : List Word32) : StateM Events Word32 :=
  match l with
  | [] => pure 0#32
  | a :: r => r.foldlM (fun acc x => ev (fadd acc x)) a

/-- Adds vectors sequentially, element by element. -/
def vecSum (l : List (List Word32)) : StateM Events (List Word32) :=
  match l with
  | [] => pure []
  | a :: r => r.foldlM (fun (acc : List Word32) x => (acc.zip x).mapM (fun (u, v) => ev (fadd u v))) a

/-! ### The guidon (R380, R381) -/

def f64zero : Word64 := 0
def f64one : Word64 := 0x3FF0000000000000#64
def f64two : Word64 := 0x4000000000000000#64
def dmax (a b : Word64) : Word64 := if dlt a b then b else a

/-- The restart loop: u and T of the cycle that holds a step. -/
def cycle (fuel u t mult : Nat) : Nat × Nat :=
  match fuel with
  | 0 => (u, t)
  | n + 1 => if t ≤ u then cycle n (u - t) (min (t * mult) (2 ^ 64 - 1)) mult else (u, t)

/-- guidon(sc, s). -/
def guidon (sc : Sched) (s : Nat) : Word64 :=
  let w := sc.warmSteps
  let r :=
    if s < w then
      let x := ddiv (dofNat (s + 1)) (dofNat w)
      if sc.warm = 1 then x else ddiv (dsub f64one (cospi x)) f64two
    else
      let u := s - w
      let c := if sc.mult = 0 then (u, sc.decaySteps) else if sc.mult = 1 then (u % max 1 sc.decaySteps, sc.decaySteps)
               else cycle 70 u sc.decaySteps sc.mult
      let u := c.1; let t := c.2
      let rho := widen sc.rho
      let x := if sc.decay = 1 ∨ sc.decay = 2 then ddiv (dofNat (min u t)) (dofNat t) else ddiv (dofNat u) (dofNat t)
      match sc.decay with
      | 1 => dadd rho (ddiv (dmul (dsub f64one rho) (dadd f64one (cospi x))) f64two)
      | 2 => dsub f64one (dmul (dsub f64one rho) x)
      | 3 => dmax rho (powr (widen sc.gamma) x)
      | 4 => dmax rho (dsqrt (ddiv f64one (dadd f64one x)))
      | 5 => dmax rho (powr (widen sc.gamma) (dofNat (u / max 1 t)))
      | _ => f64one
  dmul (widen sc.peak) r

/-- pow_int(β, t) over the 64 bits of t, the most significant first. -/
def powInt (b : Word64) (t : Nat) : Word64 :=
  (List.range 64).foldl (fun r i =>
    let r := dmul r r
    if t / 2 ^ (63 - i) % 2 = 1 then dmul r b else r) f64one

/-- The bias correction of β at t: the exact 1 − pow_int(β, t), rounded once. -/
def biasCorr (beta : Word32) (t : Nat) : Word32 × Events := addV (dec32 one32) (dec64 (dneg (powInt (widen beta) t)))

/-- The schedule that applies to step t of a schedule object (R382). -/
def SchedSt.at (x : SchedSt) (t : Nat) : Sched :=
  if x.pending && decide (x.commitStep ≤ t) then x.committed
  else if t < x.start then x.earlier else x.inForce

/-! ### The rules, element by element (R372, R374) -/

def one' (d : BitVec 640) (b : BitVec 640 → Word32) : Word32 := (fsub one32 (b d)).1

/-- SGD_MOMENTUM: w, m. -/
def ruleSgd (d : BitVec 640) (lr w m g : Word32) : StateM Events (Word32 × Word32) := do
  let m ← ev (ffma (dB1 d) m g)
  let dd ← if dNesterov d then ev (ffma (dB1 d) m g) else pure m
  let t ← ev (ffma (dWd d) w dd)
  let w ← ev (ffma (fneg lr) t w)
  pure (w, m)

/-- The moments of ADAM_DW. -/
def adamMoments (d : BitVec 640) (m v g : Word32) : StateM Events (Word32 × Word32) := do
  let cg ← ev (fmul (one' d dB1) g)
  let m ← ev (ffma (dB1 d) m cg)
  let gg ← ev (fmul g g)
  let cg ← ev (fmul (one' d dB2) gg)
  let v ← ev (ffma (dB2 d) v cg)
  pure (m, v)

/-- The direction of ADAM_DW. -/
def adamDir (d : BitVec 640) (bc1 bc2 m v : Word32) : StateM Events Word32 := do
  let a ← ev (cdiv m bc1)
  let b ← ev (cdiv v bc2)
  let q ← ev (fsqrt b)
  let q ← ev (fadd q (dEps d))
  ev (cdiv a q)

/-- ADAM_DW: w, m, v. -/
def ruleAdam (d : BitVec 640) (lr bc1 bc2 w m v g : Word32) : StateM Events (Word32 × Word32 × Word32) := do
  let (m, v) ← adamMoments d m v g
  let u ← adamDir d bc1 bc2 m v
  let t ← ev (ffma (dWd d) w u)
  let w ← ev (ffma (fneg lr) t w)
  pure (w, m, v)

/-- sign(k): ±0 and NaN pass through. -/
def signWord (k : Word32) : Word32 :=
  match dec32 k with
  | .nan _ => k
  | .inf x => if x then fneg one32 else one32
  | .num x m _ => if m = 0 then k else if x then fneg one32 else one32

/-- SIGN_MOMENTUM: w, m. -/
def ruleSign (d : BitVec 640) (lr w m g : Word32) : StateM Events (Word32 × Word32) := do
  let cg ← ev (fmul (one' d dB1) g)
  let k ← ev (ffma (dB1 d) m cg)
  let t ← ev (ffma (dWd d) w (signWord k))
  let w ← ev (ffma (fneg lr) t w)
  let cg ← ev (fmul (one' d dB2) g)
  let m ← ev (ffma (dB2 d) m cg)
  pure (w, m)

/-- Moves a weight against a direction with decoupled decay. -/
def stepW (d : BitVec 640) (lr w u : Word32) : StateM Events Word32 := do
  let t ← ev (ffma (dWd d) w u)
  ev (ffma (fneg lr) t w)

/-! ### Block preconditioning (R375 to R377) -/

/-- A row-major matrix of `c` columns. -/
abbrev Mat := List (List Word32)
def matOf (c : Nat) (l : List Word32) : Mat := chunks (max 1 c) l
def Mat.tr (n : Nat) (a : List (List Word32)) : Mat := (List.range n).map (fun j => a.map (fun r => r.getD j 0))
/-- The product of two matrices, b given transposed. -/
def mulT (a bt : Mat) : StateM Events Mat :=
  a.mapM (fun r => bt.mapM (fun c => ev (dotV ((r.map dec32).zip (c.map dec32)))))
def matMap (f : Nat → Nat → Word32 → StateM Events Word32) (a : Mat) : StateM Events Mat :=
  (a.mapIdx (fun i r => (i, r))).mapM (fun (i, r) => (r.mapIdx (fun j x => (j, x))).mapM (fun (j, x) => f i j x))
def ident (n : Nat) : Mat := (List.range n).map (fun i => (List.range n).map (fun j => if i = j then one32 else 0#32))

/-- sqrt applied log₂ p times. -/
def proot (k : Nat) (x : Word32) : StateM Events Word32 :=
  match k with
  | 0 => pure x
  | k + 1 => do let y ← ev (fsqrt x); proot k y

/-- The diagonal root. -/
def diagRoot (k : Nat) (a : Mat) (dd : Word32) : StateM Events Mat :=
  matMap (fun i j x => if i = j then do
      let y ← ev (fadd x dd)
      let r ← proot k y
      ev (cdiv one32 r)
    else pure 0#32) a

def squareN (k n : Nat) (t : Mat) : StateM Events Mat :=
  match k with
  | 0 => pure t
  | k + 1 => do let u ← mulT t (Mat.tr n t); squareN k n u

/-- Whether max |M − I| ≤ 2^-12. -/
def converged (m : Mat) : StateM Events Bool := do
  let e ← matMap (fun i j x => ev (fsub x (if i = j then one32 else 0#32))) m
  pure (e.all (fun r => r.all (fun x => decide ((fabs x).toNat ≤ 0x39800000))))

/-- The Newton iteration: none where it does not converge. -/
def newtonGo (fuel k n : Nat) (x m : Mat) : StateM Events (Option Mat) :=
  match fuel with
  | 0 => pure none
  | f + 1 => do
    let p1 := wordNat (2 ^ k + 1); let rp := rcpNat (2 ^ k)
    let t ← matMap (fun i j y => do
      let d ← ev (fsub (if i = j then p1 else 0#32) y)
      ev (fmul d rp)) m
    let x ← mulT x (Mat.tr n t)
    let tp ← squareN k n t
    let m ← mulT tp (Mat.tr n m)
    let ok ← converged m
    if ok then pure (some x) else newtonGo f k n x m

/-- The pivots of the unpivoted LDLᵀ factorisation in ascending index order (R376): each row below the pivot's loses its factor
l = a / d times the pivot's row, every operator rounding once. -/
def pivots (fuel : Nat) (a : Mat) : StateM Events (List Word32) :=
  match fuel, a with
  | k + 1, row :: below => do
    let d := row.headD 0#32
    let rest ← below.mapM (fun (r : List Word32) => do
      let l ← ev (cdiv (r.headD 0#32) d)
      (r.tail.zip row.tail).mapM (fun (x, u) =>
        if Config.ldlFused then ev (ffma (fneg l) u x) else do let t ← ev (fmul l u); ev (fsub x t)))
    let ds ← pivots k rest
    pure (d :: ds)
  | _, _ => pure []

/-- The smallest and the largest of a list without NaN. -/
def extremes (l : List Word32) : Word32 × Word32 :=
  (l.foldl (fun a x => if (fcmp .lt x a).1 then x else a) (l.headD 0#32),
   l.foldl (fun a x => if (fcmp .gt x a).1 then x else a) (l.headD 0#32))

/-- The damping tries: d and Ad of the first that passes the pivot test, or the last d. A NaN pivot fails it. -/
def damp (tries : List Word32) (a : Mat) (piMin : Word32) : StateM Events (Word32 × Option Mat) :=
  match tries with
  | [] => pure (0#32, none)
  | d :: rest => do
    let ad ← matMap (fun i j x => if i = j then ev (fadd x d) else pure x) a
    let ps ← pivots ad.length ad
    let (lo, hi) := extremes ps
    let lim ← ev (fmul piMin hi)
    if ps.all (fun x => (fcmp .gt x 0#32).1) && (fcmp .ge lo lim).1 then pure (d, some ad)
    else if rest.isEmpty then pure (d, none) else damp rest a piMin

/-- inv_root of R376 for p = 2^k, and whether it fell back to the diagonal root. -/
def invRoot (delta piMin : Word32) (k n : Nat) (a : Mat) : StateM Events (Mat × Bool) := do
  let t ← ev (dotV ((a.mapIdx (fun i r => r.getD i 0)).map (fun x => (dec32 x, dec32 one32))))
  if fabs t = 0 then pure (ident n, false)
  else
    let tr ← ev (fmul t (rcpNat n))
    let d0 ← ev (fmul delta tr)
    let d1 ← ev (fmul d0 (wordNat 16))
    let d2 ← ev (fmul d0 (wordNat 256))
    let (d, ad) ← damp [d0, d1, d2] a piMin
    match ad with
    | none => let r ← diagRoot k a d; pure (r, true)
    | some ad =>
      let sq ← ev (dotV (ad.flatten.map (fun x => (dec32 x, dec32 x))))
      let f ← ev (fsqrt sq)
      let f2 ← ev (fmul f (wordNat 2))
      let z ← ev (cdiv (wordNat (2 ^ k + 1)) f2)
      let pz ← proot k z
      let x := (ident n).map (fun r => r.map (fun y => if y = one32 then pz else 0#32))
      let m ← matMap (fun _ _ y => ev (fmul z y)) ad
      match ← newtonGo 40 k n x m with
      | some x => pure (x, false)
      | none =>
        let back ← matMap (fun i j x => if i = j then ev (fsub x d) else pure x) ad
        let r ← diagRoot k back d
        pure (r, true)

end Sys2Proof.Machine
end

