-- ==== Sys2Proof/Machine/Reduce.lean ====
section
/-! DEFINITION. Gradient pushes, accumulation, and the reduction of buckets over the replicas of a stage (09, 10). -/

namespace Sys2Proof.Machine

/-! ### Counters -/

def State.upd (s : State) (p : Nat) (f : UpdCtrs → UpdCtrs) : State := s.updSlot p (fun x => { x with upd := f x.upd })
def State.redC (s : State) (p : Nat) (f : RedCtrs → RedCtrs) : State := s.updSlot p (fun x => { x with red := f x.red })

/-- Whether this module's chips may work for a slot: no rollback of it is pending. -/
def State.chipsRun (s : State) (p : Nat) : Bool :=
  decide ((s.slot p).state ≠ .free) && !(s.slot p).mirror.pending

/-! ### Reduction messages: encoding (R332 to R336) -/

/-- One wire block in BF16: bytes and trailer. -/
def blockBf16 (vs : List Word32) : List Byte × BitVec 64 × Events :=
  let es := vs.map (fun v => toIeee shapeBf .even (dec32 v))
  let amax := match amaxLog (vs.map dec32) with | none => 0 | some a => (max 0 (min 254 (a + 127))).toNat
  (es.flatMap (fun e => bytesLE 2 e.1), BitVec.ofNat 64 (amax * 2 ^ 48), sumEv (es.map (·.2)))

/-- One wire block in E4M3 with a scale code: bytes and trailer. -/
def blockE4M3 (scale : Nat) (vs : List Word32) : List Byte × BitVec 64 × Events :=
  let es := vs.map (fun v => toNarrow 3 .even true ((dec32 v).scale (127 - (scale : Int))))
  let amax := match amaxLog (vs.map dec32) with | none => 0 | some a => (max 0 (min 254 (a + 127))).toNat
  let e := sumEv (es.map (·.2))
  (es.map (fun e => BitVec.ofNat 8 e.1), BitVec.ofNat 64 (scale * 2 ^ 56 + amax * 2 ^ 48 + e.saturate % 65536), e)

/-- A reduction header (Table 9.4). -/
def redHdr (kind : Nat) (resend : Bool) (replica : Nat) (d : BitVec 128) (step : Nat) : BitVec 256 :=
  BitVec.ofNat 256 (kind * 2 ^ 248 + b2n resend * 2 ^ 247 + replica % 64 * 2 ^ 241 + bkChip d * 2 ^ 239 + bkNum d * 2 ^ 208
    + step % 2 ^ 64 * 2 ^ 144 + bkTensor d * 2 ^ 120 + (bkBlocks d - 1) * 2 ^ 108)

/-- A message of one bucket: `base` is 1 for a contribution, 3 for a result; `next` the scales for the next exchange. -/
def redMsg (base : Nat) (bf16 resend : Bool) (replica : Nat) (d : BitVec 128) (step : Nat) (scales : List Nat)
    (vals : List Word32) (next : List (Nat × Nat)) : RedMsg × Events :=
  let bs := (chunks 1024 vals).mapIdx (fun i v => if bf16 then blockBf16 v else blockE4M3 (scales.getD i 0) v)
  let tr := bs.mapIdx (fun i b =>
    let n := next.getD i (0, 0)
    b.2.1 ||| BitVec.ofNat 64 (n.1 % 256 * 2 ^ 40 + n.2 % 256 * 2 ^ 32))
  (⟨redHdr (base + b2n bf16) resend replica d step, bs.map (·.1), tr⟩, sumEv (bs.map (·.2.2)))

/-- The messages a sender forms for a bucket, the one in force last (R335, R336). -/
def redMsgs (base satLimit replica : Nat) (d : BitVec 128) (step : Nat) (scales : List Nat) (vals : List Word32)
    (next : List (Nat × Nat)) : List RedMsg × Events :=
  let vals := vals ++ List.replicate (1024 * bkBlocks d - vals.length) 0#32
  if scales.any (fun x => decide (x = 255)) then
    let m := redMsg base true false replica d step scales vals next
    ([m.1], m.2)
  else
    let m := redMsg base false false replica d step scales vals next
    if m.1.trailer.any (fun e => decide (satLimit < teSat e)) then
      let r := redMsg base true true replica d step scales vals next
      ([m.1, r.1], m.2.add r.2)
    else ([m.1], m.2)

/-- Data units of a message: header, payload, trailer padded to 32 bytes. -/
def redUnits (m : RedMsg) : List (BitVec 256) :=
  let body := m.blocks.flatten ++ m.trailer.flatMap (fun e => bytesLE 8 e.toNat)
  m.hdr :: (chunks 32 body).map (fun b => BitVec.ofNat 256 (leNat b))

/-- A message's elements, decoded exactly. -/
def redVals (m : RedMsg) : List Val :=
  (m.blocks.mapIdx (fun i b =>
    if rmBf16 m then (chunks 2 b).map (fun x => decodeShape shapeBf (leNat x))
    else b.map (fun x => (decodeShape shapeE4M3 x.toNat).scale ((teScale (m.trailer.getD i 0) : Int) - 127)))).flatten

/-- Sends a message to a replica's module on VC 1, with the counts of Table 9.9. -/
def State.sendRed (s : State) (p pos : Nat) (m : RedMsg) : State :=
  let sat := (m.trailer.map teSat).sum
  let s := s.redC p (fun c => { c with
    c1 := c.c1 + b2n (decide (rmKind m ≤ 2) && !rmResend m), c3 := c.c3 + sat, c4 := c.c4 + b2n (rmResend m),
    c6 := c.c6 + b2n (rmBf16 m && !rmResend m) })
  let us := redUnits m
  s.sendTo 1 s.ring.ring pos (s.slot p).tenant us

/-! ### Bucket bookkeeping -/

def Slot.bucketIx (x : Slot) (num : Nat) : Option Nat :=
  let i := x.buckets.findIdx (fun b => decide (bkNum b.desc = num))
  if i < x.buckets.length then some i else none
def State.bucket (s : State) (p i : Nat) : Bucket := (s.slot p).buckets.getD i { desc := 0 }
def State.updBucket (s : State) (p i : Nat) (f : Bucket → Bucket) : State :=
  s.updSlot p (fun x => { x with buckets := x.buckets.modify i f })
/-- Position of the module that sums a bucket. -/
def Slot.ownerPos (x : Slot) (d : BitVec 128) : Option Nat :=
  (x.stagePositions.find? (fun e => decide (e.2 = bkOwner d))).map (·.1)

/-- A fault of the reduction: it is logged and the pennant rolls back. -/
def State.redFault (s : State) (p code : Nat) (m : RedMsg) (src : Nat) : State :=
  s.rollbackFault p { code := code, siteKind := .chip, site := siteNum (rmChip m), step := rmStep m, detail0 := rmBucket m, detail1 := src }

/-- The exchange step that follows step l: the next one, or with N ≥ 2 the next s with (s + 1) mod N = 0 (R345). -/
def nextEx (thin : Nat) (l : Int) : Int := (l + 1 + max 1 thin) / max 1 thin * max 1 thin - 1
/-- The two exchange steps that a bucket takes messages of after step l (R342). -/
def inWindow (thin : Nat) (l st : Int) : Bool := decide (st = nextEx thin l) || decide (st = nextEx thin (nextEx thin l))

/-! ### Applying a result (R338, R339, R343, R347) -/

/-- First byte of a bucket's elements in a part of a shard's state area. -/
def bucketAt (d : BitVec 640) (thin part : Nat) (b : BitVec 128) : Nat := partAt d thin part + 4 * (bkOffset b - dOff d)

/-- Whether a message's scales are those of a table; a BF16 message carries none. -/
def scalesAgree (m : RedMsg) (table : List Nat) : Bool :=
  rmBf16 m || ((m.trailer.map teScale) == table)

/-- With N ≥ 2, a shard whose every bucket has its result writes its working copy back. -/
def State.resultsIn (s : State) (p n i step : Nat) : Bool :=
  match s.shard? p n i with
  | none => false
  | some h => (s.slot p).buckets.all (fun b =>
      !(decide (bkTensor b.desc = dTensor h.desc) && decide (bkChip b.desc = n)) || decide ((step : Int) ≤ b.lastRes))

/-- A decoded value as FP32, with the invalid event of a signalling NaN (R90). -/
def decoded (v : Val) : Word32 × Events := let r := toW v; (r.1, r.2.add v.sigEv)

/-- Whether every bucket with an element of row r of a shard has the result of a step applied. -/
def State.rowIn (s : State) (p n : Nat) (d : BitVec 640) (step r : Nat) : Bool :=
  (s.slot p).buckets.all (fun b =>
    let lo := bkOffset b.desc - dOff d
    !(decide (bkTensor b.desc = dTensor d) && decide (bkChip b.desc = n) && decide (lo < (r + 1) * dCols d) && decide (r * dCols d < lo + bkElems b.desc))
      || decide ((step : Int) ≤ b.lastRes))

/-- Decides the touched bits of the rows of a SPARSE shard that some elements of a result lie in: a row whose every bucket is in
is touched where the accumulator now holds an element of it other than +0 (R378). -/
def State.touchRows (s : State) (p n : Nat) (d : BitVec 640) (step first len : Nat) : State :=
  let thin := (s.slot p).thin
  let cols := max 1 (dCols d)
  let at_ := partAt d thin (pTouched d thin)
  let t := s.getVec p n at_ ((dShardRows d + 31) / 32)
  match t.2 with
  | none => t.1.lostState p n step
  | some ws =>
    let rows := ((List.range ((first + len + cols - 1) / cols - first / cols)).map (first / cols + ·)).filter (s.rowIn p n d step)
    let r := rows.foldl (fun (r : State × Option (List Word32)) k =>
      match r.2 with
      | none => r
      | some ws =>
        let v := r.1.getVec p n (partAt d thin 1 + 4 * (k * cols)) cols
        (v.1, v.2.map (fun l => ws.modify (k / 32) (fun w => putFld w (k % 32) (k % 32) (b2n (l.any (fun x => decide (x ≠ 0)))))))) (t.1, some ws)
    match r.2 with
    | none => r.1.lostState p n step
    | some ws => r.1.putVec p n at_ ws

/-- Applies a complete result to the accumulator (N = 1) or to the masters and anchors (N ≥ 2), and stores its scales. -/
def State.applyResult (s : State) (p i : Nat) (m : RedMsg) : State :=
  let b := s.bucket p i
  let n := bkChip b.desc
  let step := rmStep m
  if ¬ scalesAgree m b.scaleR then
    (s.redFault p 0x6170 m ((s.slot p).ownerPos b.desc |>.getD 0)).updBucket p i (fun b => { b with withheld := b.withheld ++ [step] })
  else
    let s := s.updBucket p i (fun b => { b with lastRes := (step : Int), scaleC := m.trailer.map teNextC, scaleR := m.trailer.map teNextR })
    match s.shardIx p n (bkTensor b.desc) with
    | none => s
    | some j =>
      match s.shard? p n j with
      | none => s
      | some h =>
        let thin := (s.slot p).thin
        let vals := ((redVals m).take (bkElems b.desc)).map decoded
        let s := s.events p (sumEv (vals.map (·.2)))
        let first := bkOffset b.desc - dOff h.desc
        if thin < 2 then
          let s := s.putVec p n (bucketAt h.desc thin 1 b.desc) (vals.map (·.1))
          if dSparse h.desc then s.touchRows p n h.desc step first vals.length else s
        else
          let q := rcpNat (s.slot p).replicas
          let a := s.getVec p n (bucketAt h.desc thin (pAnchor h.desc) b.desc) (bkElems b.desc)
          match a.2 with
          | none => a.1.lostState p n step
          | some anchor =>
            let r := (anchor.zip (vals.map (·.1))).map (fun (x, y) => let z := fmul y q; let w := fadd x z.1; (w.1, z.2.add w.2))
            let ws := r.map (·.1)
            let s := a.1.events p (sumEv (r.map (·.2)))
            let s := s.putVec p n (bucketAt h.desc thin 0 b.desc) ws
            let s := s.putVec p n (bucketAt h.desc thin (pAnchor h.desc) b.desc) ws
            -- a row of the set is touched where any element of it, in any bucket, is other than +0 (R378)
            let rows := (((vals.map (·.1)).mapIdx (fun k w => (dRow0 h.desc + (first + k) / max 1 (dCols h.desc), w))).filter
              (fun e => decide (e.2 ≠ 0))).map (·.1) |>.dedup
            let s := if dSparse h.desc then s.updShard p n j (fun h => { h with
                wbRows := h.wbRows ++ rows.filter (fun r => !(r ∈ h.wbRows)) }) else s
            if s.resultsIn p n j step then s.updShard p n j (fun h => { h with awaitRes := false, wbPending := h.wbPending || h.awaitRes })
            else s

/-- A result message that is complete: the next step's result is applied, with a held one after it. -/
def State.takeResult (s : State) (p i : Nat) (m : RedMsg) : State :=
  let b := s.bucket p i
  let thin := (s.slot p).thin
  if (rmStep m : Int) = nextEx thin b.lastRes then
    let s := s.applyResult p i m
    let b := s.bucket p i
    match b.resHeld.find? (fun x => decide ((x.1 : Int) = nextEx thin b.lastRes)) with
    | some x =>
      let s := s.updBucket p i (fun b => { b with resHeld := b.resHeld.erase x })
      s.applyResult p i x.2
    | none => s
  else s.updBucket p i (fun b => { b with resHeld := b.resHeld ++ [(rmStep m, m)] })

/-! ### The reduction region (R341, R359) -/

/-- Bytes of a bucket's BF16 message. -/
def redSize (d : BitVec 128) : Nat := 32 + 2048 * bkBlocks d + (8 * bkBlocks d + 31) / 32 * 32

/-- First byte in the owner chip's reduction region for an early contribution of a position to a bucket (DESIGN CHOICE, log 34:
the manual gives the region's size and no placement): by step, then position, then bucket. -/
def State.redPlace (s : State) (p i step pos : Nat) : Nat :=
  let x := s.slot p
  let d := (s.bucket p i).desc
  let mine := fun (b : Bucket) => if x.ownerPos b.desc = some s.ring.pos ∧ bkChip b.desc = bkChip d then redSize b.desc else 0
  let others := (x.stagePositions.map (·.1)).filter (fun q => decide (q ≠ s.ring.pos))
  let k := if x.wsets.any wsOverlap then 2 else 1
  chReduce (s.chipSlot p (bkChip d)).header * unit64
    + (step / max 1 x.thin % k * others.length + others.findIdx (fun q => decide (q = pos))) * (x.buckets.map mine).sum
    + ((x.buckets.take i).map mine).sum

/-- Keeps a complete contribution: an early one from elsewhere lies, as it was sent, in the reduction region. -/
def State.keepContrib (s : State) (p i pos : Nat) (m : RedMsg) (early : Bool) : State :=
  if early ∧ pos ≠ s.ring.pos then
    (s.putRun p (bkChip (s.bucket p i).desc) (s.redPlace p i (rmStep m) pos) ((redUnits m).flatMap hdrWords)).updBucket p i (fun b =>
      { b with held := b.held ++ [(rmStep m, pos, { m with blocks := [] })] })
  else s.updBucket p i (fun b => { b with held := b.held ++ [(rmStep m, pos, m)] })

/-- A kept contribution with its wire blocks; none where a word of it cannot be used. -/
def State.fetchContrib (s : State) (p i : Nat) (h : Nat × Nat × RedMsg) : State × Option RedMsg :=
  let m := h.2.2
  if m.blocks ≠ [] then (s, some m)
  else
    let k := if rmBf16 m then 2048 else 1024
    let r := s.getRun p (bkChip (s.bucket p i).desc) (s.redPlace p i h.1 h.2.1) (2 + k * rmBlocks m / 16)
    (r.1, r.2.map (fun ws => { m with blocks := chunks k ((ws.drop 2).flatMap (fun c => bytesLE 16 (codeData (checkedWord c)).toNat)) }))

/-! ### Summing at the owner (R337, R340 to R343) -/

/-- agree of R337 for one wire block. -/
def agree (amax : List Nat) (sum : Nat) : Nat × Nat := (min 254 (amax.foldl max 0 - 7), min 254 (sum - 7))

/-- The sum is complete: scales are agreed, the result is encoded, sent to every other replica and applied here. -/
def State.sumDone (s : State) (p i : Nat) (step : Nat) : State :=
  let b := s.bucket p i
  let x := s.slot p
  let vals := b.acc.take (bkElems b.desc)
  let sums := (chunks 1024 vals).map (fun v => match amaxLog (v.map dec32) with | none => 0 | some a => (max 0 (min 254 (a + 127))).toNat)
  let next := sums.mapIdx (fun k t => agree (b.amax.map (fun l => l.getD k 0)) t)
  let (ms, e) := redMsgs 3 x.satLimit x.replica b.desc step b.scaleR vals next
  let s := (s.events p e).redC p (fun c => { c with c2 := c.c2 + 1 })
  let later := fun (h : Nat × Nat × RedMsg) => decide (step < h.1)
  let s := s.updBucket p i (fun b => { b with lastSum := (step : Int), summed := [], acc := [], amax := [],
                                              held := b.held.filter later, pending := b.pending.filter later })
  let others := (x.stagePositions.filter (fun e => decide (e.1 ≠ s.ring.pos))).map (·.1)
  let s := others.foldl (fun s pos => ms.foldl (fun s m => s.sendRed p pos m) s) s
  match ms.getLast? with
  | some m => s.takeResult p i m
  | none => s

/-- Adds complete contributions of the step under way in ascending position while the next is there. -/
def State.sumMore (fuel : Nat) (s : State) (p i : Nat) : State :=
  match fuel with
  | 0 => s
  | k + 1 =>
    let b := s.bucket p i
    let x := s.slot p
    let step := (nextEx x.thin b.lastSum).toNat
    let ps := x.stagePositions.map (·.1)
    match ps.find? (fun q => !(q ∈ b.summed)) with
    | none => if ps = [] then s else s.sumDone p i step
    | some q =>
      match b.held.find? (fun h => decide (h.1 = step) && decide (h.2.1 = q)) with
      | none => s
      | some h =>
        if step ∈ b.withheld then s
        else if ¬ scalesAgree h.2.2 b.scaleC then
          (s.redFault p 0x6170 h.2.2 q).updBucket p i (fun b => { b with withheld := b.withheld ++ [step] })
        else
          let f := s.fetchContrib p i h
          match f.2 with
          | none => f.1.lostState p (bkChip b.desc) step
          | some m =>
            let vs := (redVals m).take (bkElems b.desc)
            let acc := if b.summed = [] then List.replicate (bkElems b.desc) 0#32 else b.acc
            let r := (acc.zip vs).map (fun (a, v) => addV (dec32 a) v)
            let s := f.1.events p (sumEv (r.map (·.2)))
            let s := s.updBucket p i (fun b => { b with summed := b.summed ++ [q], acc := r.map (·.1),
                                                        amax := b.amax ++ [m.trailer.map teAmax] })
            State.sumMore k s p i

/-- Whether a message stands complete by itself (R341). -/
def redComplete (satLimit : Nat) (m : RedMsg) : Bool := rmBf16 m || m.trailer.all (fun e => decide (teSat e ≤ satLimit))

/-- The owner takes a contribution of a position within its window (R342). -/
def State.takeContrib (s : State) (p i pos : Nat) (m : RedMsg) : State :=
  let b := s.bucket p i
  let step := rmStep m
  let here := fun (h : Nat × Nat × RedMsg) => decide (h.1 = step) && decide (h.2.1 = pos)
  let whole := b.held.find? here
  let part := b.pending.find? here
  let ok := redComplete (s.slot p).satLimit m
  match whole with
  | some _ =>
    if ¬ ok ∧ ¬ rmResend m ∧ (step, pos) ∈ b.resent then s.updBucket p i (fun b => { b with resent := b.resent.erase (step, pos) })
    else s.redFault p 0x6171 m pos
  | none =>
    if part ≠ none ∧ ¬ rmResend m then s.redFault p 0x6171 m pos
    else if ok then
      let ps := (s.slot p).stagePositions.map (·.1)
      let early := decide ((step : Int) ≠ nextEx (s.slot p).thin b.lastSum) || decide (ps.find? (fun q => !(q ∈ b.summed)) ≠ some pos)
      let ahead : Bool := rmResend m && decide (part = none)
      let s := (s.keepContrib p i pos m early).updBucket p i (fun b =>
        { b with pending := b.pending.filter (fun h => !here h), resent := b.resent ++ (if ahead then [(step, pos)] else []) })
      let s := if early then s.redC p (fun c => { c with c5 := c.c5 + 1 }) else s
      -- a completed sum may be followed by the next step's
      State.sumMore 130 s p i
    else s.updBucket p i (fun b => { b with pending := b.pending ++ [(step, pos, m)] })

/-- Whether a message's length is that of its kind and blocks. -/
def redLen (m : RedMsg) : Bool :=
  decide (m.blocks.length = rmBlocks m) && decide (m.trailer.length = rmBlocks m)
    && m.blocks.all (fun b => decide (b.length = if rmBf16 m then 2048 else 1024))

/-- The checks of R342 under 0x6173; the bucket's index where they pass. -/
def State.redCheck (s : State) (p src : Nat) (m : RedMsg) (result : Bool) : Option Nat :=
  let x := s.slot p
  match x.bucketIx (rmBucket m) with
  | none => none
  | some i =>
    let d := (s.bucket p i).desc
    let kindOk := if result then decide (rmKind m = 3) || decide (rmKind m = 4) else decide (rmKind m = 1) || decide (rmKind m = 2)
    let roleOk := if result then decide (x.ownerPos d = some src) else decide (x.ownerPos d = some s.ring.pos)
    if kindOk && decide (rmTensor m = bkTensor d) && decide (rmChip m = bkChip d) && decide (rmBlocks m = bkBlocks d) && redLen m && roleOk
    then some i else none

/-- REDUCTION_CONTRIBUTION. -/
def State.contribution (s : State) (p src : Nat) (m : RedMsg) : State :=
  if 16 ≤ p ∨ ¬ s.chipsRun p then s
  else
    let s := s.gotUnits p (redUnits m).length
    match s.redCheck p src m false with
    | none => s.redFault p 0x6173 m src
    | some i =>
      let b := s.bucket p i
      let st : Int := rmStep m
      if st ≤ b.lastSum ∧ ¬ redComplete (s.slot p).satLimit m ∧ ¬ rmResend m ∧ (rmStep m, src) ∈ b.resent then
        s.updBucket p i (fun b => { b with resent := b.resent.erase (rmStep m, src) })
      else if ¬ inWindow (s.slot p).thin b.lastSum st then s.redFault p 0x6172 m src
      else if rmStep m ∈ b.withheld then s
      else s.takeContrib p i src m

def execReductionContribution (p src : Nat) (m : RedMsg) (s : State) : Res := .next (s.contribution p src m)

/-- REDUCTION_RESULT. -/
def State.result (s : State) (p src : Nat) (m : RedMsg) : State :=
  if 16 ≤ p ∨ ¬ s.chipsRun p then s
  else
    let s := s.gotUnits p (redUnits m).length
    match s.redCheck p src m true with
    | none => s.redFault p 0x6173 m src
    | some i =>
      let b := s.bucket p i
      let st : Int := rmStep m
      let ok := redComplete (s.slot p).satLimit m
      let held := b.resHeld.any (fun h => decide (h.1 = rmStep m))
      let part := b.resPending.any (fun h => decide (h.1 = rmStep m))
      let replaced : Bool := !ok && !rmResend m && decide (rmStep m ∈ b.resentRes)
      if replaced then s.updBucket p i (fun b => { b with resentRes := b.resentRes.erase (rmStep m) })
      else if st ≤ b.lastRes ∧ b.base < st ∧ ok ∧ ((s.slot p).thin < 2 ∨ (rmStep m + 1) % (s.slot p).thin = 0) then s.redFault p 0x6171 m src
      else if ¬ inWindow (s.slot p).thin b.lastRes st then s.redFault p 0x6172 m src
      else if rmStep m ∈ b.withheld then s
      else if held then s.redFault p 0x6171 m src
      else if part ∧ ¬ rmResend m then s.redFault p 0x6171 m src
      else if ok then
        let ahead : Bool := rmResend m && !part
        (s.updBucket p i (fun b => { b with
          resPending := b.resPending.filter (fun h => decide (h.1 ≠ rmStep m)),
          resentRes := b.resentRes ++ (if ahead then [rmStep m] else []) })).takeResult p i m
      else s.updBucket p i (fun b => { b with resPending := b.resPending ++ [(rmStep m, m)] })

def execReductionResult (p src : Nat) (m : RedMsg) (s : State) : Res := .next (s.result p src m)

/-! ### Sending contributions (R334, R335, R347) -/

/-- Sends the contribution of every bucket of a shard: the accumulator, or with N ≥ 2 the deltas. -/
def State.contribute (s : State) (p n i step : Nat) : State :=
  match s.shard? p n i with
  | none => s
  | some h =>
    let x := s.slot p
    let thin := x.thin
    (List.range x.buckets.length).foldl (fun s k =>
      let b := s.bucket p k
      if bkTensor b.desc ≠ dTensor h.desc ∨ bkChip b.desc ≠ n then s
      else
        let a := s.getVec p n (bucketAt h.desc thin (if thin < 2 then 1 else 0) b.desc) (bkElems b.desc)
        match a.2 with
        | none => a.1.lostState p n step
        | some vs =>
          let s := a.1
          let r : State × Option (List Word32 × Events) :=
            if 2 ≤ thin then
              let c := s.getVec p n (bucketAt h.desc thin (pAnchor h.desc) b.desc) (bkElems b.desc)
              (c.1, c.2.map (fun an => let l := (vs.zip an).map (fun (w, y) => fsub w y); (l.map (·.1), sumEv (l.map (·.2)))))
            else if dSparse h.desc then
              let c := s.getVec p n (partAt h.desc thin (pTouched h.desc thin)) ((dShardRows h.desc + 31) / 32)
              (c.1, c.2.map (fun ts => (vs.mapIdx (fun j v =>
                let row := (bkOffset b.desc + j - dOff h.desc) / max 1 (dCols h.desc)
                if bit (ts.getD (row / 32) 0) (row % 32) then v else 0#32), {})))
            else (s, some (vs, {}))
          match r.2 with
          | none => r.1.lostState p n step
          | some (vs, e) =>
            let (ms, e') := redMsgs 1 x.satLimit x.replica b.desc step b.scaleC vs []
            let s := (r.1.events p e).events p e'
            match x.ownerPos b.desc with
            | none => s
            | some q =>
              if q = s.ring.pos then (match ms.getLast? with | some m => s.takeContrib p k q m | none => s)
              else ms.foldl (fun s m => s.sendRed p q m) s) s

/-! ### Pushes (R361 to R365) -/

/-- Bytes of n elements of a push, whole blocks where the format is scaled, and of their scales. -/
def pushElemBytes (f n : Nat) : Nat := ((if fmtScaled f then padTo32 n else n) * fmtBits f + 7) / 8
def pushScaleBytes (f n : Nat) : Nat := if fmtScaled f then (n + 31) / 32 * (if fmtSwallow f then 2 else 1) else 0
def up32 (n : Nat) : Nat := (n + 31) / 32 * 32

/-- Decodes n elements and their scales from a byte list. -/
def pushDecode (f n : Nat) (bs : List Byte) : List (Word32 × Events) :=
  let eb := pushElemBytes f n
  let sc := bs.drop eb
  ((unpack (fmtBits f) (bs.take eb)).take n).mapIdx (fun i c =>
    let k := if fmtSwallow f then leNat ((sc.drop (2 * (i / 32))).take 2) else leNat ((sc.drop (i / 32)).take 1)
    decoded (decodeElem f k (i % 32) c))

/-- The data bytes of a push. -/
def pushBytes (m : PushMsg) : List Byte := m.words.flatMap (fun w => bytesLE 16 (codeData (checkedWord w)).toNat)

/-- Records of a sparse push: row, elements. -/
def pushRows (d : BitVec 640) (m : PushMsg) : List (Nat × List (Word32 × Events)) :=
  let f := phFmt m.hdr
  let size := 32 + up32 (pushElemBytes f (dCols d) + pushScaleBytes f (dCols d))
  let bs := pushBytes m
  (List.range (phCount m.hdr)).map (fun i =>
    let r := (bs.drop (i * size)).take size
    (leNat (r.take 4), pushDecode f (dCols d) (r.drop 32)))

/-- Bytes of a push with its header. -/
def pushSize (m : PushMsg) : Nat := 32 + 16 * m.words.length

/-- Whether a push agrees with a shard's descriptor and the chip header (R362). -/
def pushOk (d : BitVec 640) (mbPerStep chip : Nat) (m : PushMsg) : Bool :=
  let h := m.hdr
  let f := phFmt h
  let need := if dSparse d then phCount h * (32 + up32 (pushElemBytes f (dCols d) + pushScaleBytes f (dCols d)))
              else pushElemBytes f (phCount h) + pushScaleBytes f (phCount h)
  decide (f = dFmt d) && (phSparse h == dSparse d) && decide (phChip h = chip) && decide (fld h 224 192 = 0) && decide (fld h 111 0 = 0)
    && decide (m.mb < mbPerStep) && decide (need ≤ 16 * m.words.length)
    && (if dSparse d then
          let rows := (pushRows d m).map (·.1)
          decide (phOffset h = 0)
            && rows.all (fun r => decide (dRow0 d ≤ r) && decide (r < dRow0 d + dShardRows d))
            && (rows.zip rows.tail).all (fun (a, b) => decide (a < b))
        else decide (phOffset h % 32 = 0) && decide (dOff d ≤ phOffset h) && decide (phOffset h + phCount h ≤ dOff d + dLen d))

/-- A fault of the chip about a push: nothing is added. -/
def State.pushFault (s : State) (p n code : Nat) (m : PushMsg) : State :=
  let r : ErrRec := { code := code, siteKind := .chip, site := siteNum n, mb := m.mb, step := m.step, detail0 := phTensor m.hdr }
  if code = 0x7101 then s.rollbackFault p r else s.programFault p r

/-- The last micro-batch of the step is in: the shard's buckets contribute where replicas reduce gradients. -/
def State.accFull (s : State) (p n i : Nat) : State :=
  match s.shard? p n i with
  | none => s
  | some h =>
    if h.mb = chMb (s.chipSlot p n).header ∧ 2 ≤ (s.slot p).replicas ∧ (s.slot p).thin < 2 then s.contribute p n i h.accStep
    else s

/-- Adds a push of the lowest incomplete micro-batch to the accumulator (R363, R364). -/
def State.addPush (s : State) (p n i : Nat) (m : PushMsg) : State :=
  match s.shard? p n i with
  | none => s
  | some h =>
    let d := h.desc
    let thin := (s.slot p).thin
    let put := fun (s : State) (at_ : Nat) (fresh : Bool) (es : List (Word32 × Events)) =>
      let s := s.events p (sumEv (es.map (·.2)))
      if fresh then some (s.putVec p n at_ (es.map (·.1)))
      else
        let a := s.getVec p n at_ es.length
        a.2.map (fun l =>
          let r := (l.zip es).map (fun (x, y) => fadd x y.1)
          (a.1.events p (sumEv (r.map (·.2)))).putVec p n at_ (r.map (·.1)))
    let done := fun (s : State) (k : Nat) =>
      let s := (s.upd p (fun c => { c with c1 := c.c1 + 1 })).work p 12 4 k
      let s := s.updShard p n i (fun h =>
        let a := h.added + (if dSparse d then 1 else k)
        if (if dSparse d then decide (1 ≤ a) else decide (dLen d ≤ a)) then { h with mb := h.mb + 1, added := 0 } else { h with added := a })
      s.accFull p n i
    let lost := fun (s : State) => s.lostShard p n m.step d thin
    if dSparse d then
      let ta := partAt d thin (pTouched d thin)
      let t := s.getVec p n ta ((dShardRows d + 31) / 32)
      match t.2 with
      | none => t.1.lostState p n m.step
      | some ts =>
        let rows := pushRows d m
        let r := rows.foldl (fun (r : Option (State × List Word32)) (row, es) =>
          r.bind (fun (s, ts) =>
            let k := row - dRow0 d
            (put s (partAt d thin 1 + 4 * (row * dCols d - dOff d)) (!bit (ts.getD (k / 32) 0) (k % 32)) es).map (fun s =>
              (s, ts.modify (k / 32) (fun w => putFld w (k % 32) (k % 32) 1))))) (some (t.1, ts))
        match r with
        | none => lost t.1
        | some (s, ts) => done (s.putVec p n ta ts) (rows.length * dCols d)
    else if dLen d < h.added + phCount m.hdr then s.pushFault p n 0x7105 m
    else
      match put s (partAt d thin 1 + 4 * (phOffset m.hdr - dOff d)) (decide (m.mb = 0)) (pushDecode (phFmt m.hdr) (phCount m.hdr) (pushBytes m)) with
      | none => lost s
      | some s => done s (phCount m.hdr)

/-- Takes a push off the tier link. -/
def State.offTier (s : State) (p n : Nat) (m : PushMsg) : State :=
  { s with out := { s.out with tier := s.out.tier.erase (p, n, m) } }

/-- Bytes of a held push. -/
def HeldPush.size (q : HeldPush) : Nat := 32 + 16 * q.words

/-- Bytes the pennants hold in a chip's hold areas. -/
def State.holdBytes (s : State) (n : Nat) : Nat :=
  (s.slots.map (fun x => ((tget x.chips n {}).hold.map HeldPush.size).sum)).sum

/-- The lowest byte of a hold area at which a push of some bytes has room (DESIGN CHOICE, log 34: the manual gives no
placement). -/
def holdPlace (area size : Nat) (hold : List HeldPush) : Option Nat :=
  let free := fun (a : Nat) => decide (a + size ≤ area) && hold.all (fun q => decide (a + size ≤ q.at_) || decide (q.at_ + q.size ≤ a))
  let l := (0 :: hold.map (fun q => q.at_ + q.size)).filter free
  l.min?

/-- Writes a push, still encoded, into the hold area (R365). -/
def State.holdPush (s : State) (p n a : Nat) (m : PushMsg) : State :=
  let s := s.putRun p n (chHold (s.chipSlot p n).header * unit64 + a) (hdrWords m.hdr ++ m.words)
  let s := s.updChipSlot p n (fun c => { c with hold := c.hold ++ [⟨a, m.hdr, m.words.length, m.step, m.mb⟩] })
  let s := s.upd p (fun u => { u with c2 := u.c2 + 1 })
  s.updChip n (fun k => { k with high := max k.high (s.holdBytes n) })

/-- Reads a held push back; none where a word of it cannot be used. -/
def State.heldRead (s : State) (p n : Nat) (q : HeldPush) : State × Option PushMsg :=
  let r := s.getRun p n (chHold (s.chipSlot p n).header * unit64 + q.at_) (2 + q.words)
  (r.1, r.2.map (fun ws => ⟨q.hdr, ws.drop 2, q.step, q.mb⟩))

/-- The words of a push as the tier link delivers them: each that cannot be corrected is logged and becomes poison (R284). -/
def State.tierWords (s : State) (p n : Nat) (m : PushMsg) : State × PushMsg :=
  let bad := (m.words.filter (fun w => decide (rsDecide w = .uncorrectable))).length
  ((List.range bad).foldl (fun s _ => s.logFor p { code := 0x4106, siteKind := .chip, site := siteNum n, step := m.step, mb := m.mb }) s,
   { m with words := m.words.map (fun w => if rsDecide w = .uncorrectable then poison else w) })

/-- PUSH: checked, then added, held, or left waiting at the die. A push with a poisoned word is not added: the chip treats it as
a word of its state that it cannot use (R322, R438). -/
def State.push (s : State) (p n : Nat) (m : PushMsg) : State :=
  if 16 ≤ p ∨ 4 ≤ n ∨ ¬ s.chipsRun p then s
  else
    match s.shardIx p n (phTensor m.hdr) with
    | none => (s.offTier p n m).pushFault p n 0x7105 m
    | some i =>
      match s.shard? p n i with
      | none => s
      | some h =>
        let c := s.chipSlot p n
        let lap : Bool := match (s.slot p).wset? (dTensor h.desc) with | some w => wsOverlap w | none => false
        let t := (s.offTier p n m).tierWords p n m
        if t.2.words.any unusable then t.1.withhold p n { code := 0x4108, siteKind := .chip, site := siteNum n, step := m.step, mb := m.mb }
        else if ¬ pushOk h.desc (chMb c.header) n m then (s.offTier p n m).pushFault p n 0x7105 m
        else if m.step ≠ h.count ∧ ¬ (lap ∧ m.step = h.count + 1) then (s.offTier p n m).pushFault p n 0x7101 m
        else if h.accStep < m.step then s
        else if m.step < h.accStep ∨ m.mb < h.mb then (s.offTier p n m).pushFault p n 0x7105 m
        else if m.mb = h.mb then (s.offTier p n m).addPush p n i m
        else
          match holdPlace (chHoldSize c.header * unit64) (pushSize m) c.hold with
          | none => s
          | some a => (s.offTier p n m).holdPush p n a m

def execPush (p chip : Nat) (m : PushMsg) (s : State) : Res := .next (s.push p chip m)

/-- HELD_PUSH_ADD: a held push whose micro-batch is now the lowest incomplete one is added. -/
def State.heldPushAdd (s : State) (p n k : Nat) : State :=
  if 16 ≤ p ∨ 4 ≤ n ∨ ¬ s.chipsRun p then s
  else
    match ((s.chipSlot p n).hold)[k]? with
    | none => s
    | some q =>
      match s.shardIx p n (phTensor q.hdr) with
      | none => s
      | some i =>
        match s.shard? p n i with
        | none => s
        | some h =>
          if q.step = h.accStep ∧ q.mb ≤ h.mb then
            let r := s.heldRead p n q
            let s := r.1.updChipSlot p n (fun c => { c with hold := c.hold.eraseIdx k })
            match r.2 with
            | none => s.lostState p n q.step
            | some m => if q.mb = h.mb then s.addPush p n i m else s.pushFault p n 0x7105 m
          else s

def execHeldPushAdd (p chip ix : Nat) (s : State) : Res := .next (s.heldPushAdd p chip ix)

/-! ### The gather pass (R271) -/

/-- Bytes of a gather slot of n FP32 elements: whole 32-byte words. -/
def slotBytes (n : Nat) : Nat := (4 * n + 31) / 32 * 32

/-- Slots of the tie-gather region in order of group and use: weight-set entry, first byte. -/
def Slot.gatherSlots (x : Slot) : List (BitVec 128 × Nat) :=
  let ws := x.wsets.filter (fun w => decide (wsTie w ≠ 63))
  let sorted := (List.range 63).flatMap (fun g => (List.range 16).flatMap (fun u =>
    ws.filter (fun w => decide (wsTie w = g) && decide (wsUse w = u))))
  let size := fun (w : BitVec 128) =>
    match x.shards.find? (fun h => decide (dTensor h.2.desc = wsTensor w)) with
    | some h => slotBytes (dRows h.2.desc * dCols h.2.desc)
    | none => 0
  (sorted.foldl (fun (l : List (BitVec 128 × Nat) × Nat) w => (l.1 ++ [(w, l.2)], l.2 + size w))
    ([], sdGather x.stashDesc * unit64)).1

/-- Reads n FP32 words from a pennant-relative stack byte; where one cannot be used, its stack word number. -/
def State.stackVec (s : State) (p a n : Nat) : State × Except Nat (List Word32) :=
  let r := (List.range ((4 * n + 15) / 16)).foldl (fun (r : State × Except Nat (List Word32)) i =>
    match r.2 with
    | .error _ => r
    | .ok l =>
      let x := r.1.stackWordIn p (a / 16 + i)
      match x.2 with
      | none => (x.1, .error (a / 16 + i))
      | some c => if unusable c then (x.1, .error (a / 16 + i)) else (x.1, .ok (l ++ wordLanes (checkedWord c)))) (s, .ok [])
  (r.1, r.2.map (fun l => l.take n))

/-- Elements in a push's format: element bytes, then scale bytes (R113, R361). -/
def pushEncode (f : Nat) (vs : List Word32) : List Byte × Events :=
  if fmtScaled f then
    let bs := (chunks 32 vs).map (fun l =>
      toBlock f none (fun _ => .even) ((l.map dec32) ++ List.replicate (32 - l.length) (.num false 0 0)))
    let codes := bs.flatMap (fun b => b.2.1)
    let k := if fmtSwallow f then 2 else 1
    (bytesLE (pushElemBytes f vs.length) (pack (fmtBits f) codes) ++ bs.flatMap (fun b => bytesLE k b.1), sumEv (bs.map (fun b => b.2.2)))
  else
    let es := vs.map (fun v => if f ≤ 2 then toIeee (fmtShape f) .even (dec32 v) else toNarrow f .even true (dec32 v))
    (bytesLE (pushElemBytes f vs.length) (pack (fmtBits f) (es.map (·.1))), sumEv (es.map (·.2)))

/-- Code words of a byte list, padded with zeros to whole 32-byte words. -/
def byteWords (bs : List Byte) : List Code160 :=
  (chunks 16 (bs ++ List.replicate (up32 bs.length - bs.length) 0)).map (fun b => encodeWord (BitVec.ofNat 128 (leNat b)))

/-- The push of a set's summed gradient to one shard. -/
def gatherPush (n : Nat) (d : BitVec 640) (step mb : Nat) (sum : List Word32) : PushMsg × Events :=
  let mine := (sum.drop (dOff d)).take (dLen d)
  let hdr := fun (count off : Nat) => BitVec.ofNat 256 (dTensor d * 2 ^ 232 + dFmt d * 2 ^ 228 + b2n (dSparse d) * 2 ^ 227 + n * 2 ^ 225
    + off * 2 ^ 152 + count * 2 ^ 112)
  if dSparse d then
    let rows := ((chunks (max 1 (dCols d)) mine).mapIdx (fun k r => (dRow0 d + k, r))).filter (fun (_, r) => r.any (fun w => decide (w ≠ 0)))
    let rs := rows.map (fun (k, r) =>
      let e := pushEncode (dFmt d) r
      (bytesLE 32 k ++ e.1 ++ List.replicate (up32 e.1.length - e.1.length) 0, e.2))
    (⟨hdr rows.length 0, byteWords (rs.flatMap (·.1)), step, mb⟩, sumEv (rs.map (·.2)))
  else
    let e := pushEncode (dFmt d) mine
    (⟨hdr (dLen d) (dOff d), byteWords e.1, step, mb⟩, e.2)

/-- Sums the slots of a tensor and forms its pushes; where a slot cannot be read, the stack word number. -/
def State.gatherSum (s : State) (p tensor step mb : Nat) : State × Except Nat (List (Nat × PushMsg)) :=
  let x := s.slot p
  match x.shards.find? (fun h => decide (dTensor h.2.desc = tensor)) with
  | none => (s, .ok [])
  | some (_, h0) =>
    let n := dRows h0.desc * dCols h0.desc
    let slots := x.gatherSlots.filter (fun w => decide (wsTensor w.1 = tensor))
    let r := slots.foldl (fun (r : State × Except Nat (List (List Word32))) w =>
      match r.2 with
      | .error _ => r
      | .ok l => let v := r.1.stackVec p w.2 n; (v.1, v.2.map (fun v => l ++ [v]))) (s, .ok [])
    match r.2 with
    | .error k => (r.1, .error k)
    | .ok vs =>
      let t := (vecSum vs) {}
      let ps := x.shards.filterMap (fun (c, h) => if dTensor h.desc = tensor then some (c, gatherPush c h.desc step mb t.1) else none)
      ((r.1.events p t.2).events p (sumEv (ps.map (fun q => q.2.2))), .ok (ps.map (fun q => (q.1, q.2.1))))

end Sys2Proof.Machine
end

