-- ==== Sys2Proof/Machine/Update.lean ====
section
/-! DEFINITION. Bortis updates: the owner exchange, the rules, retention, permits and the write-back of the working copy
(10, 12). -/

namespace Sys2Proof.Machine

/-! ### The layout of a working copy (R385) -/

/-- A block of a working copy: its elements (index within the shard, or none for padding; place in the copy) and its
number in block order. -/
structure WcBlock where
  elems : List (Option Nat × Nat)
  entry : Nat
  deriving DecidableEq, Repr, Inhabited

/-- The blocks whose first element lies in [lo, hi) of a shard; `second`: the block axis is the second dimension. -/
def wcBlocks (d : BitVec 640) (f : Nat) (second : Bool) (lo hi : Nat) : List WcBlock :=
  let cols := max 1 (dCols d)
  let a := dOff d + lo; let b := dOff d + hi
  if ¬ fmtScaled f then
    (chunks 32 (List.range (hi - lo))).map (fun l => ⟨l.map (fun k => (some (lo + k), a + k)), 0⟩)
  else if second then
    (List.range ((b / cols + 32) / 32 - a / cols / 32)).flatMap (fun k =>
      let rg := a / cols / 32 + k
      (List.range cols).filterMap (fun c =>
        let g := 32 * rg * cols + c
        if a ≤ g ∧ g < b then some ⟨(List.range 32).map (fun i =>
          let r := 32 * rg + i
          (if r < dRows d then some (r * cols + c - dOff d) else none, r * cols + c)), rg * cols + c⟩
        else none))
  else
    let bl := (cols + 31) / 32
    (List.range (b / cols + 1 - a / cols)).flatMap (fun k =>
      let r := a / cols + k
      (List.range bl).filterMap (fun j =>
        let g := r * cols + 32 * j
        if a ≤ g ∧ g < b then some ⟨(List.range 32).map (fun i =>
          let c := 32 * j + i
          (if c < cols then some (r * cols + c - dOff d) else none, r * bl * 32 + c)), r * bl + j⟩
        else none))

/-- Bytes of the elements of a whole copy, and the place of its scale array. -/
def wcElemBytes (d : BitVec 640) (f : Nat) (second : Bool) : Nat :=
  let n := if ¬ fmtScaled f then dRows d * dCols d
           else if second then padTo32 (dRows d) * dCols d else dRows d * padTo32 (dCols d)
  (n * fmtBits f + 7) / 8
def wcScaleAt (d : BitVec 640) (f : Nat) (second : Bool) (base : Nat) : Nat :=
  base + (wcElemBytes d f second + unit64 - 1) / unit64 * unit64

/-- The bits a write of converted blocks covers at a stack byte. -/
def wcCover (d : BitVec 640) (f : Nat) (second : Bool) (base : Nat) (bs : List (WcBlock × Nat × List Nat)) : Tbl (Nat × Nat) :=
  let sc := if fmtSwallow f then 16 else 8
  bs.foldl (fun t (b, scale, codes) =>
    let t := (b.elems.zip codes).foldl (fun t (e, c) => coverBits t (8 * base + e.2 * fmtBits f) (fmtBits f) c) t
    if fmtScaled f then coverBits t (8 * wcScaleAt d f second base + b.entry * sc) sc scale else t) []

/-- Stack word numbers a range of a shard's elements occupies in a copy. -/
def wcWords (d : BitVec 640) (f : Nat) (second : Bool) (base lo hi : Nat) : List Nat :=
  (wcCover d f second base ((wcBlocks d f second lo hi).map (fun b => (b, 0, b.elems.map (fun _ => 0))))).map (·.1)

/-- Conversion control word of the alternate copy: BLOCK_AXIS inverted (R384). -/
def altConv (w : Word64) : Word64 := w ^^^ 0x20#64

/-- Converts masters into version `ver` of a copy at a stack byte: the covered bits and events. -/
def wcConvert (x : Slot) (d : BitVec 640) (w : Word64) (base ver : Nat) (rows : Option (List Nat)) (ms : List Word32) :
    Tbl (Nat × Nat) × Events :=
  let f := fld w 15 12
  let second := bit w 5
  let cols := max 1 (dCols d)
  let mine := fun (b : WcBlock) => match rows with
    | none => true
    | some l => b.elems.any (fun e => match e.1 with | some k => decide ((dOff d + k) / cols ∈ l) | none => false)
  let seed := x.seed.at ver
  let bs := ((wcBlocks d f second 0 (dLen d)).filter mine).map (fun b =>
    let vs := b.elems.map (fun e => match e.1 with | some k => dec32 (ms.getD k 0) | none => Val.num false 0 0)
    let rd := fun k => convRnd w seed ver 0xFFFF (dOff d + (((b.elems.getD k (none, 0)).1).getD 0))
    (b, convBlock w rd vs))
  (wcCover d f second base (bs.map (fun b => (b.1, b.2.1, b.2.2.1))), sumEv (bs.map (fun b => b.2.2.2)))

/-! ### Retention (R461 to R464) -/

/-- Byte address of the copy of an OVERLAP set that step s reads (R272). -/
def readCopy (w : BitVec 128) (s : Nat) : Nat := (if s = 0 ∨ (s - 1) % 2 = 0 then wsCopy w else wsShadow w) * unit64

/-- Words of the working copy retained for a range of a shard: those of an OVERLAP set that step s reads. -/
def Slot.retWc (x : Slot) (d : BitVec 640) (s lo hi : Nat) : List Nat :=
  match x.wset? (dTensor d) with
  | some w => if wsOverlap w ∧ lo < hi then wcWords d (fld (dConv d) 15 12) (bit (dConv d) 5) (readCopy w s) lo hi else []
  | none => []

/-- Units of the retention area a shard's range takes. -/
def Slot.retUnits (x : Slot) (d : BitVec 640) (lo hi : Nat) : Nat :=
  ((retPieces d x.thin lo hi).map (fun q => units64 q.2)).sum + units64 (4 * (x.retWc d 1 lo hi).length)

/-- First byte of shard i's part of a chip's retention area, and the elements it retains. -/
def State.retAt (s : State) (p n i : Nat) : Nat × Nat × Nat :=
  let x := s.slot p
  let c := s.chipSlot p n
  let range := fun (h : Shard) => halfRange (s.half c.retention) (dLen h.desc)
  let before := (c.shards.take i).map (fun h => let r := range h; x.retUnits h.desc r.1 r.2)
  let r := match c.shards[i]? with | some h => range h | none => (0, 0)
  ((rtAddr c.retention + before.sum) * unit64, r.1, r.2)

/-- Copies pieces of the state space to a byte, each at a 64 KiB boundary; `back` reverses the direction. -/
def State.copyPieces (s : State) (p n at_ : Nat) (back : Bool) (ps : List (Nat × Nat)) : State × Nat × Bool :=
  ps.foldl (fun (r : State × Nat × Bool) q =>
    let src := if back then r.2.1 else q.1
    let dst := if back then q.1 else r.2.1
    let v := r.1.getVec p n src q.2
    match v.2 with
    | none => (v.1, r.2.1 + units64 q.2 * unit64, false)
    | some l => (v.1.putVec p n dst l, r.2.1 + units64 q.2 * unit64, r.2.2)) (s, at_, true)

/-- Writes what a shard retains before its first write of step t. -/
def State.retain (s : State) (p n i t : Nat) : State :=
  match s.shard? p n i with
  | none => s
  | some h =>
    let (at_, lo, hi) := s.retAt p n i
    if hi ≤ lo ∨ h.retStep = some t then s
    else
      let x := s.slot p
      let (s, at2, _) := s.copyPieces p n at_ false (retPieces h.desc x.thin lo hi)
      let s := ((x.retWc h.desc t lo hi).mapIdx (fun k w => (k, w))).foldl (fun s (k, w) =>
        let g := s.stackWordIn p w
        match g.2 with
        | none => g.1
        | some c => g.1.ssPut p n (at2 / 16 + k) c) s
      s.updShard p n i (fun h => { h with retStep := some t })

/-- Restores a shard's retained half to the start of step t. -/
def State.unretain (s : State) (p n i t : Nat) : State × Bool :=
  match s.shard? p n i with
  | none => (s, true)
  | some h =>
    let (at_, lo, hi) := s.retAt p n i
    let x := s.slot p
    let (s, at2, ok) := s.copyPieces p n at_ true (retPieces h.desc x.thin lo hi)
    (((x.retWc h.desc t lo hi).mapIdx (fun k w => (k, w))).foldl (fun s (k, w) =>
      let g := s.ssGet p n (at2 / 16 + k)
      match g.2 with
      | none => g.1
      | some c => g.1.putWords p [(16 * w, c)]) s, ok)

/-! ### Applying a rule (R371 to R379) -/

/-- Chips that own a shard of a set, ascending. -/
def State.owners (s : State) (p tensor : Nat) : List Nat := (List.range 4).filter (fun n => (s.shardIx p n tensor).isSome)

/-- The learning rate of a set at step t (R371). -/
def State.lrOf (s : State) (p : Nat) (d : BitVec 640) (t : Nat) : Word32 × Events :=
  toW (mulV (dec64 (guidon (((s.slot p).scheds.getD (dSched d) {}).at t) t)) (dec32 (dLr d)))

/-- Rows whose touched bit is set, from the words of the bitmap. -/
def touchedRows (rows : Nat) (ws : List Word32) : List Nat :=
  (List.range rows).filter (fun r => bit (ws.getD (r / 32) 0) (r % 32))

/-- Gradients g = acc · G_MULT. -/
def scaleG (d : BitVec 640) (acc : List Word32) : StateM Events (List Word32) := acc.mapM (fun a => ev (fmul a (dG d)))

/-- Reads several vectors. -/
def State.getVecs (s : State) (p n : Nat) (l : List (Nat × Nat)) : State × Option (List (List Word32)) :=
  l.foldl (fun (r : State × Option (List (List Word32))) (a, k) =>
    match r.2 with
    | none => r
    | some vs => let v := r.1.getVec p n a k; (v.1, v.2.map (fun v => vs ++ [v]))) (s, some [])

/-- Writes several vectors and counts events. -/
def State.putVecs (s : State) (p n : Nat) (e : Events) (l : List (Nat × List Word32)) : State :=
  (l.foldl (fun s (a, v) => s.putVec p n a v) s).events p e

/-- A one-pass rule on elements [lo, lo + len) of a shard. -/
def State.ruleRange (s : State) (p n : Nat) (d : BitVec 640) (thin lo len : Nat) (lr bc1 bc2 : Word32) : Option State :=
  let vec := fun i => partAt d thin i + 4 * lo
  if dRule d = 2 then
    let r := s.getVecs p n [(vec 1, len), (vec 0, len), (vec 2, len), (vec 3, len)]
    r.2.map (fun l =>
      let o := runEv (do
        let g ← scaleG d (l.getD 0 [])
        ((l.getD 1 []).zip ((l.getD 2 []).zip ((l.getD 3 []).zip g))).mapM (fun (w, m, v, g) => ruleAdam d lr bc1 bc2 w m v g))
      r.1.putVecs p n o.2 [(vec 0, o.1.map (·.1)), (vec 2, o.1.map (·.2.1)), (vec 3, o.1.map (·.2.2))])
  else
    let r := s.getVecs p n [(vec 1, len), (vec 0, len), (vec 2, len)]
    r.2.map (fun l =>
      let o := runEv (do
        let g ← scaleG d (l.getD 0 [])
        ((l.getD 1 []).zip ((l.getD 2 []).zip g)).mapM (fun (w, m, g) =>
          if dRule d = 5 then ruleSign d lr w m g else ruleSgd d lr w m g))
      r.1.putVecs p n o.2 [(vec 0, o.1.map (·.1)), (vec 2, o.1.map (·.2))])

/-- Counts a shard's element operations (R371). -/
def State.elemOps (s : State) (p k : Nat) : State := s.work p 12 4 k

/-- The one-pass rules over a dense or a SPARSE shard; none where a word cannot be used. -/
def State.onePass (s : State) (p n i : Nat) (h : Shard) : Option State :=
  let d := h.desc
  let thin := (s.slot p).thin
  let t := h.count
  let (lr, e) := s.lrOf p d t
  let s := s.events p e
  if dSparse d then
    let rows := dShardRows d
    let r := s.getVecs p n [(partAt d thin (pTouched d thin), (rows + 31) / 32), (partAt d thin (pCounts d thin), rows)]
    r.2.bind (fun l =>
      let touched := touchedRows rows (l.getD 0 [])
      let counts := l.getD 1 []
      let raised := touched.map (fun k => (k, min ((counts.getD k 0).toNat + 1) 0xFFFFFFFF))
      let sat := raised.filter (fun x => decide (x.2 = 0xFFFFFFFF) && decide ((counts.getD x.1 0).toNat ≠ 0xFFFFFFFF))
      let counts := raised.foldl (fun (cs : List Word32) x => cs.set x.1 (BitVec.ofNat 32 x.2)) counts
      let s := r.1.putVec p n (partAt d thin (pCounts d thin)) counts
      let s := s.upd p (fun c => { c with c6 := c.c6 + sat.length })
      let s := match sat with
        | [] => s
        | x :: _ => if h.saturated then s
          else (s.logSlot p { code := 0x7102, siteKind := .chip, site := siteNum n, step := t, detail0 := dRow0 d + x.1, detail1 := dTensor d }).updShard p n i
            (fun h => { h with saturated := true })
      let s := s.elemOps p (touched.length * dCols d)
      raised.foldl (fun (o : Option State) (k, c) => o.bind (fun s =>
        let b1 := if dBias d then biasCorr (dB1 d) c else (one32, {})
        let b2 := if dBias d then biasCorr (dB2 d) c else (one32, {})
        State.ruleRange ((s.events p b1.2).events p b2.2) p n d thin (k * dCols d) (dCols d) lr b1.1 b2.1)) (some s))
  else
    let b1 := if dBias d then biasCorr (dB1 d) (t + 1) else (one32, {})
    let b2 := if dBias d then biasCorr (dB2 d) (t + 1) else (one32, {})
    let s := ((s.events p b1.2).events p b2.2).elemOps p (dLen d)
    s.ruleRange p n d thin 0 (dLen d) lr b1.1 b2.1

/-- BLOCK_PRECOND (R375): statistics, roots where due, direction, weights. -/
def State.blockRule (s : State) (p n : Nat) (h : Shard) : Option State :=
  let d := h.desc
  let thin := (s.slot p).thin
  let (lr, e) := s.lrOf p d h.count
  let bs := dBlocks d
  let cols := dCols d
  let r := (s.events p e).getVecs p n [(partAt d thin 1, dLen d), (partAt d thin 0, dLen d), (partAt d thin 2, dLen d),
                                      (partAt d thin 3, (bs.map blockWords).sum)]
  let due := decide (h.count % max 1 (dEvery d) = 0)
  let root := if dRoot d = 0 then 1 else if dRoot d = 1 then 2 else 3
  r.2.map (fun l =>
    let o := runEv (do
      let g ← scaleG d (l.getD 0 [])
      bs.foldlM (fun (a : List Word32 × List Word32 × List Word32 × Nat × Nat) b => do
        let (w, m, st, at_, bad) := a
        let (r0, b1, c0, b2) := b
        let G : Mat := (List.range b1).map (fun i => (g.drop ((r0 + i) * cols + c0)).take b2)
        let GT := Mat.tr b2 G
        let part := fun (k sz : Nat) => (st.drop (at_ + k)).take sz
        let sl := matOf b1 (part 0 (b1 * b1)); let sr := matOf b2 (part (b1 * b1) (b2 * b2))
        let gl ← mulT G G
        let gr ← mulT GT GT
        let mix := fun (S P : Mat) => (S.zip P).mapM (fun (u, v) => (List.zip u v).mapM (fun (x, y) => do
          let c ← ev (fmul (one' d dB2) y)
          ev (ffma (dB2 d) x c)))
        let sl ← mix sl gl
        let sr ← mix sr gr
        let k := b1 * b1 + b2 * b2
        let (xl, xr, bad) ← (if due then do
            let (xl, f1) ← invRoot (dA d) (dB d) root b1 sl
            let (xr, f2) ← invRoot (dA d) (dB d) root b2 sr
            pure (xl, xr, bad + b2n (f1 || f2))
          else pure (matOf b1 (part k (b1 * b1)), matOf b2 (part (k + b1 * b1) (b2 * b2)), bad))
        let pl ← mulT xl GT
        let P ← mulT pl (Mat.tr b2 xr)
        let (w, m) ← ((List.range b1).flatMap (fun i => (List.range b2).map (fun j => (i, j)))).foldlM (fun (wm : List Word32 × List Word32) (i, j) => do
          let e := (r0 + i) * cols + c0 + j
          let c ← ev (fmul (one' d dB1) ((P.getD i []).getD j 0))
          let mv ← ev (ffma (dB1 d) (wm.2.getD e 0) c)
          let wv ← stepW d lr (wm.1.getD e 0) mv
          pure (wm.1.set e wv, wm.2.set e mv)) (w, m)
        let st := st.take at_ ++ (sl.flatten ++ sr.flatten ++ xl.flatten ++ xr.flatten) ++ st.drop (at_ + 2 * k)
        pure (w, m, st, at_ + 2 * k, bad)) (l.getD 1 [], l.getD 2 [], l.getD 3 [], 0, 0))
    let (w, m, st, _, bad) := o.1
    let s := r.1.putVecs p n o.2 [(partAt d thin 0, w), (partAt d thin 2, m), (partAt d thin 3, st)]
    let s := s.elemOps p (dLen d)
    if bad = 0 then s
    else
      (s.upd p (fun c => { c with c5 := c.c5 + bad })).logSlot p
        { code := 0x7103, siteKind := .chip, site := siteNum n, step := h.count, detail0 := dTensor d, detail1 := bad })

/-- Pass 1 of a two-pass rule: state written, partials for round 1. -/
def State.passOne (s : State) (p n : Nat) (h : Shard) : Option (State × List Word32) :=
  let d := h.desc
  let thin := (s.slot p).thin
  let len := dLen d
  if dRule d = 3 then
    let rows := dShardRows d; let cols := max 1 (dCols d)
    let r := s.getVecs p n [(partAt d thin 1, len), (partAt d thin 2, dRows d)]
    r.2.map (fun l =>
      let o := runEv (do
        let g ← scaleG d (l.getD 0 [])
        let q ← g.mapM (fun x => ev (ffma x x (dEps d)))
        let qr := chunks cols q
        let own ← (qr.mapIdx (fun k row => (k, row))).mapM (fun (k, row) => do
          let sm ← bortisSum false row
          let t ← ev (fmul sm (rcpNat cols))
          let t ← ev (fmul (one' d dB2) t)
          ev (ffma (dB2 d) ((l.getD 1 []).getD (dRow0 d + k) 0) t))
        let csum ← vecSum qr
        let vs ← bortisSum false own
        pure (own, csum, vs))
      let (own, csum, vs) := o.1
      (r.1.putVecs p n o.2 [(partAt d thin 2 + 4 * dRow0 d, own.take rows)], csum ++ [vs] ++ own))
  else
    let t := h.count
    let b1 := if dBias d then biasCorr (dB1 d) (t + 1) else (one32, {})
    let b2 := if dBias d then biasCorr (dB2 d) (t + 1) else (one32, {})
    let s := (s.events p b1.2).events p b2.2
    let r := s.getVecs p n [(partAt d thin 1, len), (partAt d thin 0, len), (partAt d thin 2, len), (partAt d thin 3, len)]
    r.2.map (fun l =>
      let o := runEv (do
        let g ← scaleG d (l.getD 0 [])
        let mv ← ((l.getD 2 []).zip ((l.getD 3 []).zip g)).mapM (fun (m, v, g) => adamMoments d m v g)
        let us ← ((l.getD 1 []).zip mv).mapM (fun (w, m, v) => do
          let u ← adamDir d b1.1 b2.1 m v
          ev (ffma (dWd d) w u))
        let sw ← bortisSum true (l.getD 1 [])
        let su ← bortisSum true us
        pure (mv, sw, su))
      let (mv, sw, su) := o.1
      (r.1.putVecs p n o.2 [(partAt d thin 2, mv.map (·.1)), (partAt d thin 3, mv.map (·.2))], [sw, su]))

/-- Pass 2 of a two-pass rule from the partials of every owner, in ascending chip number: first row, rows, partials. -/
def State.passTwo (s : State) (p n : Nat) (h : Shard) (ps : List (Nat × List Word32)) : Option State :=
  let d := h.desc
  let thin := (s.slot p).thin
  let len := dLen d
  let (lr, e) := s.lrOf p d h.count
  let s := s.events p e
  if dRule d = 3 then
    let cols := max 1 (dCols d)
    let mAt := partAt d thin 4
    let r := s.getVecs p n ([(partAt d thin 1, len), (partAt d thin 0, len), (partAt d thin 2, dRows d), (partAt d thin 3, cols)]
      ++ (if hasB1 d then [(mAt, len)] else []))
    r.2.map (fun l =>
      let o := runEv (do
        let csum ← vecSum (ps.map (fun x => x.2.take cols))
        let S ← seqSum (ps.map (fun x => x.2.getD cols 0))
        let vr := ps.foldl (fun (vr : List Word32) x => vr.take x.1 ++ (x.2.drop (cols + 1)) ++ vr.drop (x.1 + (x.2.length - (cols + 1)))) (l.getD 2 [])
        let vc ← ((l.getD 3 []).zip csum).mapM (fun (v, c) => do
          let t ← ev (fmul c (rcpNat (dRows d)))
          let t ← ev (fmul (one' d dB2) t)
          ev (ffma (dB2 d) v t))
        let g ← scaleG d (l.getD 0 [])
        let es ← (((l.getD 1 []).zip g).mapIdx (fun k x => (k, x))).mapM (fun (k, w, g) => do
          let t ← ev (fmul (vr.getD (dRow0 d + k / cols) 0) (vc.getD (k % cols) 0))
          let t ← ev (cdiv t S)
          let t ← ev (fsqrt t)
          let u ← ev (cdiv g t)
          if hasB1 d then
            let c ← ev (fmul (one' d dB1) u)
            let m ← ev (ffma (dB1 d) ((l.getD 4 []).getD k 0) c)
            let w ← stepW d lr w m
            pure (w, m)
          else
            let w ← stepW d lr w u
            pure (w, 0#32))
        pure (vr, vc, es))
      let (vr, vc, es) := o.1
      (r.1.putVecs p n o.2 ([(partAt d thin 0, es.map (·.1)), (partAt d thin 2, vr), (partAt d thin 3, vc)]
        ++ (if hasB1 d then [(mAt, es.map (·.2))] else []))).elemOps p len)
  else
    let t := h.count
    let b1 := if dBias d then biasCorr (dB1 d) (t + 1) else (one32, {})
    let b2 := if dBias d then biasCorr (dB2 d) (t + 1) else (one32, {})
    let r := s.getVecs p n [(partAt d thin 0, len), (partAt d thin 2, len), (partAt d thin 3, len)]
    r.2.map (fun l =>
      let o := runEv (do
        let sw ← seqSum (ps.map (fun x => x.2.getD 0 0))
        let su ← seqSum (ps.map (fun x => x.2.getD 1 0))
        let phi ← (if (fcmp .gt sw 0#32).1 && (fcmp .gt su 0#32).1 then do
            let a ← ev (fsqrt sw)
            let b ← ev (fsqrt su)
            let q ← ev (cdiv a b)
            ev (fmin q (dA d))
          else pure one32)
        let k ← ev (fmul lr phi)
        ((l.getD 0 []).zip ((l.getD 1 []).zip (l.getD 2 []))).mapM (fun (w, m, v) => do
          let u ← adamDir d b1.1 b2.1 m v
          let u ← ev (ffma (dWd d) w u)
          ev (ffma (fneg k) u w)))
      (r.1.putVecs p n o.2 [(partAt d thin 0, o.1)]).elemOps p len)

/-! ### The owner exchange (R366 to R370) -/

/-- A commit takes force at the first update of its step or a later one (R382). -/
def SchedSt.reach (x : SchedSt) (t : Nat) : SchedSt :=
  if x.pending && decide (x.commitStep ≤ t) then { x with earlier := x.inForce, start := x.commitStep, inForce := x.committed, pending := false } else x

/-- The accumulator of a shard has been read: it takes the next step's micro-batches. -/
def Shard.readAcc (h : Shard) : Shard := if h.accRead then h else { h with accRead := true, mb := 0, added := 0 }

/-- Clears a shard's touched bitmap and answers the rows it held, as rows of the set (R378). -/
def State.clearTouched (s : State) (p n : Nat) (d : BitVec 640) : State × List Nat :=
  if ¬ dSparse d then (s, [])
  else
    let thin := (s.slot p).thin
    let k := (dShardRows d + 31) / 32
    let r := s.getVec p n (partAt d thin (pTouched d thin)) k
    match r.2 with
    | none => (r.1, [])
    | some ws => (r.1.putVec p n (partAt d thin (pTouched d thin)) (List.replicate k 0#32), (touchedRows (dShardRows d) ws).map (· + dRow0 d))

/-- The earlier seed is kept until every shard of the pennant has completed its update of the last step that draws from it
(R120). -/
def Slot.dropEarlier (x : Slot) : Slot :=
  if x.shards.all (fun h => decide (x.seed.earlierLast < h.2.count)) then
    { x with seed := { x.seed with earlier := 0, earlierLast := 0xFFFFFFFFFFFFFFFF } }
  else x

/-- The update of a shard has been applied or skipped: its count rises; it writes back, or with N ≥ 2 in an exchange step
sends its deltas first. -/
def State.updateDone (s : State) (p n i : Nat) : State :=
  match s.shard? p n i with
  | none => s
  | some h =>
    let c := s.clearTouched p n h.desc
    let x := s.slot p
    let exch := decide (2 ≤ x.thin) && decide (2 ≤ x.replicas) && decide ((h.count + 1) % x.thin = 0)
    let s := c.1.updShard p n i (fun h =>
      let h := h.readAcc
      { h with count := h.count + 1, accRead := false, updating := false, round := 0, inbox := [], wbRows := c.2,
               awaitRes := exch, wbPending := !exch })
    let s := s.upd p (fun c => { c with c3 := c.c3 + 1 })
    let s := (s.updChip n (fun k => { k with applied := k.applied + 1 })).updSlot p Slot.dropEarlier
    if exch then s.contribute p n i h.count else s

/-- Whether the accumulator of a shard is finite: all of it, or its touched rows (R367). -/
def State.accFinite (s : State) (p n : Nat) (d : BitVec 640) : State × Option Bool :=
  let thin := (s.slot p).thin
  let fin := fun (w : Word32) => (dec32 w).finite
  if dSparse d then
    let r := s.getVecs p n [(partAt d thin 1, dLen d), (partAt d thin (pTouched d thin), (dShardRows d + 31) / 32)]
    (r.1, r.2.map (fun l => (touchedRows (dShardRows d) (l.getD 1 [])).all (fun k =>
      (((l.getD 0 []).drop (k * dCols d)).take (dCols d)).all fin)))
  else
    let r := s.getVec p n (partAt d thin 1) (dLen d)
    (r.1, r.2.map (fun l => l.all fin))

/-- Sends an exchange message: to the other owners, or to the chip itself where it is the only one. -/
def State.sendEx (s : State) (p n i : Nat) (m : ExMsg) : State :=
  match s.shard? p n i with
  | none => s
  | some h =>
    let owners := s.owners p (dTensor h.desc)
    let dest := if owners = [n] then [n] else owners.filter (fun k => decide (k ≠ n))
    s.updShard p n i (fun h => { h with sentEx := h.sentEx ++ dest.map (fun k => (k, m)),
                                        inbox := if owners = [n] then h.inbox else h.inbox ++ [(n, m)] })

/-- Round 0 shows another step count: every owner of the set withholds its update and raises 0x7101 with every owner's count
(R369). -/
def State.mismatch (s : State) (p tensor : Nat) (ms : List (Nat × ExMsg)) : State :=
  let cnt := fun k => (ms.find? (fun x => decide (x.1 = k))).map (fun x => x.2.count % 2 ^ 32) |>.getD 0
  (s.owners p tensor).foldl (fun s n =>
    match s.shardIx p n tensor with
    | none => s
    | some i =>
      let s := s.updShard p n i (fun h => { h with updating := false, withheld := true, sentEx := [], inbox := [] })
      s.rollbackFault p { code := 0x7101, siteKind := .chip, site := siteNum n,
                          step := match s.shard? p n i with | some h => h.count | none => 0,
                          detail0 := cnt 0 + 2 ^ 32 * cnt 1, detail1 := cnt 2 + 2 ^ 32 * cnt 3 }) s

/-- A round of the exchange is complete at shard i of chip n: withhold, skip, apply, or go on to round 1. -/
def State.roundDone (s : State) (p n i : Nat) (h : Shard) (ms : List (Nat × ExMsg)) : State :=
  let d := h.desc
  let lost := fun (s : State) => s.lostShard p n h.count d (s.slot p).thin
  if h.round = 0 then
    if ms.any (fun x => decide (x.2.count ≠ h.count)) then s.mismatch p (dTensor d) ms
    else if dSkip d ∧ ms.any (fun x => !x.2.finite) then
      let s := if (s.owners p (dTensor d)).head? = some n then
        s.logSlot p { code := 0x7104, siteKind := .chip, site := siteNum n, step := h.count, detail0 := dTensor d } else s
      (s.upd p (fun c => { c with c4 := c.c4 + 1 })).updateDone p n i
    else
      let s := s.retain p n i h.count
      if dRule d = 3 ∨ dRule d = 4 then
        match s.passOne p n h with
        | none => lost s
        | some (s, ps) =>
          let s := s.updShard p n i (fun h => if dRule d = 4 then { h.readAcc with round := 1 } else { h with round := 1 })
          s.sendEx p n i { round := 1, count := h.count, finite := true, partials := ps }
      else
        match (if dRule d = 6 then s.blockRule p n h else s.onePass p n i h) with
        | none => lost s
        | some s => s.updateDone p n i
  else
    let ps := ms.map (fun x => (match (s.shardIx p x.1 (dTensor d)).bind (fun k => s.shard? p x.1 k) with
      | some g => dRow0 g.desc | none => 0, x.2.partials))
    match s.passTwo p n h ps with
    | none => lost s
    | some s => s.updateDone p n i

/-- Runs every round whose messages are all there, while no rollback is pending. -/
def State.rounds (fuel : Nat) (s : State) (p n i : Nat) : State :=
  match fuel with
  | 0 => s
  | k + 1 =>
    match s.shard? p n i with
    | none => s
    | some h =>
      let ms := (s.owners p (dTensor h.desc)).filterMap (fun o => h.inbox.find? (fun x => decide (x.1 = o) && decide (x.2.round = h.round)))
      if h.updating ∧ s.chipsRun p ∧ ms.length = (s.owners p (dTensor h.desc)).length then State.rounds k (s.roundDone p n i h ms) p n i else s

/-- UPDATE_START (R366): the conditions hold, and round 0 is sent. -/
def State.updateStart (s : State) (p n i : Nat) : State :=
  if 16 ≤ p ∨ 4 ≤ n ∨ ¬ s.chipsRun p then s
  else
    match s.shard? p n i with
    | none => s
    | some h =>
      let x := s.slot p
      let reduced := decide (x.replicas < 2) || decide (2 ≤ x.thin) || s.resultsIn p n i h.count
      if h.updating ∨ h.withheld ∨ h.accRead ∨ h.wbPending ∨ h.awaitRes ∨ h.digest ≠ none ∨ h.reload ∨ (h.owed ∧ x.mirror.boundary ≤ h.count) ∨ h.torn
          ∨ h.mb ≠ chMb (s.chipSlot p n).header ∨ ¬ reduced ∨ h.exported = some h.count then s
      else
        let f := s.accFinite p n h.desc
        match f.2 with
        | none => f.1.lostState p n h.count
        | some fin =>
          let s := f.1.updSlot p (fun x => { x with scheds := x.scheds.modify (dSched h.desc) (fun c => c.reach h.count) })
          let s := s.updShard p n i (fun h => { h with updating := true, round := 0, inbox := [], begun := max h.begun (h.count + 1) })
          State.rounds 3 (s.sendEx p n i { round := 0, count := h.count, finite := fin }) p n i

def execUpdateStart (p chip ix : Nat) (s : State) : Res := .next (s.updateStart p chip ix)

/-- EXCHANGE: the oldest message on its way from a sender to an owner arrives, once the owner's update takes it. -/
def State.exchange (s : State) (p n i src : Nat) (m : ExMsg) : State :=
  if 16 ≤ p ∨ 4 ≤ n ∨ ¬ s.chipsRun p then s
  else
    match s.shard? p n i with
    | none => s
    | some h =>
      let owners := s.owners p (dTensor h.desc)
      let from_ := (s.shardIx p src (dTensor h.desc)).bind (fun k => s.shard? p src k)
      let sent : Bool := match from_ with | some g => decide (g.sentEx.find? (fun e => decide (e.1 = n)) = some (n, m)) | none => false
      if h.updating ∧ sent ∧ h.round ≤ m.round ∧ (src ≠ n ∨ owners = [n]) ∧ ¬ h.inbox.any (fun x => decide (x.1 = src) && decide (x.2.round = m.round)) then
        let s := match s.shardIx p src (dTensor h.desc) with
          | some k => s.updShard p src k (fun g => { g with sentEx := g.sentEx.erase (n, m) })
          | none => s
        State.rounds 3 (s.updShard p n i (fun h => { h with inbox := h.inbox ++ [(src, m)] })) p n i
      else s

def execExchange (p chip ix src : Nat) (m : ExMsg) (s : State) : Res := .next (s.exchange p chip ix src m)

/-- OWNER_EXCHANGE_TIMEOUT (R368). -/
def State.exchangeTimeout (s : State) (p n i : Nat) : State :=
  if 16 ≤ p ∨ 4 ≤ n ∨ ¬ s.chipsRun p then s
  else
    match s.shard? p n i with
    | none => s
    | some h =>
      if h.updating then
        let s := s.updShard p n i (fun h => { h with withheld := true })
        s.rollbackFault p { code := 0x7106, siteKind := .chip, site := siteNum n, step := h.count, detail0 := dTensor h.desc, detail1 := h.round }
      else s

def execOwnerExchangeTimeout (p chip ix : Nat) (s : State) : Res := .next (s.exchangeTimeout p chip ix)

/-! ### Permits and the write-back (R383 to R385) -/

/-- Stack byte of the target copy of a permit (R274). -/
def targetCopy (w : BitVec 128) (t : Nat) : Nat := (if wsOverlap w ∧ (t + 1) % 2 = 1 then wsShadow w else wsCopy w) * unit64

/-- PERMIT: accepted for the shard's pending update or write-back, else 0x7101. A permit waits for its own step's write-back:
in OVERLAP mode the next step's may arrive before it. -/
def State.permit (s : State) (p n tensor t : Nat) : State :=
  if 16 ≤ p ∨ 4 ≤ n ∨ ¬ s.chipsRun p then s
  else
    match s.shardIx p n tensor, (s.slot p).wset? tensor with
    | some i, some w =>
      match s.shard? p n i with
      | none => s
      | some h =>
        if t = h.count ∨ (t + 1 = h.count ∧ (h.wbPending ∨ h.awaitRes)) then
          s.updShard p n i (fun h => { h with permits := tput h.permits t (targetCopy w t) })
        else
          s.rollbackFault p { code := 0x7101, siteKind := .chip, site := siteNum n, step := t, detail0 := tensor, detail1 := h.count }
    | _, _ => s

def execPermit (p chip set stp : Nat) (s : State) : Res := .next (s.permit p chip set stp)

/-- The words a shard's update of step t has written, as the digest takes them (R454). -/
def State.updateWords (s : State) (p n : Nat) (h : Shard) (t : Nat) (wc : List (Nat × Code160)) : State × List Code160 :=
  let d := h.desc
  let thin := (s.slot p).thin
  let due := decide (dRule d ≠ 6) || decide (t % max 1 (dEvery d) = 0)
  let exch := decide (2 ≤ thin) && decide ((t + 1) % thin = 0)
  let parts := (List.range (dParts d thin).length).filter (fun i => decide (i ≠ 1) && (exch || decide (2 > thin) || decide (i ≠ pAnchor d)))
  let vecs : List (Nat × Nat) :=
    if dSparse d then
      let rows := h.wbRows.map (· - dRow0 d)
      (parts.filter (fun i => decide (i < pCounts d thin))).flatMap (fun i => rows.map (fun r => (partAt d thin i + 4 * r * dCols d, dCols d)))
        ++ rows.map (fun r => (partAt d thin (pCounts d thin) + 4 * r, 1))
        ++ [(partAt d thin (pTouched d thin), (dShardRows d + 31) / 32)]
    else if due then parts.map (fun i => (partAt d thin i, (dParts d thin).getD i 0))
    else (parts.filter (fun i => decide (i ≠ 3))).map (fun i => (partAt d thin i, (dParts d thin).getD i 0))
      ++ ((dBlocks d).foldl (fun (a : List (Nat × Nat) × Nat) b => (a.1 ++ [(partAt d thin 3 + 4 * a.2, blockWords b / 2)], a.2 + blockWords b)) ([], 0)).1
  let words := (vecs.flatMap (fun (a, k) => (List.range ((a % 16 + 4 * k + 15) / 16)).map (fun j => a / 16 + j))).dedup
  let r := words.foldl (fun (r : State × List Code160) w => let g := r.1.ssGet p n w; (g.1, r.2 ++ [g.2.getD poison])) (s, [])
  (r.1, r.2 ++ wc.map (·.2))

/-- Compares a shard's update record with the partner's (R455, R458). -/
def State.compareShard (s : State) (p n i : Nat) : State :=
  match s.shard? p n i with
  | none => s
  | some h =>
    match h.digest with
    | none => s
    | some dg =>
      match (s.slot p).mirror.remote.find? (fun r => r.same dg) with
      | none => s
      | some r =>
        let s := s.updSlot p (fun y => { y with
          mirror := { y.mirror with remote := y.mirror.remote.erase r },
          recC := { y.recC with compared := y.recC.compared + 1 } })
        if dg.agrees r then s.updShard p n i (fun h => { h with digest := none, doneStep := some h.count })
        else
          let s := s.updSlot p (fun y => { y with recC := { y.recC with mismatches := y.recC.mismatches + 1 } })
          s.disagree p { code := 0x8316, passKind := .update, siteKind := .chip, site := siteNum n, step := dg.step, detail0 := dg.tensor }

/-- WRITEBACK: converts the new masters and writes the working copy, then the alternate copy; a mirrored shard then sends
its record, another its DONE. -/
def State.writeback (s : State) (p n i : Nat) : State :=
  if 16 ≤ p ∨ 4 ≤ n ∨ ¬ s.chipsRun p then s
  else
    match s.shard? p n i with
    | none => s
    | some h =>
      let t := h.count - 1
      match tget? h.permits t with
      | none => s
      | some base =>
        if ¬ h.wbPending ∨ h.count = 0 then s
        else
          let d := h.desc
          let x := s.slot p
          let v := s.getVec p n (partAt d x.thin 0) (dLen d)
          match v.2 with
          | none => v.1.lostState p n t
          | some ms =>
            let rows := if dSparse d then some h.wbRows else none
            let a := wcConvert x d (dConv d) base (t + 1) rows ms
            let b := if dAlt d = 0 then ([], {}) else wcConvert x d (altConv (dConv d)) (dAlt d * unit64) (t + 1) rows ms
            let r := v.1.mergeCover p a.1
            let r' := r.1.mergeCover p b.1
            let ws := r.2 ++ r'.2
            let s := ((r'.1.putWords p ws).events p a.2).events p b.2
            let s := (s.work p 6 0 (16 * ws.length)).work p 9 2 (16 * ws.length)
            let s := s.updShard p n i (fun h => { h with wbPending := false, permits := tdel h.permits t })
            if x.compares t then
              let u := s.updateWords p n h t ws
              match x.digestKey with
              | none => u.1.updShard p n i (fun h => { h with doneStep := some h.count })
              | some key =>
                let dg := Digest.over key { kind := .update, tensor := dTensor d, chip := n, step := t, lane0 := 0, lane1 := 0 } u.2
                let s := (u.1.sendDigest p dg).updShard p n i (fun h => { h with digest := some dg })
                s.compareShard p n i
            else s.updShard p n i (fun h => { h with doneStep := some h.count })

def execWriteback (p chip ix : Nat) (s : State) : Res := .next (s.writeback p chip ix)

/-! ### LOAD (R358, R360) and the schedule commit (R382) -/

/-- Writes a shard's initial values into its state area; with N ≥ 2 the anchor starts as the master (R345). -/
def State.initShard (s : State) (p n i : Nat) (x : ShardInit) : State :=
  match s.shard? p n i with
  | none => s
  | some h =>
    let d := h.desc
    let thin := (s.slot p).thin
    let s := s.putVec p n (partAt d thin 0) x.master
    let s := (x.state.mapIdx (fun k v => (k, v))).foldl (fun s (k, v) => s.putVec p n (partAt d thin (2 + k)) v) s
    let s := if 2 ≤ thin then s.putVec p n (partAt d thin (pAnchor d)) x.master else s
    if dSparse d then
      (s.putVec p n (partAt d thin (pCounts d thin)) (x.counts.map (BitVec.ofNat 32))).putVec p n (partAt d thin (pTouched d thin))
        (List.replicate ((dShardRows d + 31) / 32) 0#32)
    else s

/-- What a LOAD message does at a chip. -/
def State.loadChip (s : State) (p n : Nat) (m : LoadMsg) : State :=
  match m with
  | .header h => s.updChipSlot p n (fun c => { c with header := h, shards := [], hold := [] })
  | .desc d =>
    s.updChipSlot p n (fun c => { c with shards := c.shards ++ [{ desc := d, count := dStart d }] })
  | .retention d => s.updChipSlot p n (fun c => { c with retention := d })
  | .init i x => s.initShard p n i x
  | .sched k x => s.updSlot p (fun y => { y with scheds := y.scheds.set k { inForce := x, earlier := x, staged := x, committed := x } })

def execLoad (p chip : Nat) (m : LoadMsg) (s : State) : Res :=
  .next (if p < 16 ∧ chip < 4 ∧ (s.slot p).state ≠ .free then s.loadChip p chip m else s)

/-- Whether a value lies in the range of a schedule's field (Table 10.10, subindexes 0x01 to 0x08). -/
def schedFieldOk (sub v : Nat) : Bool :=
  match sub with
  | 1 => decide (v / 2 ^ 23 % 256 ≠ 255) && (decide (v < 2 ^ 31) || decide (v = 2 ^ 31))
  | 2 => decide (v ≤ 2)
  | 4 => decide (v ≤ 5)
  | 5 => decide (1 ≤ v)
  | 6 => decide (v ≤ 0x3F800000) || decide (v = 2 ^ 31)
  | 7 => decide (1 ≤ v) && decide (v ≤ 0x3F800000)
  | 8 => decide (v ≤ 16)
  | _ => true

/-- Whether a schedule keeps the conditions of Table 10.10 and R388; those that join two fields are held at the commit. -/
def schedOk (x : Sched) : Bool :=
  schedFieldOk 1 x.peak.toNat && schedFieldOk 2 x.warm && schedFieldOk 4 x.decay && schedFieldOk 5 x.decaySteps
    && schedFieldOk 6 x.rho.toNat && schedFieldOk 7 x.gamma.toNat && schedFieldOk 8 x.mult
    && decide (x.warm = 0 ↔ x.warmSteps = 0) && (decide (x.mult = 0) || decide (x.decay = 1) || decide (x.decay = 2))

/-- A commit of schedule k of slot p, refused where an update it would reach has begun. -/
def State.schedCommit (s : State) (p k e : Nat) : State × Bool :=
  if ¬ schedOk ((s.slot p).scheds.getD k {}).staged then (s, false)
  else if (s.slot p).shards.any (fun h => decide (dSched h.2.desc = k) && decide (e < h.2.begun)) then (s, false)
  else (s.updSlot p (fun x => { x with scheds := x.scheds.modify k (fun c => { c with committed := c.staged, commitStep := e, pending := true }) }), true)

/-- The write of the commit step by the host operator. -/
def State.writeSchedCommit (s : State) (p k e : Nat) : State :=
  let r := s.schedCommit p k e
  r.1.answer (if r.2 then .ok else .valueRefused)
def execScheduleCommit (via : Via) (p k e : Nat) (s : State) : Res :=
  .next (s.guard via (if k < 4 then ixOf 0x7000 64 (4 * p + k) else 0) 9 (fun s => s.writeSchedCommit p k e))

end Sys2Proof.Machine
end

