-- ==== Sys2Proof/Machine/Image.lean ====
section
/-! DEFINITION. The load checks of a program image: formats, products, handles, streams, blocks, queues, placement, buckets,
chips, schedules and retention (R29, R42, R87 to R110, R132, R137, R180, R211, R229, R249, R270, R324, R331, R359, R388, R461,
R488). A check answers the code that refuses the image, 0 where it passes. -/

namespace Sys2Proof.Machine

/-- The first code of a list of checks. -/
def firstBad (l : List Nat) : Nat := (l.find? (fun c => decide (c ≠ 0))).getD 0
/-- A condition and the code that refuses where it fails. -/
def need (ok : Bool) (code : Nat) : Nat := if ok then 0 else code

/-- Whether regions (first, size) do not overlap; one of size 0 takes no place. -/
def disjoint (l : List (Nat × Nat)) : Bool :=
  match l with
  | [] => true
  | r :: l => (decide (r.2 = 0) || l.all (fun q => decide (q.2 = 0) || !Machine.overlap r q)) && disjoint l
/-- Whether every region ends at or below a limit. -/
def within (top : Nat) (l : List (Nat × Nat)) : Bool := l.all (fun r => decide (r.2 = 0) || decide (r.1 + r.2 ≤ top))

/-- Update descriptors with their chip. -/
def imDescs (im : Image) : List (Nat × BitVec 640) := (im.chips.mapIdx (fun n c => c.descs.map (fun d => (n, d)))).flatten
/-- The shards of a set, in ascending chip number. -/
def imShards (im : Image) (tensor : Nat) : List (Nat × BitVec 640) := (imDescs im).filter (fun d => decide (dTensor d.2 = tensor))
/-- Elements of a set. -/
def imElems (im : Image) (tensor : Nat) : Nat :=
  match imShards im tensor with
  | (_, d) :: _ => dRows d * dCols d
  | [] => 0
def imWset (im : Image) (tensor : Nat) : Option (BitVec 128) := im.wsets.find? (fun w => decide (wsTensor w = tensor))
def imThin (im : Image) : Nat := (im.placeHdr.map phThin).getD 1
def imReplicas (im : Image) : Nat := (im.placeHdr.map phReplicas).getD 1

/-! ### The image's form (R29, R356) -/

/-- Bytes of a descriptor of an op list; a lane descriptor's layout, and with it its size, is not in the manual (log 6). -/
def OpDesc.size (o : OpDesc) : Nat :=
  match o with
  | .product _ ws => 24 + 8 * ws.length
  | .stream _ => 32
  | .lane _ _ _ => 0
  | .handle _ _ => 16

/-- Bytes of one tile's part: the header and its descriptors, padded to whole 32-byte words (R248). -/
def OpPart.size (x : OpPart) : Nat := 32 + ((x.ops.map OpDesc.size).sum + 31) / 32 * 32
def OpList.size (x : OpList) : Nat := (x.parts.map OpPart.size).sum

/-- Bytes of the initial values of a shard. -/
def ShardInit.size (x : ShardInit) : Nat := 4 * x.master.length + 4 * (x.state.map List.length).sum + 4 * x.counts.length

/-- Bytes of the fields of a schedule record (Table 10.10). -/
def schedBytes : Nat := 25

/-- Bytes of the structures whose size the manual gives. -/
def imSize (im : Image) : Nat :=
  24 + 32 * im.blocks.length + 16 * im.wsets.length + 24 * im.queues.length + (if im.placeHdr.isSome then 8 else 0)
    + 8 * im.places.length + 16 * im.buckets.length + (im.chips.map (fun c => 48 + 80 * c.descs.length)).sum
    + (im.chips.map (fun c => (c.inits.map ShardInit.size).sum)).sum + schedBytes * im.scheds.length
    + (im.tiles.map (fun t => 16 * t.handles.length)).sum + (im.lists.map OpList.size).sum + (im.frozen.map (fun f => f.2.length)).sum

/-- Whether the op lists can be read: each part's header counts its descriptors, each list ends within the image, and every
offset of a block descriptor finds its list (R29, R248). Offsets are counted from the image's first byte: log 6. -/
def listsFormed (im : Image) (len : Nat) : Bool :=
  im.lists.all (fun l => decide (32 * l.offset + OpList.size l ≤ len) && l.parts.all (fun x => decide (opCount x.header = x.ops.length)))
    && im.blocks.all (fun b => (([bdFwd b, bdBwd b] ++ (if bdFb b = 0 then [] else [bdFb b])) : List Nat).all (fun o =>
      im.lists.any (fun l => decide (l.offset = o))))

/-- Whether the initial values of a shard are all there: one master per element, each state tensor, and the row counts of a
SPARSE shard (R360). -/
def initOk (d : BitVec 640) (x : ShardInit) : Bool :=
  let ps := (dParts d 1).drop 2
  let st := if dSparse d then ps.take (ps.length - 2) else ps
  decide (x.master.length = dLen d) && decide (x.state.map List.length = st)
    && (!dSparse d || decide (x.counts.length = dShardRows d))

/-- Whether the image can be read from the bytes of the buffer: one header per chip with as many descriptors as it declares,
four schedules, and, for a new run, the values of every shard and frozen copy. -/
def imFormed (im : Image) (len : Nat) (fresh : Bool) : Bool :=
  decide (im.bytes.length = len) && decide (imSize im ≤ len) && listsFormed im len && decide (im.chips.length = 4) && decide (im.scheds.length = 4)
    && im.chips.all (fun c => decide (chCount c.header = c.descs.length)
      && (!fresh || (decide (c.inits.length = c.descs.length) && (c.descs.zip c.inits).all (fun q => initOk q.1 q.2))))
    && (im.wsets.filter wsFrozen).all (fun w => im.frozen.any (fun f => decide (f.1 = wsTensor w) && decide (f.2.length ≤ wsSize w * unit64)))

/-! ### Tensors and products (R87, R102, R103, R108, R119, R132, R133, R137, R149) -/

def tensorCheck (h : TensorHdr) : Nat :=
  firstBad [need (fmtDefined h.fmt) 0x6112, need (!fmtScaled h.fmt || h.hasScale) 0x6110, need (decide (h.rows * h.cols ≤ 2 ^ 40)) 0x6113]

/-- Whether every tensor header that covers a scaled operand declares a block axis. -/
def axisOk (im : Image) (t : TileRef) (handle fmt axis : Nat) : Bool :=
  !fmtScaled fmt || im.tensors.all (fun h => !fmtScaled h.fmt || !h.readers.any (fun r => decide (r.1 = t) && decide (r.2.1 = handle))
    || decide (h.axis = axis))

/-- The block axis that A and B must have: the one that lies along the reduction after transposition (R108). An operand
scaled along its innermost dimension cannot be read transposed, so no axis serves a scaled B with B_TRANS = 1 whose
reduction lies along its innermost dimension (R149). -/
def aAxis (d : BitVec 192) : Nat := if pOp d = 0x22 then 1 else b2n (pATrans d)
def bAxis (d : BitVec 192) : Nat := if pBTrans d then 2 else 1

/-- The window words of a windowed product where the image gives them. -/
def windowCheck (d : BitVec 192) (ws : List Word64) : Nat :=
  match ws with
  | [] => 0
  | [a, b, c] =>
    let w : Wins := ⟨winOf a, winOf b, winOf c⟩
    if ¬ (winOk a && winOk b && winOk c) then 0x6122
    else if pOp d = 0x21 then need (decide (pM d = w.outs)) 0x6125
    else need (decide (pK d = w.outs) && decide (pM d % w.kernels = 0)) 0x6125
  | _ => 0x6122

def productCheck (im : Image) (t : TileRef) (d : BitVec 192) (ws : List Word64) : Nat :=
  firstBad [need (decide (0x20 ≤ pOp d) && decide (pOp d ≤ 0x22) && decide (fld d 118 96 = 0)) 0x6120,
    need (fmtDefined (pAFmt d) && fmtDefined (pBFmt d)) 0x6112,
    need (decide (pOutFmt d ≤ 1)) 0x6121, need (decide (pInit d ≠ 3)) 0x6126,
    need (decide (pInit d ≠ 2) || decide (pOutFmt d = 0)) 0x6121,
    need (decide (pM d ≠ 0) && decide (pN d ≠ 0) && decide (pK d ≠ 0)) 0x6125,
    need (axisOk im t (pA d) (pAFmt d) (aAxis d) && axisOk im t (pB d) (pBFmt d) (bAxis d)) 0x6111,
    if pOp d = 0x20 then 0 else windowCheck d ws]

/-! ### Tiles (R180, R181, R211, R230) -/

/-- Writes an entry as the loader does: checked where VALID = 1, else an HCLEAR. -/
def State.loadEntry (s : State) (p : Nat) (t : TileRef) (r : Tile × Nat) (n : Nat) (e : BitVec 128) : Tile × Nat :=
  if r.2 ≠ 0 then r
  else if 128 ≤ n then (r.1, 0x6136)
  else if ¬ hValid e then (r.1.clearEntry n, 0)
  else match s.entryCheck p t r.1 n e with
    | some c => (r.1, c)
    | none => (r.1.putEntry p n e, 0)

/-- The handle table of a tile after the loader. -/
def State.loadHandles (s : State) (p : Nat) (x : Tile) (t : TileOps) : Tile × Nat :=
  if 128 < t.handles.length then (x, 0x6136)
  else t.handles.foldl (fun r h => s.loadEntry p t.tile r h.1 h.2) (x, 0)

/-- The queues an image declares, as contexts of slot p. -/
def imQueues (im : Image) (p : Nat) : Tbl Queue :=
  im.queues.foldl (fun t d => tput t (qNum d) { desc := d, slot := p, credit := qCapacity d }) []

/-- One descriptor of an op list against the handles in force at its place. -/
def State.opCheck (s : State) (p : Nat) (im : Image) (t : TileRef) (x : Tile) (o : OpDesc) : Nat :=
  match o with
  | .product d ws => productCheck im t d ws
  | .stream d =>
    if sOp d < 0x30 ∨ 0x37 < sOp d then 0x6140
    else match streamCheck x t (s.slot p).stackTop p (imQueues im p) (sOp d) (putFld d 218 218 0) with
      | .error (.fault c) => c
      | _ => if sConvert d then convHandleCode x d else 0
  | .lane conv _ _ => match conv with
    | some w => need (convOk w) 0x6112
    | none => 0
  | .handle n _ => need (decide (n < 128)) 0x6136

/-- The op lists in the order in which one micro-batch meets them: the forward lists, block after block, then from the last
block down the fallback list and the backward list. -/
def imOrder (im : Image) : List Nat :=
  let ix := im.blocks.map bdIndex
  let lo := ix.foldl min (ix.headD 0)
  let bs := (List.range im.blocks.length).flatMap (fun i => im.blocks.filter (fun b => decide (bdIndex b = lo + i)))
  bs.map bdFwd ++ bs.reverse.flatMap (fun b => (if bdFb b = 0 then [] else [bdFb b]) ++ [bdBwd b])

/-- The descriptors of one tile in that order. -/
def imOps (im : Image) (t : TileRef) : List OpDesc :=
  (imOrder im).flatMap (fun o => match im.lists.find? (fun l => decide (l.offset = o)) with
    | some l => (l.parts.filter (fun x => decide (opTile x.header = t))).flatMap OpPart.ops
    | none => [])

/-- The tiles an image names. -/
def imTiles (im : Image) : List TileRef := (im.tiles.map TileOps.tile ++ im.lists.flatMap (fun l => l.parts.map (fun x => opTile x.header))).dedup

/-- A tile's handles and its op-list descriptors, in issue order. -/
def State.tileCheck (s : State) (p : Nat) (im : Image) (t : TileRef) : Nat :=
  if ¬ trOk t ∨ s.tileSlot t ≠ some p then 0x6135
  else
    let r := (im.tiles.filter (fun e => decide (e.tile = t))).foldl (fun (r : Tile × Nat) e => if r.2 ≠ 0 then r else s.loadHandles p r.1 e) ({}, 0)
    ((imOps im t).foldl (fun (r : Tile × Nat) o =>
      if r.2 ≠ 0 then r
      else
        let c := s.opCheck p im t r.1 o
        match o with
        | .handle n e => (if hValid e then r.1.putEntry p n e else r.1.clearEntry n, c)
        | _ => (r.1, c)) r).2

/-! ### Blocks and weight sets (R249, R270) -/

/-- The F and VC 5 producer endpoint (Table 6.6, R406). -/
def endF : Nat := 2 ^ 12 + 5 * 2 ^ 8 + 5 * 2 ^ 5

/-- Whether the FIRST block takes its input from port F. -/
def fedByF (im : Image) : Bool :=
  im.queues.any (fun q => decide (qProducer q = endF) && decide (qConsumer q < 2 ^ 11)
    && im.blocks.any (fun b => bdFirst b && bit b (groupNum (qConsumer q / 2 ^ 9) (qConsumer q / 2 ^ 5 % 16))))

/-- Bytes of the elements of a tensor and of its scale array (R101 to R105). -/
def tensorBytes (h : TensorHdr) : Nat :=
  (h.rows * h.cols * fmtBits h.fmt + 7) / 8
    + (if fmtScaled h.fmt then (if h.axis = 0 then h.rows * ((h.cols + 31) / 32) else h.cols * ((h.rows + 31) / 32))
        * (if fmtSwallow h.fmt then 2 else 1) else 0)

/-- Whether a scaled STASH_FMT brings its scale array into STASH_64K (R249): of the tensors in STASH_FMT that a tile of the
block reads through STASH_HANDLE, elements and scale array fit. -/
def stashFits (im : Image) (b : BitVec 256) : Bool :=
  !fmtScaled (bdFmt b) || im.tensors.all (fun h => !h.readers.any (fun r => bit b (groupNum r.1.q r.1.g) && decide (r.2.1 = bdHandle b))
    || decide (h.fmt ≠ bdFmt b) || (h.hasScale && decide (tensorBytes h ≤ bdStash b * unit64)))

/-- The checks of R249 under 0x6150. A reserved STASH_FMT is a block's field and takes R249's 0x6150, though R87 names
0x6112 for reserved format codes: DESIGN CHOICE, log 19. -/
def State.blockCheck (s : State) (p : Nat) (im : Image) : Nat :=
  let ix := im.blocks.map bdIndex
  let lo := ix.foldl min (ix.headD 0); let hi := ix.foldl max 0
  let fb := fun (i : Nat) => im.blocks.any (fun b => decide (bdIndex b = i) && decide (bdFb b ≠ 0))
  let seqOk := decide (ix.dedup.length = ix.length) && (ix.isEmpty || decide (hi + 1 = lo + ix.length))
  let each := im.blocks.all (fun b =>
    (bdFirst b == decide (bdIndex b = lo)) && (bdLast b == decide (bdIndex b = hi)) && (!bdFirst b || decide (bdFb b = 0))
    && !(fb (bdIndex b) && fb (bdIndex b + 1)) && decide (bdWset b + bdCount b ≤ im.wsets.length)
    && fmtDefined (bdFmt b) && stashFits im b && decide (1 ≤ bdStash b) && decide (fld b 178 160 = 0)
    && (List.range 64).all (fun g => !bit b g || decide (s.holder (granuleOf (g / 16) (g % 16)) = some p)))
  need (seqOk && each && decide (1 ≤ sdMb im.stash) && decide (fld im.stash 23 0 = 0) && (decide (sdClips im.stash ≠ 0) == fedByF im)
    && im.wsets.all (fun w => decide (wsMode w ≠ 3) && (wsOverlap w || decide (wsShadow w = 0)))) 0x6150

/-- Regions in 64 KiB units: stash, gather, the copies and alternate copies; and the shadow copies. -/
def imRegions (im : Image) : List (Nat × Nat) :=
  let d := im.stash
  let alt := ((imDescs im).filter (fun q => decide (dAlt q.2 ≠ 0))).map (fun q =>
    (dTensor q.2, dAlt q.2, (imWset im (dTensor q.2)).elim 0 wsSize))
  [(sdRegion d, sdSize d), (sdGather d, sdGatherSize d)]
    ++ ((im.wsets.map (fun w => (wsTensor w, wsCopy w, wsSize w))).dedup ++ alt.dedup).map (·.2)
def imShadows (im : Image) : List (Nat × Nat) :=
  (((im.wsets.filter wsOverlap).map (fun w => (wsTensor w, wsShadow w, wsSize w))).dedup).map (·.2)

def Slot.regionCheck (x : Slot) (im : Image) : Nat :=
  let d := im.stash
  let top := x.stackTop / unit64
  let kept := ((im.blocks.filter (fun b => decide (bdFb b = 0))).map bdStash).sum
  firstBad [
    need (decide (1 ≤ sdSize d) && decide (sdReserve d ≤ sdSize d) && decide (kept ≤ sdSize d - sdReserve d)
      && im.blocks.all (fun b => decide (bdFb b = 0) || decide (bdStash b ≤ sdReserve d))) 0x6151,
    need (within top (imRegions im) && disjoint (imRegions im)) 0x6151,
    need (within top (imShadows im) && disjoint (imRegions im ++ imShadows im)) 0x6153]

/-- Cartridges fitted and accepted (R5). -/
def State.cartCount (s : State) : Nat := ((List.range 4).filter s.hasCart).length

/-- The most trainable parameters a module holds (R6, R7, R40): 8 · 10^9 without cartridges, else 125 · 10^9 for each under a
rule with two moment tensors. -/
def State.paramLimit (s : State) : Nat := if s.cartCount = 0 then 8 * 10 ^ 9 else 125 * 10 ^ 9 * s.cartCount

/-- Parameters of descriptors that count against the limit: all of them without cartridges, else those whose rule keeps two
moment tensors. -/
def State.counted (s : State) (ds : List (BitVec 640)) : Nat :=
  ((ds.filter (fun d => decide (s.cartCount = 0) || dTwoMoments d)).map dLen).sum

/-- The parameters of the module with an image in slot p stay within its limit. No rule names the refusal's code; 0x6182
(updater region invalid) is the model's: DESIGN CHOICE, log 19. -/
def State.paramCheck (s : State) (p : Nat) (im : Image) : Nat :=
  let others := ((List.range 16).filter (fun q => decide (q ≠ p))).map (fun q => s.counted ((s.slot q).shards.map (fun h => h.2.desc)))
  need (decide (others.sum + s.counted ((imDescs im).map (·.2)) ≤ s.paramLimit)) 0x6182

/-- Formats of a frozen copy in a module without cartridges (R7): FP8 (plain or block-scaled), MXFP4 or ST4. -/
def frozenFmt (f : Nat) : Bool := decide (f ∈ [3, 4, 5, 6, 9, 11])

/-- Frozen copies of a module without cartridges are in FP8, MXFP4 or ST4; the code 0x6112 is the model's: DESIGN CHOICE,
log 19. -/
def State.frozenFmtCheck (s : State) (im : Image) : Nat :=
  need (decide (s.cartCount ≠ 0) || (im.wsets.filter wsFrozen).all (fun w => frozenFmt (wsFmt w))) 0x6112

/-- No structure provides for a gradient of a frozen set. -/
def frozenCheck (im : Image) : Nat :=
  need ((im.wsets.filter wsFrozen).all (fun w => decide (wsOwners w = 0) && decide (wsTie w = 63) && (imShards im (wsTensor w)).isEmpty
    && !im.buckets.any (fun b => decide (bkTensor b = wsTensor w)))) 0x6154

/-- The uses of a tie group in ascending order of block, then of weight-set entry. -/
def tieUses (im : Image) (g : Nat) : List (BitVec 128) :=
  let bs := im.blocks.map bdIndex
  let lo := bs.foldl min (bs.headD 0)
  (List.range im.blocks.length).flatMap (fun i =>
    (im.blocks.filter (fun b => decide (bdIndex b = lo + i))).flatMap (fun b =>
      ((im.wsets.drop (bdWset b)).take (bdCount b)).filter (fun w => decide (wsTie w = g))))

def tieCheck (im : Image) : Nat :=
  let gs := ((im.wsets.map wsTie).filter (fun g => decide (g ≠ 63))).dedup
  let bytes := ((im.wsets.filter (fun w => decide (wsTie w ≠ 63))).map (fun w => slotBytes (imElems im (wsTensor w)))).sum
  need (gs.all (fun g =>
      let us := tieUses im g
      decide (us.length = (im.wsets.filter (fun w => decide (wsTie w = g))).length) && decide (us.map wsUse = List.range us.length)
        && us.all (fun w => decide (wsTensor w = wsTensor (us.headD 0)) && decide (wsMode w = wsMode (us.headD 0))))
    && decide (bytes ≤ sdGatherSize im.stash * unit64)) 0x6155

/-! ### Queues (R229, R406) -/

/-- An endpoint's form: 0 accepted, else the code; `prod`: it is the producer. -/
def State.endCheck (s : State) (p e : Nat) (prod : Bool) : Nat :=
  if e / 2 ^ 11 % 2 = 1 then 0x6141
  else if e / 2 ^ 12 = 1 then
    need (decide (e % 2 ^ 5 = 0) && ((decide (e / 2 ^ 8 % 8 ≤ 1) && decide (e / 2 ^ 5 % 8 = 0)) || (prod && decide (e = endF)))) 0x6143
  else
    let t : TileRef := ⟨e / 2 ^ 9 % 4, e / 2 ^ 5 % 16, e % 2 ^ 5⟩
    if ¬ trOk t then 0x6141 else need (decide (s.tileSlot t = some p)) 0x6143

def State.queueCheck (s : State) (p : Nat) (d : BitVec 192) : Nat :=
  let m := qMiddle d
  firstBad [
    need (decide (fld d 181 176 = 0) && decide (fld d 114 112 = 0) && decide (fld d 85 79 = 0) && decide (fld d 71 64 = 0)
      && decide (fld d 31 0 = 0) && decide (fld d 175 128 % unit64 = 0) && (decide (m ≠ 0) || decide (fld d 175 128 = 0)) && decide (m ≤ 4096)
      && decide (2 ^ log2 (qMsg d) = qMsg d) && (decide (qTimeout d = 0) || decide (16 ≤ qTimeout d))) 0x6141,
    s.endCheck p (qProducer d) true, s.endCheck p (qConsumer d) false,
    need (decide (m = 0) || decide (fld d 175 128 + m * unit64 ≤ (s.slot p).stackTop)) 0x6142]

/-- Contexts: a number declared twice is inconsistent; one that another pennant's queue holds is not free. -/
def State.contextCheck (s : State) (p : Nat) (im : Image) : Nat :=
  let ns := im.queues.map qNum
  firstBad [need (decide (ns.dedup.length = ns.length)) 0x6141,
    need (ns.all (fun n => match s.queue? n with | some q => decide (q.slot = p) | none => true)) 0x6145]

/-! ### Placement and buckets (R323, R324, R329, R331) -/

/-- Whether a port that failed is needed: M by a mirrored pennant, C+ or C− where no other way leads to a position it spans, F
at a FEEDER position (Tables 12.11, 16.3). -/
def State.portNeeded (s : State) (p : Nat) (feeder : Bool) : Bool :=
  let bad := fun (k : Nat) => decide ((s.port k).state = .down) || decide (k ∈ s.prov.badPorts)
  let far := (s.peersOf p).any (fun (r, i) => decide (r = s.ring.ring) && decide (s.route 1 false false r i false = none))
  (bad 2 && bMirrored (s.slot p).burgee) || ((bad 3 || bad 4) && far) || (feeder && decide (5 ∈ s.prov.badPorts))

/-- Whether two lists hold the same numbers, the first rising. -/
def rising (l : List Nat) : Bool :=
  match l with
  | a :: b :: r => decide (a < b) && rising (b :: r)
  | _ => true

/-- The table of an image that has one. -/
def State.placeOk (s : State) (p : Nat) (im : Image) (h : BitVec 64) : Bool :=
  let b := (s.slot p).burgee
  let es := im.places
  let ns := phStages h; let nr := phReplicas h
  let at_ := fun (k r : Nat) => es.find? (fun e => decide (peStage e = k) && decide (peReplica e = r))
  let pairs := (List.range ns).flatMap (fun k => (List.range nr).map (fun r => (k, r)))
  let chain := pairs.all (fun (k, r) => match at_ k r with
    | none => false
    | some e =>
      let first := (at_ k 0).getD 0
      decide (peFirst e = peFirst first) && decide (peLast e = peLast first) && (peFeeder e == decide (k = 0))
        && (decide (k + 1 = ns) || (match at_ (k + 1) r with
          | none => false
          | some n => decide (pePos n = (pePos e + 1) % 64) && decide (peFirst n = peLast e + 1))))
  let ix := im.blocks.map bdIndex
  decide (fld h 33 0 = 0) && decide (phSat h ≤ 1024) && (phMirrored h == bMirrored b) && decide (es.length = ns * nr)
    && es.all (fun e => decide (fld e 44 40 = 0) && decide (fld e 7 0 = 0)) && rising (es.map pePos) && chain
    && (List.range 64).all (fun i => decide (i ∈ es.map pePos) == decide (bSpan b / 2 ^ i % 2 = 1))
    && (match es.find? (fun e => decide (pePos e = s.ring.pos)) with
      | none => false
      | some e => ix.all (fun i => decide (peFirst e ≤ i) && decide (i ≤ peLast e)) && decide (ix.length = peLast e + 1 - peFirst e))

def State.placeCheck (s : State) (p : Nat) (im : Image) : Nat :=
  let b := (s.slot p).burgee
  match im.placeHdr with
  | none => need (im.places.isEmpty && decide (bSpan b = 2 ^ s.ring.pos) && !bMirrored b) 0x6160
  | some h =>
    let feeder := (im.places.find? (fun e => decide (pePos e = s.ring.pos))).elim false peFeeder
    need (s.placeOk p im h && !s.portNeeded p feeder) 0x6160

/-- Stage and replica of this module. -/
def State.placeOf (s : State) (im : Image) : Nat × Nat :=
  (im.places.find? (fun e => decide (pePos e = s.ring.pos))).elim (0, 0) (fun e => (peStage e, peReplica e))

/-- Elements covered exactly once: ranges that follow each other from 0 to n. -/
def tiles1 (fuel at_ n : Nat) (l : List (Nat × Nat)) : Bool :=
  match fuel with
  | 0 => decide (at_ = n) && l.isEmpty
  | k + 1 =>
    match l.find? (fun r => decide (r.1 = at_)) with
    | some r => decide (0 < r.2) && tiles1 k (at_ + r.2) n (l.erase r)
    | none => decide (at_ = n) && l.isEmpty

def bucketCheck (im : Image) : Nat :=
  let nr := imReplicas im
  if nr < 2 then need im.buckets.isEmpty 0x6161
  else
    let each := im.buckets.all (fun b =>
      decide (fld b 79 76 = 0) && decide (fld b 23 11 = 0) && decide (bkOffset b % 1024 = 0) && decide (1 ≤ bkLast b) && decide (bkLast b ≤ 1024)
      && decide (bkBlocks b ≤ 4096) && decide (bkOwner b < nr) && (imWset im (bkTensor b)).any (fun w => !wsFrozen w)
      && (imShards im (bkTensor b)).any (fun (n, d) => decide (n = bkChip b) && decide (dOff d ≤ bkOffset b)
        && decide (bkOffset b + bkElems b ≤ dOff d + dLen d)))
    let cover := (im.wsets.filter (fun w => !wsFrozen w)).all (fun w =>
      let l := (im.buckets.filter (fun b => decide (bkTensor b = wsTensor w))).map (fun b => (bkOffset b, bkElems b))
      tiles1 l.length 0 (imElems im (wsTensor w)) l)
    need (each && cover && decide ((im.buckets.map bkNum).dedup.length = im.buckets.length)) 0x6161

/-! ### Chips (R359, R461, R488) -/

def f32Finite (w : Word32) : Bool := decide (fld w 30 23 ≠ 255)
def f32Zero (w : Word32) : Bool := decide (fabs w = 0)
def f32Neg (w : Word32) : Bool := bit w 31 && !f32Zero w
/-- 0 ≤ w < 1. -/
def f32Frac (w : Word32) : Bool := !f32Neg w && decide ((fabs w).toNat < 0x3F800000)

/-- Rule, flags and parameters. -/
def descOk (d : BitVec 640) : Bool :=
  let r := dRule d
  decide (1 ≤ r) && decide (r ≤ 6) && (!dNesterov d || decide (r = 1)) && (!dSparse d || decide (r ∈ [1, 2, 5]))
    && (!dBias d || decide (r ∈ [2, 4])) && decide (dRoot d ≠ 3) && (List.range 8).all (fun i => f32Finite (dParam d i))
    && f32Frac (dB1 d) && f32Frac (dB2 d) && !f32Neg (dEps d) && !bit d 158
    && (if r = 6 then decide (1 ≤ dEvery d) && decide (8 ≤ dDim d) && decide (dDim d ≤ 256) && f32Frac (dB d) && !f32Zero (dB d)
        else (decide (r = 4) || f32Zero (dA d)) && f32Zero (dB d))

/-- WC_CONV and ALT_ADDR against the set. -/
def convDescOk (im : Image) (d : BitVec 640) : Bool :=
  let w := dConv d
  match imWset im (dTensor d) with
  | none => false
  | some s => decide (fld w 11 8 = 0) && decide (fld w 15 12 = wsFmt s) && decide (fld w 55 32 = dTensor d)
      && (decide (dAlt d = 0) || (decide (wsMode s = 0) && fmtScaled (wsFmt s)))

def descCheck (im : Image) (d : BitVec 640) : Nat :=
  firstBad [need (descOk d) 0x6180, need (fmtDefined (dFmt d)) 0x6112, need (convOk (dConv d)) 0x6112, need (convDescOk im d) 0x6180,
    need (decide (dRows d * dCols d ≤ 2 ^ 40)) 0x6113]

/-- Alignment of a shard's first element (R359, fourth point). -/
def shardAligned (d : BitVec 640) : Bool :=
  let o := dOff d; let c := dCols d
  let alt := decide (dAlt d ≠ 0)
  let second := bit (dConv d) 5
  decide (o % 1024 = 0) && ((decide (dRule d ≠ 3) && !dSparse d) || decide (o % c = 0))
    && (decide (dRule d ≠ 6) || decide (o % (dDim d * c) = 0)) && (!(second || alt) || decide (o % (32 * c) = 0))
    && (!(!second || alt) || !fmtScaled (fld (dConv d) 15 12) || decide (o % c % 32 = 0)) && (!dSparse d || decide (c % 32 = 0))

/-- The shards of one trainable set. -/
def shardsOk (im : Image) (w : BitVec 128) : Bool :=
  let l := imShards im (wsTensor w)
  let same := fun (a b : BitVec 640) => decide (fld a 639 384 = fld b 639 384) && decide (fld a 359 352 = fld b 359 352)
    && decide (dRows a = dRows b) && decide (dCols a = dCols b) && decide (dStart a = dStart b)
  match l with
  | [] => false
  | (_, d0) :: _ =>
    decide (l.map (·.1) = wsChips w) && l.all (fun q => same d0 q.2 && shardAligned q.2)
      && (l.foldl (fun (r : Bool × Nat) q => (r.1 && decide (dOff q.2 = r.2), r.2 + dLen q.2)) (true, 0) = (true, dRows d0 * dCols d0))

/-- Bytes of a BF16 message of a bucket (R332). -/
def bfBytes (b : BitVec 128) : Nat := 32 + 2048 * bkBlocks b + (8 * bkBlocks b + 31) / 32 * 32

/-- Regions of a chip in its state space. -/
def chipRegions (im : Image) (c : ChipImage) : List (Nat × Nat) :=
  [(chReduce c.header, chReduceSize c.header), (chHold c.header, chHoldSize c.header)]
    ++ c.descs.map (fun d => (dState d, stateUnits d (imThin im)))

def State.chipCheck (s : State) (p : Nat) (im : Image) (n : Nat) (c : ChipImage) : Nat :=
  let space := s.stateSpace p n / unit64
  let k := if im.wsets.any wsOverlap then 2 else 1
  let mine := im.buckets.filter (fun b => decide (bkChip b = n) && decide (bkOwner b = (s.placeOf im).2))
  firstBad [need (within space (chipRegions im c) && disjoint (chipRegions im c) && (c.descs.isEmpty || decide (16 ≤ chHoldSize c.header))
      && within space [(rtAddr c.retention, rtSize c.retention)]) 0x6182,
    need (decide (k * (imReplicas im - 1) * (mine.map bfBytes).sum ≤ chReduceSize c.header * unit64)) 0x6183]

/-- Units a chip's retention area must hold. -/
def State.retNeed (s : State) (x : Slot) (c : ChipImage) : Nat :=
  (c.descs.map (fun d => let r := halfRange (s.half c.retention) (dLen d); x.retUnits d r.1 r.2)).sum

def State.chipsCheck (s : State) (p : Nat) (im : Image) : Nat :=
  let ds := imDescs im
  firstBad [
    need (im.chips.all (fun c => decide (fld c.header 111 0 = 0) && decide (chMb c.header = sdMb im.stash))) 0x6180,
    firstBad (ds.map (fun d => descCheck im d.2)),
    need ((im.wsets.filter (fun w => !wsFrozen w)).all (shardsOk im)) 0x6181,
    need (im.wsets.all (fun w => (wsChips w).all (fun n => decide (0 < s.stateSpace p n)))) 0x6182,
    firstBad (im.chips.mapIdx (fun n c => s.chipCheck p im n c))]

/-- The slot as the image would leave it, for the sizes that depend on both. -/
def Slot.withImage (x : Slot) (im : Image) : Slot := { x with image := some im, thin := imThin im }

def State.retentionCheck (s : State) (p : Nat) (im : Image) : Nat :=
  let x := (s.slot p).withImage im
  need (im.chips.all (fun c =>
    (if bMirrored x.burgee then decide (rtHalf c.retention ∈ [1, 2]) else decide (rtHalf c.retention ∈ [0, 3]))
      && decide (fld c.retention 69 0 = 0) && decide (s.retNeed x c ≤ rtSize c.retention))) 0x6185

/-! ### All of them -/

/-- The code that refuses an image for slot p after its version and form. -/
def State.imageCheck (s : State) (p : Nat) (im : Image) : Nat :=
  firstBad [firstBad (im.tensors.map tensorCheck), need (im.wsets.all (fun w => fmtDefined (wsFmt w))) 0x6112,
    firstBad ((imTiles im).map (s.tileCheck p im)), s.blockCheck p im, (s.slot p).regionCheck im, frozenCheck im,
    s.frozenFmtCheck im, tieCheck im,
    firstBad (im.queues.map (s.queueCheck p)), s.contextCheck p im, s.placeCheck p im, bucketCheck im, s.chipsCheck p im, s.paramCheck p im,
    need (im.scheds.all schedOk) 0x6184, s.retentionCheck p im]

/-- Whether the major and minor version are ones the module accepts (R29). -/
def versionOk (im : Image) : Bool := decide (im.major = 5) && decide (im.minor ≤ 2)

end Sys2Proof.Machine
end

