-- ==== Sys2Proof/Machine/Passes.lean ====
section
/-! DEFINITION. The block sequencer: issue and release of passes, the stash, retry, gather passes, versions and write-back
permits (07, 12). -/

namespace Sys2Proof.Machine

/-- A slot's block sequencer may issue: Running, not halted, no rollback pending (R262, R465). -/
def State.seqRuns (s : State) (p : Nat) : Bool :=
  decide (p < 16) && decide ((s.slot p).state = .running) && !(s.slot p).seq.stopped && !(s.slot p).mirror.pending

def State.updSeq (s : State) (p : Nat) (f : Sequencer → Sequencer) : State := s.updSlot p (fun x => { x with seq := f x.seq })

/-- Pass contexts of a quarter in use (R251). -/
def State.contexts (s : State) (q : Nat) : Nat := (s.passes.filter (fun x => decide (x.homeQ = q) && decide (x.kind ≠ .update))).length

/-- Live passes of a kind. -/
def State.live (s : State) (p : Nat) (k : PassKind) (b mb step : Nat) : Bool :=
  s.passes.any (fun x => decide (x.slot = p) && decide (x.kind = k) && decide (x.block = b) && decide (x.mb = mb) && decide (x.step = step))

/-! ### The stash (R257 to R263) -/

/-- Pages of the region below the reserve. -/
def sdPages (d : BitVec 192) : Nat := sdSize d - sdReserve d
/-- Full need N and kept need K of a micro-batch. -/
def Slot.fullNeed (x : Slot) : Nat := (x.blocks.map bdStash).sum
def Slot.keptNeed (x : Slot) : Nat := ((x.blocks.filter (fun b => decide (bdFb b = 0))).map bdStash).sum

/-- The lowest n page numbers that no stash holds. -/
def Slot.freePages (x : Slot) (n : Nat) : List Nat :=
  let used := x.seq.stash.flatMap StashEnt.pages
  ((List.range (sdPages x.stashDesc)).filter (fun i => !(i ∈ used))).take n

/-- The lowest free scratchpad slot of a block. -/
def Slot.freeSlot (x : Slot) (bd : BitVec 256) : Option Nat :=
  (List.range (bdSlots bd)).find? (fun k => !x.seq.stash.any (fun e => decide (e.block = bdIndex bd) && decide (e.slot = some k)))

/-- Reserves the stash of a micro-batch (R258): none where neither case applies. -/
def Slot.reserve (x : Slot) (mb step : Nat) : Option Slot :=
  let free := sdPages x.stashDesc - x.seq.pages
  let n := x.fullNeed; let k := x.keptNeed
  let take := fun (need : Nat) (fb : Bool) =>
    let q := x.seq
    let q := { q with pages := q.pages + need, high := max q.high (q.pages + need), full := q.full + b2n (!fb), fall := q.fall + b2n fb,
                      resv := q.resv ++ [⟨step, mb, fb, need⟩] }
    { x with seq := q }
  if n ≤ free then some (take n false)
  else if x.blocks.any (fun b => decide (bdFb b ≠ 0)) ∧ k ≤ free then some (take k true)
  else none

/-- Whether a micro-batch runs in fallback. -/
def Slot.inFallback (x : Slot) (mb step : Nat) : Bool := x.seq.resv.any (fun r => decide (r.mb = mb) && decide (r.step = step) && r.fallback)

/-- Gives pages of a micro-batch back to the region. -/
def Sequencer.give (q : Sequencer) (mb step n : Nat) : Sequencer :=
  { q with pages := q.pages - n,
           resv := q.resv.map (fun (r : Resv) => if r.mb = mb ∧ r.step = step then { r with pages := r.pages - n } else r) }

/-- Places the stash of a block's forward pass: a scratchpad slot, whose pages return, or stack pages, or nothing. -/
def Slot.placeStash (x : Slot) (bd : BitVec 256) (mb step : Nat) : Slot :=
  if x.inFallback mb step ∧ bdFb bd ≠ 0 then x
  else match x.freeSlot bd with
    | some k => { x with seq := { (x.seq.give mb step (bdStash bd)) with stash := x.seq.stash ++ [⟨bdIndex bd, mb, step, some k, []⟩] } }
    | none => { x with seq := { x.seq with stash := x.seq.stash ++ [⟨bdIndex bd, mb, step, none, x.freePages (bdStash bd)⟩] } }

/-! ### Versions (R272) -/

/-- Whether every trainable set of a block has the version released that step t reads. -/
def Slot.versionsReady (x : Slot) (bd : BitVec 256) (t : Nat) : Bool :=
  (x.blockSets bd).all (fun w => wsFrozen w || decide (needVersion w t ≤ tget x.seq.versions (wsTensor w) 0))

/-! ### Forward passes (R252 to R254, R258) -/

/-- Whether a queue that a block's tiles take from the neighbour at port k holds nothing of a micro-batch yet; without such
a queue nothing is waited for (R254, R326). -/
def State.awaits (s : State) (p k : Nat) (bd : BitVec 256) (mb : Nat) : Bool :=
  s.queues.any (fun (_, y) => decide (y.slot = p) && decide (qProducer y.desc = 2 ^ 12 + k * 2 ^ 8) && decide (qConsumer y.desc < 2 ^ 11)
    && bit bd (groupNum (qConsumer y.desc / 2 ^ 9) (qConsumer y.desc / 2 ^ 5 % 16)) && !(y.mbs.any (fun m => decide (m = mb) || decide (m = 0xFFFF))))

/-- The micro-batch whose forward pass of a block comes next: for the FIRST block the next to begin, once the queue from
port W has delivered it, else the oldest that block b − 1 has released. -/
def State.nextForward (s : State) (p : Nat) (bd : BitVec 256) : Option (Nat × Nat) :=
  let x := s.slot p
  let q := x.seq
  let b := bdIndex bd
  let sd := x.stashDesc
  if bdFirst bd then
    let mb := q.nextMb % max 1 (sdMb sd)
    if (sdClips sd ≠ 0 ∧ q.clips < (q.nextMb + 1) * sdClips sd) ∨ s.awaits p 1 bd mb then none
    else some (mb, q.start + q.nextMb / max 1 (sdMb sd))
  else
    (q.fwd.find? (fun e => decide (e.1 + 1 = b) && !(q.fwd.contains (b, e.2)) && !(q.bwd.contains (b, e.2)) && !s.live p .forward b e.2.1 e.2.2)).map (·.2)

/-- Whether a rejoin holds forward passes of a step (R472, step 2). -/
def Slot.rejoinHolds (x : Slot) (t : Nat) : Bool :=
  (decide (x.mirror.rj = .boundary) || decide (x.mirror.rj = .ready) || decide (x.mirror.rj = .copies)) && decide (x.mirror.boundary ≤ t)

/-- The seed in force once t is the newest step that has issued a forward pass; a commit whose step is reached no longer
waits (R120). -/
def Seed.reach (x : Seed) (t : Nat) : Seed :=
  { x with inForce := x.at t, pending := x.pending && decide (t < (x.commits.headD (0, 0)).1) }

/-- A pass of a block waits for a context or the reserve. -/
def State.passWait (s : State) (p b : Nat) (k : PassKind) : State :=
  s.updSeq p (fun q => { q with cwait := if (b, k) ∈ q.cwait then q.cwait else q.cwait ++ [(b, k)] })

/-- Whether the gather slot of a tied set's use in a block still holds an earlier micro-batch: its backward pass has issued
and its gather pass's push has not been acknowledged (R271). -/
def State.gatherHeld (s : State) (p b mb t : Nat) (w : BitVec 128) : Bool :=
  let q := (s.slot p).seq
  let tensor := wsTensor w
  let earlier := (q.bwd.filter (fun e => decide (e.1 = b))).map (·.2)
    ++ (s.passes.filter (fun x => decide (x.slot = p) && decide (x.kind = .backward) && decide (x.block = b))).map (fun x => (x.mb, x.step))
  decide (wsTie w ≠ 63) && earlier.any (fun e => decide (e ≠ (mb, t)) && (!(q.gathered.contains (tensor, e.1, e.2))
    || s.out.tier.any (fun m => decide (m.1 = p) && decide (fld m.2.2.hdr 255 232 = tensor) && decide (m.2.2.mb = e.1) && decide (m.2.2.step = e.2))))

/-- Whether a tile of a block's groups awaits its spare: no pass that uses the group issues until it is mapped (R444, step 1). -/
def State.spareHolds (s : State) (bd : BitVec 256) : Bool := s.spare.waiting.any (fun n => bit bd (n / 20))

/-- Creates a pass. -/
def State.newPass (s : State) (x : Pass) : State :=
  { s with passes := s.passes ++ [{ x with id := s.nextPass }], nextPass := s.nextPass + 1 }

/-- FORWARD_PASS_ISSUE. -/
def State.forwardIssue (s : State) (p b : Nat) : State :=
  if ¬ s.seqRuns p then s
  else
    match (s.slot p).block? b with
    | none => s
    | some bd =>
      match s.nextForward p bd with
      | none => s
      | some (mb, t) =>
        let x := s.slot p
        if x.rejoinHolds t ∨ s.spareHolds bd ∨ s.live p .forward b mb t then s
        else if ¬ x.versionsReady bd t then
          (if (b, mb, t) ∈ x.seq.vwait then s
           else s.updSeq p (fun q => { q with vwaits := q.vwaits + 1, vwait := q.vwait ++ [(b, mb, t)] }))
        else if 256 ≤ s.contexts (bdHome bd) then s.passWait p b .forward
        else
          match (if bdFirst bd then x.reserve mb t else some x) with
          | none => s.programFault p { code := 0x6152, passKind := .forward, block := b, mb := mb, step := t }
          | some y =>
            let y := y.placeStash bd mb t
            let q := y.seq
            let q := { q with step := max q.step t, newest := max q.step t, issued := true, cwait := q.cwait.erase (b, .forward), nextMb := q.nextMb + b2n (bdFirst bd), vwait := q.vwait.erase (b, mb, t),
                              bwd := q.bwd.filter (fun e => decide (t < e.2.2 + 3)), retired := q.retired.filter (fun e => decide (t < e.2.1 + 3)) }
            let redo := match y.redoTo with | some k => if k < t then none else some k | none => none
            let s := s.setSlot p { y with seq := q, seed := y.seed.reach q.step, redoTo := redo }
            s.newPass { id := 0, slot := p, kind := .forward, block := b, mb := mb, step := t, homeQ := bdHome bd }

def execForwardPassIssue (p b : Nat) (s : State) : Res := .next (s.forwardIssue p b)

/-! ### Backward passes (R254, R260) -/

/-- BACKWARD_PASS_ISSUE: in fallback the reserve is taken first, in turn. -/
def State.backwardIssue (s : State) (p b mb : Nat) : State :=
  if ¬ s.seqRuns p then s
  else
    match (s.slot p).block? b with
    | none => s
    | some bd =>
      let x := s.slot p
      let q := x.seq
      match q.fwd.find? (fun e => decide (e.1 = b) && decide (e.2.1 = mb) && !s.live p .backward b mb e.2.2) with
      | none => s
      | some (_, _, t) =>
        let next : Bool := if bdLast bd then !s.awaits p 0 bd mb else q.bwd.contains (b + 1, mb, t)
        let fb := x.inFallback mb t && decide (bdFb bd ≠ 0)
        if ¬ next ∨ s.spareHolds bd ∨ (x.blockSets bd).any (s.gatherHeld p b mb t) then s
        else if 256 ≤ s.contexts (bdHome bd) ∨ (fb ∧ q.reserveBy ≠ 0) then s.passWait p b .backward
        else
          let s := s.updSeq p (fun q => { q with cwait := q.cwait.erase (b, .backward) })
          let s := if fb then s.updSeq p (fun q => { q with reserveBy := s.nextPass, recomputes := q.recomputes + 1 }) else s
          s.newPass { id := 0, slot := p, kind := .backward, block := b, mb := mb, step := t, homeQ := bdHome bd, reserve := fb }

def execBackwardPassIssue (p b mb : Nat) (s : State) : Res := .next (s.backwardIssue p b mb)

/-! ### Retirement and permits (Table 7.6) -/

/-- Whether a stream's lease covers a stack range of a slot. -/
def Stream.leases (x : Stream) (lo size : Nat) : Bool :=
  x.leased && decide (x.addr < lo + size) && decide (lo < x.addr + sLen x.desc)

/-- Whether a hoist lease on a byte range of a slot is outstanding. -/
def State.leasedRange (s : State) (p lo size : Nat) : Bool :=
  s.tiles.any (fun (_, t) => t.streams.any (fun x => decide (x.slot = p) && x.leases lo size))

/-- The ranges a set's write-back of step t writes: its target copy, and its alternate copies (Table 10.3, R384). -/
def Slot.targetRanges (x : Slot) (w : BitVec 128) (t : Nat) : List (Nat × Nat) :=
  (targetCopy w t, wsSize w * unit64) ::
    ((x.shards.map (fun h => h.2.desc)).filter (fun d => decide (dTensor d = wsTensor w) && decide (dAlt d ≠ 0))).map
      (fun d => (dAlt d * unit64, wsSize w * unit64))

/-- Sends the permits that are due: every using block has retired the step and every lease on what the write-back writes is
released. -/
def State.tryPermits (s : State) (p : Nat) : State :=
  let x := s.slot p
  let steps := (x.seq.retired.map (fun e => e.2.1)).dedup
  let ts := (x.wsets.filter (fun w => !wsFrozen w)).map wsTensor |>.dedup
  ts.foldl (fun s tensor => steps.foldl (fun s t =>
    let x := s.slot p
    match x.wset? tensor with
    | none => s
    | some w =>
      let due := (x.setBlocks tensor).all (fun b => decide ((b, t, sdMb x.stashDesc) ∈ x.seq.retired))
      if due ∧ (tensor, t) ∉ x.seq.permitted ∧ ¬ (x.targetRanges w t).any (fun r => s.leasedRange p r.1 r.2) then
        s.updSeq p (fun q => { q with permitted := q.permitted ++ [(tensor, t)], permits := q.permits + (wsChips w).length })
      else s) s) s

/-- LEASE_RELEASE: the leases end at every logic die; a write-back that waited for them may be permitted. -/
def State.leaseEnd (s : State) (t : TileRef) (ev : Nat) : State :=
  let slots := ((s.tile (s.phys t)).streams.map Stream.slot).dedup
  slots.foldl State.tryPermits (s.leaseRelease t ev)

def execLeaseRelease (t : TileRef) (ev : Nat) (s : State) : Res := .next (if trOk t then s.leaseEnd t ev else s)

/-! ### Release (R255, R256, R263, R441, R454, R455) -/

/-- Streams of a pass with their tiles, by tile and STREAM_INDEX. -/
def State.passStreams (s : State) (id : Nat) : List (TileRef × Stream) :=
  s.tiles.flatMap (fun (n, t) => (t.streams.filter (fun x => decide (x.pass = id))).map (fun x =>
    (s.logTile n, x)))

/-- The output words a pass holds for its release, in op-list order: queue, window and tile outputs, then tier pushes. -/
def State.outWords (s : State) (id : Nat) (tier : Bool) : List Code160 :=
  let l := (s.passStreams id).filter (fun e => e.2.held && (decide (sOp e.2.desc = 0x37) == tier))
  let keyed := l.foldl (fun (t : Tbl (List Code160)) e =>
    tput t (256 * trNum e.1 + sIndex e.2.desc) (e.2.fetch (s.tile (s.phys e.1)) 0 (sLen e.2.desc))) []
  keyed.flatMap (·.2)


/-- The words of a pass's digest (R454). -/
def State.passWords (s : State) (x : Pass) : List Code160 :=
  let kept := x.stashed.flatMap (·.2)
  match x.kind with
  | .backward => s.outWords x.id false ++ s.outWords x.id true ++ kept
  | .gather => x.outs.flatMap (fun (o : Nat × PushMsg) => hdrWords o.2.hdr ++ o.2.words)
  | _ => kept ++ s.outWords x.id false

/-- The record a pass sends. -/
def State.passDigest (s : State) (x : Pass) : Digest :=
  let key := ((s.slot x.slot).digestKey).getD 0
  let gather := decide (x.kind = .gather)
  Digest.over key { kind := x.kind, attempt := x.attempt, replay := x.replaying, block := if gather then 0 else x.block, mb := x.mb,
                    tensor := if gather then x.tensor else 0, step := x.step, lane0 := 0, lane1 := 0 } (s.passWords x)

/-- Whether a lease lies on a copy of a trainable set, whose release waits for the block to retire (Table 7.6, step 2). -/
def Slot.leasesWeights (y : Slot) (x : Stream) : Bool :=
  (y.wsets.filter (fun w => !wsFrozen w)).any (fun w => x.leases (wsCopy w * unit64) (wsSize w * unit64)
    || (y.targetRanges w 0).any (fun r => x.leases r.1 r.2))

/-- Ends what a released pass held: held outputs leave, inputs are freed, leases on anything but trainable sets end
(R255, R256, R276). -/
def State.freeStreams (s : State) (x : Pass) : State :=
  let sl := s.slot x.slot
  let s := x.rels.foldl (fun s (t, a, f, k) => s.relUnits t a f k) s
  (s.passStreams x.id).foldl (fun s e =>
    let n := s.phys e.1
    let d := e.2.desc
    let s := if sl.inputStream d (s.tile n) then s.updStream n e.2.id (fun y => { y with passed := (sLen d + 31) / 32 }) else s
    let s := if e.2.held then State.issueMore 512 (s.updStream n e.2.id (fun y => { y with held := false, passed := (sLen d + 31) / 32 })) e.1 e.2.id else s
    let s := if e.2.leased && !sl.leasesWeights e.2 then s.leaseRelease e.1 (sRelease d) else s
    s.endStreams e.1) s

/-- What release records in the sequencer. -/
def Slot.recordRelease (y : Slot) (x : Pass) : Slot :=
  let q := y.seq
  let b := x.block
  match x.kind with
  | .forward => { y with seq := { q with fwd := q.fwd ++ [(b, x.mb, x.step)] } }
  | .backward =>
    let mine := fun (e : StashEnt) => decide (e.block = b) && decide (e.mb = x.mb) && decide (e.step = x.step)
    let pages := ((q.stash.filter mine).map (fun e => e.pages.length)).sum
    let first := match y.block? b with | some bd => bdFirst bd | none => false
    let q := q.give x.mb x.step pages
    let n := match q.retired.find? (fun e => decide (e.1 = b) && decide (e.2.1 = x.step)) with | some e => e.2.2 | none => 0
    let q := { q with stash := q.stash.filter (fun e => !mine e), fwd := q.fwd.erase (b, x.mb, x.step), bwd := q.bwd ++ [(b, x.mb, x.step)],
                      retired := q.retired.erase (b, x.step, n) ++ [(b, x.step, n + 1)],
                      reserveBy := if q.reserveBy = x.id then 0 else q.reserveBy,
                      resv := if first then q.resv.filter (fun r => !(decide (r.mb = x.mb) && decide (r.step = x.step))) else q.resv }
    { y with seq := q }
  | _ => { y with seq := { q with gathered := q.gathered ++ [(x.tensor, x.mb, x.step)] } }

/-- Releases a pass whose checks and compare have passed. -/
def State.letOut (s : State) (x : Pass) : State :=
  let p := x.slot
  let s := if x.attempt = 1 then
      match x.faults with
      | r :: _ => (s.logSlot p { r with handling := .event, transient := true, attempt := 0 }).updSlot p
          (fun y => { y with recC := { y.recC with transients := y.recC.transients + 1 } })
      | [] => s
    else s
  let s := if bMirrored (s.slot p).burgee ∧ ¬ x.matched then
      s.updSlot p (fun y => { y with recC := { y.recC with lone := y.recC.lone + 1 } }) else s
  let s := (s.updSlot p (fun y => y.recordRelease x)).freeStreams x
  let s := { s with out := { s.out with tier := s.out.tier ++ x.outs.map (fun (o : Nat × PushMsg) => (p, o.1, o.2)) } }
  let s := { s with
    passes := s.passes.filter (fun y => decide (y.id ≠ x.id)),
    tiles := tmap (fun _ t => { t with conflicts := t.conflicts.filter (fun c => decide (c.1 ≠ x.id)) }) s.tiles }
  if x.kind = .backward then s.tryPermits p else s

/-- Whether a pass's attempt is complete: every descriptor of its op lists has issued, no check is pending, and nothing of it
still moves or waits but the outputs it holds (R256). -/
def State.passDone (s : State) (x : Pass) : Bool :=
  (s.slot x.slot).allRan x && s.tiles.all (fun (_, t) => t.checks.all (fun c => decide (c.pass ≠ x.id))
    && t.queued.all (fun c => decide (c.1.pass ≠ x.id)) && t.hwaits.all (fun c => decide (c.pass ≠ x.id))
    && t.streams.all (fun y => decide (y.pass ≠ x.id) || y.held || decide (sLen y.desc ≤ y.done)))

/-- PASS_RELEASE: where the pass must be compared, its record is sent first. A pennant halted as R262 describes releases
nothing. -/
def State.passRelease (s : State) (id : Nat) : State :=
  match s.pass? id with
  | none => s
  | some x =>
    if x.abandoned ∨ ¬ s.passDone x ∨ (s.slot x.slot).mirror.pending ∨ (s.slot x.slot).seq.byHost then s
    else if (s.slot x.slot).compares x.step then
      (if x.matched then s.letOut x
       else match x.digest with
        | some _ => s
        | none =>
          let d := s.passDigest x
          let s := (s.sendDigest x.slot d).updPass id (fun y => { y with digest := some d, waitTicks := true })
          let s := s.comparePass id
          match s.pass? id with
          | some y => if y.matched then s.letOut y else s
          | none => s)
    else s.letOut x

def execPassRelease (id : Nat) (s : State) : Res := .next (s.passRelease id)

/-! ### The gather pass (R271) -/

/-- Runs a gather pass's sum: its pushes, or its fault. -/
def State.runGather (s : State) (id : Nat) : State :=
  match s.pass? id with
  | none => s
  | some x =>
    let r := s.gatherSum x.slot x.tensor x.step x.mb
    match r.2 with
    | .error w =>
      let (st, u) := (s.slot x.slot).unitAt (16 * w)
      r.1.retryFault id (unitRec 0x4104 st u (w % 16))
    | .ok ps => (r.1.updPass id (fun y => { y with outs := ps })).passRelease id

/-- GATHER_PASS: every use of the group has released its backward pass of the micro-batch. -/
def State.gatherPass (s : State) (p tensor mb t : Nat) : State :=
  if ¬ s.seqRuns p then s
  else
    let x := s.slot p
    let q := x.seq
    let uses := x.wsets.filter (fun w => decide (wsTensor w = tensor) && decide (wsTie w ≠ 63))
    let ready := (x.setBlocks tensor).all (fun b => q.bwd.contains (b, mb, t))
    let busy := q.gathered.contains (tensor, mb, t)
      || s.passes.any (fun y => decide (y.slot = p) && decide (y.kind = .gather) && decide (y.tensor = tensor) && decide (y.mb = mb) && decide (y.step = t))
    if uses = [] ∨ ¬ ready ∨ busy then s
    else
      let home := match x.blocks.find? (fun b => decide (bdIndex b ∈ x.setBlocks tensor)) with | some b => bdHome b | none => 0
      let b := (x.setBlocks tensor).headD 0
      if 256 ≤ s.contexts home then s.passWait p b .gather
      else
        let s := s.updSeq p (fun q => { q with cwait := q.cwait.erase (b, .gather) })
        let id := s.nextPass
        (s.newPass { id := 0, slot := p, kind := .gather, tensor := tensor, mb := mb, step := t, homeQ := home }).runGather id

def execGatherPass (p tensor mb stp : Nat) (s : State) : Res := .next (s.gatherPass p tensor mb stp)

/-! ### The next attempt (R440, R441, R458) -/

/-- RETRY_ATTEMPT: once nothing of the abandoned attempt moves, the next attempt, or the replay, issues from the held
inputs. -/
def State.retryAttempt (s : State) (id : Nat) : State :=
  match s.pass? id with
  | none => s
  | some x =>
    let mine := s.passStreams id
    let moving := mine.any (fun e => decide (0 < e.2.tags))
      || s.tiles.any (fun (_, t) => t.checks.any (fun c => decide (c.pass = id) && decide (c.attempt = x.attempt)))
    let held := decide (x.kind ≠ .gather) && (((s.slot x.slot).block? x.block).any s.spareHolds)
    if ¬ x.abandoned ∨ moving ∨ held ∨ ¬ s.seqRuns x.slot then s
    else if ¬ x.replayDue ∧ (2 ≤ x.attempt ∨ (x.attempt = 1 ∧ ¬ x.spared)) then s
    else
      let input := fun (t : Tile) (y : Stream) => (s.slot x.slot).inputStream y.desc t
      let gone := mine.filter (fun e => !input (s.tile (s.phys e.1)) e.2)
      let keep := fun (t : Tile) (y : Stream) => decide (y.pass ≠ id) || input t y
      let clean := fun (y : Stream) => if y.pass = id then { y with due := 0, seen := [] } else y
      let s := { s with
        tiles := tmap (fun _ t => { t with streams := (t.streams.filter (keep t)).map clean, checks := t.checks.filter (fun c => decide (c.pass ≠ id)),
                                           queued := t.queued.filter (fun c => decide (c.1.pass ≠ id)),
                                           hwaits := t.hwaits.filter (fun w => decide (w.pass ≠ id)) }) s.tiles,
        arbs := tmap (fun _ a => { a with reqs := a.reqs.filter (fun r =>
          !gone.any (fun e => decide (trNum e.1 = r.tile) && decide (e.2.id = r.stream))) }) s.arbs,
        dram := tmap (fun _ k => { k with leases := k.leases.filter (fun l =>
          !gone.any (fun e => e.2.leased && decide (trNum e.1 = l.tile) && decide (e.2.id = l.stream))) }) s.dram }
      let s := (s.tiles.map (fun e => s.logTile e.1)).foldl (fun s t => (s.entryTurn 129 t).startQueued t) s
      let s := s.updSlot x.slot (fun y => { y with
        recC := { y.recC with retries := y.recC.retries + (if x.replayDue then 0 else 1) } })
      let s := s.updPass id (fun y => { y with abandoned := false, attempt := if y.replayDue then 0 else y.attempt + 1, replayDue := false,
                                               stashed := [], outs := [], digest := none, matched := false, cubes := 0, ran := [],
                                               rels := [] })
      if x.kind = .gather then s.runGather id else s

def execRetryAttempt (id : Nat) (s : State) : Res := .next (s.retryAttempt id)

/-! ### DONE (Table 7.6, step 5) -/

/-- DONE: recorded; once every owner's is there the version is released. -/
def State.doneMsg (s : State) (p src tensor v : Nat) : State :=
  match s.shardIx p src tensor with
  | none => s
  | some i =>
    match s.shard? p src i, (s.slot p).wset? tensor with
    | some h, some w =>
      if 16 ≤ p ∨ h.doneStep ≠ some v then s
      else
        let s := s.updShard p src i (fun h => { h with doneStep := none })
        let s := s.updSeq p (fun q => { q with doneFrom := q.doneFrom ++ [(tensor, v, src)] })
        if (wsChips w).all (fun n => decide ((tensor, v, n) ∈ (s.slot p).seq.doneFrom)) then
          s.updSeq p (fun q => { q with versions := tput q.versions tensor v,
                                        doneFrom := q.doneFrom.filter (fun e => !(decide (e.1 = tensor) && decide (e.2.1 ≤ v))),
                                        permitted := q.permitted.filter (fun e => !(decide (e.1 = tensor) && decide (e.2 + 1 < v))) })
        else s
    | _, _ => s

def execDone (p src set stp : Nat) (s : State) : Res := .next (s.doneMsg p src set stp)

end Sys2Proof.Machine
end

