-- ==== Sys2Proof/Machine/Mirror.lean ====
section
/-! DEFINITION. Mirror pairs and recovery: digest records, the partner-loss check, rollback with its restoration and
self-test, the rejoin of a stale ring, spare mapping and Strike (12, 17 R617 to R619). -/

namespace Sys2Proof.Machine

def State.updMirror (s : State) (p : Nat) (f : Mirror → Mirror) : State := s.updSlot p (fun x => { x with mirror := f x.mirror })

/-- Fields of a recovery header (Table 12.9). -/
def rhKind (m : RecMsg) : Nat := fld m.hdr 255 248
def rhTensor (m : RecMsg) : Nat := fld m.hdr 247 224
def rhChip (m : RecMsg) : Nat := fld m.hdr 223 222
def rhPart (m : RecMsg) : Nat := fld m.hdr 221 218
def rhStep (m : RecMsg) : Nat := fld m.hdr 191 128
def rhOff (m : RecMsg) : Nat := fld m.hdr 127 64
def rhLen (m : RecMsg) : Nat := fld m.hdr 63 32

/-- The units of a recovery message: its header, then its code words. -/
def recUnits (h : BitVec 256) (ws : List Code160) : List (BitVec 256) := h :: unitsOf ws

/-- Whether a message of this kind reaches a slot that holds a pennant; its units then count as received. -/
def State.takes (s : State) (p kind : Nat) (m : RecMsg) : Bool :=
  decide (p < 16) && decide ((s.slot p).state ≠ .free) && decide (rhKind m = kind)
def State.gotMsg (s : State) (p : Nat) (m : RecMsg) : State := s.gotUnits p (1 + (m.words.length + 1) / 2)

/-! ### Digest records (R455, R456) -/

/-- DIGEST_RECORD: held with the unpaired records and compared where the local record is there. A record that arrives after
its wait expired is discarded and counted. -/
def State.digestRecord (s : State) (p : Nat) (b : BitVec 512) : State :=
  let d := digestOfBits b
  let x := s.slot p
  if 16 ≤ p ∨ ¬ bMirrored x.burgee ∨ x.state = .free ∨ 4096 ≤ x.mirror.remote.length
      ∨ (x.mirror.state ≠ .paired ∧ x.mirror.state ≠ .rollingBack ∧ x.mirror.rj = .idle) then s
  else
    let s := s.gotUnits p 2
    let mine := fun (y : Pass) => decide (y.slot = p) && (match y.digest with | some e => e.same d && (e.replay == d.replay) | none => false)
    match s.passes.find? mine with
    | some y =>
      if y.matched then s
      else if ¬ y.waitTicks then s.updMirror p (fun m => { m with lateDigests := m.lateDigests + 1 })
      else (s.updMirror p (fun m => { m with remote := m.remote ++ [d] })).comparePass y.id
    | none =>
      let s := s.updMirror p (fun m => { m with remote := m.remote ++ [d] })
      if d.kind = .update then
        match s.shardIx p d.chip d.tensor with
        | some i => s.compareShard p d.chip i
        | none => s
      else s

def execDigestRecord (p : Nat) (d : BitVec 512) (s : State) : Res := .next (s.digestRecord p d)

/-- DIGEST_WAIT_TIMEOUT: the partner-loss check starts with a PROBE (R456, R469). -/
def State.digestTimeout (s : State) (p id : Nat) : State :=
  match s.pass? id with
  | none => s
  | some x =>
    if 16 ≤ p ∨ x.slot ≠ p ∨ ¬ x.waitTicks then s
    else
      let s := s.updPass id (fun x => { x with waitTicks := false })
      (s.sendPartner p 7 [recHdr 0x13 0 0 0 x.step 0 0]).updMirror p (fun m => { m with probing := true })

def execDigestWaitTimeout (p id : Nat) (s : State) : Res := .next (s.digestTimeout p id)

/-- PROBE: answered while the slot holds a mirrored pennant. -/
def execProbe (p : Nat) (m : RecMsg) (s : State) : Res :=
  .next (if s.takes p 0x13 m ∧ bMirrored (s.slot p).burgee then
    (s.gotMsg p m).sendPartner p 7 [recHdr 0x14 0 0 0 (rhStep m) 0 0] else s)

/-- PROBE_ANSWER: the partner is there; its records are awaited for another digest wait. -/
def State.probeAnswer (s : State) (p : Nat) : State :=
  if (s.slot p).mirror.probing then
    { s.updMirror p (fun m => { m with probing := false }) with
      passes := s.passes.map (fun x => if x.slot = p ∧ x.digest ≠ none ∧ ¬ x.matched then { x with waitTicks := true } else x) }
  else s
def execProbeAnswer (p : Nat) (m : RecMsg) (s : State) : Res :=
  .next (if s.takes p 0x14 m then (s.gotMsg p m).probeAnswer p else s)

/-! ### Restoration (R461 to R465) -/

/-- Parts of a shard that its update under way has written after round 0 (Table 12.8, step 4). -/
def roundParts (d : BitVec 640) : List Nat := if dRule d = 3 then [2] else if dRule d = 4 then [2, 3] else []

/-- Part of the state area that a byte lies in. -/
def partOf (d : BitVec 640) (thin a : Nat) : Nat :=
  ((List.range (dParts d thin).length).filter (fun i => decide (partAt d thin i ≤ a))).getLastD 0

/-- Whether the update of step t has written a shard, and whether it has written a byte of it. -/
def Shard.wrote (h : Shard) (t : Nat) : Bool := decide (h.count ≠ t) || h.torn || (h.updating && decide (h.round = 1))
def Shard.wroteAt (h : Shard) (thin t a : Nat) : Bool :=
  decide (h.count ≠ t) || h.torn || (h.updating && decide (h.round = 1) && decide (partOf h.desc thin a ∈ roundParts h.desc))

/-- The elements of shard i that this module retains from the start of step t, and those it does not. -/
def State.kept (s : State) (p n i t : Nat) : (Nat × Nat) × (Nat × Nat) :=
  match s.shard? p n i with
  | none => ((0, 0), (0, 0))
  | some h =>
    let (_, lo, hi) := s.retAt p n i
    if h.retStep ≠ some t ∨ hi ≤ lo then ((0, 0), (0, dLen h.desc))
    else if lo ≠ 0 then ((lo, hi), (0, lo))
    else ((lo, hi), (hi, dLen h.desc))

/-- Pieces of a shard that neither its own words nor its retention area give, by index into the pieces of the elements not
retained; the last index is the working copy of an OVERLAP set. -/
def State.missing (s : State) (p n i t : Nat) : List Nat :=
  match s.shard? p n i with
  | none => []
  | some h =>
    let x := s.slot p
    let (_, lo, hi) := s.kept p n i t
    if ¬ h.wrote t then []
    else
      let ps := retPieces h.desc x.thin lo hi
      (List.range ps.length).filter (fun k => h.wroteAt x.thin t (ps.getD k (0, 0)).1)
        ++ (if h.count ≠ t ∧ x.retWc h.desc t lo hi ≠ [] then [ps.length] else [])

/-- Every shard of a slot: chip and index. -/
def State.shardList (s : State) (p : Nat) : List (Nat × Nat) :=
  (s.slot p).chips.flatMap (fun (n, c) => (List.range c.shards.length).map (fun i => (n, i)))

/-- The code words of a piece of the state area, from the 32-byte boundary at or below its first byte. -/
def State.pieceWords (s : State) (p n : Nat) (q : Nat × Nat) : State × List Code160 :=
  (List.range ((q.1 % 32 + 4 * q.2 + 31) / 32 * 2)).foldl (fun (r : State × List Code160) k =>
    let g := r.1.ssGet p n (q.1 / 32 * 2 + k)
    (g.1, r.2 ++ [g.2.getD poison])) (s, [])

/-- Reads a stack word for recovery or checkpoint traffic, which its path serves as the pennant's, unit by unit (R239); a miss does
not allocate (Table 8.7). -/
def State.recovWord (s : State) (p w : Nat) : State × Option Code160 :=
  let (st, u) := (s.slot p).unitAt (16 * w)
  let s := if w % 16 = 0 then (s.grantAt (.cachePort (st / 2)) p).grantAt (.bankQueue st (uPch u) (uBank u)) p else s
  s.stackWord p w

/-- Sends the partner the half of a shard that this module retains (R464, source 3): each piece, then the working copy of an
OVERLAP set. -/
def State.sendHalf (s : State) (p n i t : Nat) : State :=
  match s.shard? p n i with
  | none => s
  | some h =>
    let d := h.desc
    let x := s.slot p
    let r := halfRange (s.half (s.chipSlot p n).retention) (dLen d)
    let s := (retPieces d x.thin r.1 r.2).foldl (fun s q =>
      let w := s.pieceWords p n q
      let part := partOf d x.thin q.1
      w.1.sendPartner p 6 (recUnits (recHdr 2 (dTensor d) n part t (q.1 / 32 * 32 - partAt d x.thin part) (w.2.length / 2)) w.2)) s
    match x.retWc d t r.1 r.2 with
    | [] => s
    | l =>
      let w := l.foldl (fun (r : State × List Code160) k => let g := r.1.recovWord p k; (g.1, r.2 ++ [g.2.getD poison])) (s, [])
      w.1.sendPartner p 6 (recUnits (recHdr 2 (dTensor d) n 14 t 0 ((w.2.length + 1) / 2)) w.2)

/-- A shard at the start of step t. -/
def Shard.back (h : Shard) (t : Nat) : Shard :=
  { h with count := t, mb := 0, added := 0, accRead := false, updating := false, round := 0, sentEx := [], inbox := [],
           withheld := false, permits := [], awaitRes := false, wbPending := false, wbRows := [], digest := none, partner := none,
           doneStep := none, torn := false }

/-- Byte of the copy that holds version v of a set (R272, R274). -/
def versionCopy (w : BitVec 128) (v : Nat) : Nat := (if wsOverlap w ∧ v % 2 = 1 then wsShadow w else wsCopy w) * unit64

/-- Writes version t of a shard's part of its working copies from the masters (Table 12.8, step 5); the second component says
whether the masters could be read. -/
def State.copyFromMasters (s : State) (p n i t : Nat) : State × Bool :=
  match s.shard? p n i with
  | none => (s, true)
  | some h =>
    let d := h.desc
    let x := s.slot p
    match x.wset? (dTensor d) with
    | none => (s, true)
    | some w =>
      let v := s.getVec p n (partAt d x.thin 0) (dLen d)
      match v.2 with
      | none => (v.1, false)
      | some ms =>
        let a := wcConvert x d (dConv d) (versionCopy w t) t none ms
        let b := if dAlt d = 0 then ([], {}) else wcConvert x d (altConv (dConv d)) (dAlt d * unit64) t none ms
        let r := v.1.mergeCover p a.1
        let r' := r.1.mergeCover p b.1
        ((((r'.1.putWords p (r.2 ++ r'.2)).events p a.2).events p b.2), true)

/-- The pennant halts with no state to return to (R464). -/
def State.noState (s : State) (p t : Nat) : State :=
  (s.programFault p { code := 0x8331, step := t, detail0 := t }).updMirror p (fun m => { m with rb := .idle, need := [] })

/-- What a rollback to step t leaves in the sequencer, the buckets and the mirror object (R465, R466). -/
def Slot.backTo (x : Slot) (t : Nat) : Slot :=
  let q := x.seq
  let sets := x.wsets.filter (fun w => !wsFrozen w)
  { x with
    redoTo := some (max q.step (x.redoTo.getD 0)),
    seq := { q with step := t, start := t, nextMb := 0, issued := false, clips := 0, stopped := true,
                    clipNo := q.clipNo.filter (fun e => decide (e.1 < t)),
                    versions := sets.foldl (fun v w => tput v (wsTensor w) t) q.versions },
    buckets := x.buckets.map (fun b => { b with base := (t : Int) - 1, lastSum := (t : Int) - 1, lastRes := (t : Int) - 1, withheld := [],
                                                scaleC := b.scaleC.map (fun _ => 0xFF), scaleR := b.scaleR.map (fun _ => 0xFF) }),
    mirror := { x.mirror with rb := .awaiting, need := [],
                              restart := ((q.clipNo.find? (fun e => decide (e.1 = t))).map (·.2)).getD x.mirror.restart } }

/-- Every chunk is restored: counts, touched bitmaps and working copies follow, and resume is awaited. -/
def State.restored (s : State) (p t : Nat) : State :=
  let r := (s.shardList p).foldl (fun (r : State × Bool) (n, i) =>
    let s := r.1.updShard p n i (fun h => h.back t)
    let s := match s.shard? p n i with | some h => (s.clearTouched p n h.desc).1 | none => s
    let c := s.copyFromMasters p n i t
    (c.1, r.2 && c.2)) (s, true)
  if r.2 then r.1.updSlot p (fun x => x.backTo t) else r.1.noState p t

/-- Restores what the module itself holds; a mirrored module also sends its half to the partner (step 4). -/
def State.restore (s : State) (p : Nat) : State :=
  let t := (s.slot p).mirror.rbTarget
  let paired := bMirrored (s.slot p).burgee && !(s.slot p).mirror.loneRb
  let need := (s.shardList p).flatMap (fun (n, i) => (s.missing p n i t).map (fun k => (n, i, k)))
  let s := (s.shardList p).foldl (fun s (n, i) =>
    match s.shard? p n i with
    | some h => if h.wrote t ∧ h.retStep = some t then (s.unretain p n i t).1 else s
    | none => s) s
  let s := if paired then (s.shardList p).foldl (fun s (n, i) => s.sendHalf p n i t) s else s
  if need = [] then s.restored p t
  else if paired then s.updMirror p (fun m => { m with rb := .restoring, need := need })
  else s.noState p t

/-- Modules whose TARGET a rollback waits for. -/
def State.rbPeers (s : State) (p : Nat) : List (Nat × Nat) :=
  (s.peersOf p).filter (fun k => decide (k.1 = s.ring.ring) || !(s.slot p).mirror.loneRb)

/-- Once every module has reported its target, self-test runs where a disagreement led here, and chunks are restored. -/
def State.rbPump (s : State) (p : Nat) : State :=
  let m := (s.slot p).mirror
  if m.pending ∧ m.rb = .targets ∧ (s.rbPeers p).all (fun k => decide (k ∈ m.reported)) then
    (if m.testing ∧ ¬ m.loneRb then s.updMirror p (fun m => { m with rb := .testing }) else s.restore p)
  else s

/-- HALT: starts a rollback or merges with it (R467). -/
def execHalt (p : Nat) (m : RecMsg) (s : State) : Res :=
  .next (if s.takes p 0x10 m then
    let s := s.gotMsg p m
    (s.rollback p (min (rhStep m) (if (s.slot p).mirror.pending then rhStep m else (s.slot p).target)) false).rbPump p else s)

/-- TARGET from a module: the lowest is adopted. -/
def State.targetMsg (s : State) (p ring pos t : Nat) : State :=
  let m := (s.slot p).mirror
  if m.pending ∧ (m.rb = .targets ∨ m.rb = .testing) ∧ (ring, pos) ∈ s.peersOf p then
    (s.updMirror p (fun m => { m with
      rbTarget := min m.rbTarget t, target := min m.rbTarget t,
      reported := if (ring, pos) ∈ m.reported then m.reported else m.reported ++ [(ring, pos)] })).rbPump p
  else s
def execTarget (p ring pos : Nat) (m : RecMsg) (s : State) : Res :=
  .next (if s.takes p 0x11 m then (s.gotMsg p m).targetMsg p ring pos (rhStep m) else s)

/-- RETAINED_CHUNK: a piece that is awaited is written; once none is, the restoration ends. Words that fail their check are
no source. -/
def State.retainedChunk (s : State) (p : Nat) (m : RecMsg) : State :=
  let mi := (s.slot p).mirror
  let t := mi.rbTarget
  let n := rhChip m
  match s.shardIx p n (rhTensor m) with
  | none => s
  | some i =>
    match s.shard? p n i with
    | none => s
    | some h =>
      let x := s.slot p
      let (_, lo, hi) := s.kept p n i t
      let ps := retPieces h.desc x.thin lo hi
      let k := if rhPart m = 14 then ps.length
        else ps.findIdx (fun q => decide (q.1 / 32 * 32 = partAt h.desc x.thin (rhPart m) + rhOff m))
      if mi.rb ≠ .restoring ∨ rhStep m ≠ t ∨ (n, i, k) ∉ mi.need ∨ m.words.any unusable then s
      else
        let s := if k = ps.length then
            s.putWords p (((x.retWc h.desc t lo hi).mapIdx (fun j w => (16 * w, m.words.getD j 0))))
          else
            let q := ps.getD k (0, 0)
            s.putVec p n q.1 (((m.words.flatMap wordLanes).drop (q.1 % 32 / 4)).take q.2)
        let s := s.updMirror p (fun m => { m with need := m.need.erase (n, i, k) })
        if (s.slot p).mirror.need = [] then s.restored p t else s
def execRetainedChunk (p : Nat) (m : RecMsg) (s : State) : Res :=
  .next (if s.takes p 2 m then (s.gotMsg p m).retainedChunk p m else s)

/-! ### Self-test during a rollback (R459, R617 to R619) -/

/-- The word of a SELF_TEST message: bit 127 the result (1: a fault), SITE_KIND in [125:122], SITE in [121:100] (log 6). -/
def testWord (r : Option (SiteKind × Nat)) : Code160 :=
  match r with
  | none => encodeWord 0
  | some (k, site) => encodeWord (BitVec.ofNat 128 (2 ^ 127 + siteKindNum k * 2 ^ 122 + site % 2 ^ 22 * 2 ^ 100))

/-- Reference counts of an hour of the control domain's count (R68). -/
def hourCount : Nat := 90000000000

/-- A fault located in this module: recorded, handled under "Spares", and counted towards a Strike (Table 12.11). -/
def State.located (s : State) (p : Nat) (k : SiteKind) (site : Nat) : State :=
  let q := site / 2 ^ 20 % 4; let g := site / 2 ^ 15 % 16; let t := site / 2 ^ 10 % 32
  let spare := decide (k = .tile) && s.spareFree (groupNum q g) && decide (t < 19)
  let s := s.logSlot p { code := 0x8313, handling := if spare then .spare else .failover, siteKind := k, site := site }
  let since := s.mod.ref - s.recov.strikeWindow * hourCount
  let l := (s.mod.located ++ [s.mod.ref]).filter (fun r => decide (since ≤ r))
  let s := { s with mod := { s.mod with located := l } }
  let s :=
    if spare then { s with spare := { s.spare with waiting := sins s.spare.waiting (tileNum q g t) } }
    else
      let s := match k with
        | .tile => s.retireGroup (groupNum q g) 0x8313
        | .group => s.retireGroup (site / 2 ^ 14) 0x8313
        | .chip => s.failChip (site / 2 ^ 14 % 4) 0x8313
        | .stack => (s.withdraw (2 * (site / 2 ^ 19) + site / 2 ^ 13 % 64 / 16)).halfMast 0x8313
        | _ => s
      s.failover p
  if s.recov.strikeLimit ≤ l.length then s.strike else s

/-- What 0x9030 reports of a self-test. -/
def Test.report (x : Test) (own : Option (SiteKind × Nat)) (ref : Nat) : Test :=
  let x := { x with selfGroups := 0, selfChips := 0, selfStacks := 0, selfRef := ref }
  match own with
  | some (.tile, site) => { x with selfGroups := 2 ^ (groupNum (site / 2 ^ 20 % 4) (site / 2 ^ 15 % 16)) }
  | some (.group, site) => { x with selfGroups := 2 ^ (site / 2 ^ 14 % 64) }
  | some (.chip, site) => { x with selfChips := 2 ^ (4 + site / 2 ^ 14 % 4) }
  | some (.stack, site) => { x with selfStacks := 2 ^ (2 * (site / 2 ^ 19 % 8) + site / 2 ^ 13 % 64 / 16) }
  | _ => x

/-- The logic and memory tests of a pennant's tile groups leave nothing in their scratchpads and handle tables, and the loader's
entries are written again (R618; DEDUCED, log 25). -/
def State.testedTiles (s : State) (p : Nat) : State :=
  let s := { s with tiles := tmap (fun n t => if (s.slot p).granule (granuleOf (n / 320) (n / 20 % 16)) then
    { t with mem := [], handles := [] } else t) s.tiles }
  match (s.slot p).image with
  | none => s
  | some im => im.tiles.foldl (fun s t => s.setTile (s.phys t.tile) (s.loadHandles p (s.tile (s.phys t.tile)) t).1) s

/-- SELF_TEST: both results are known, this module's own and the partner's. -/
def State.selfTest (s : State) (p : Nat) (m : RecMsg) (own : Option (SiteKind × Nat)) : State :=
  if (s.slot p).mirror.rb ≠ .testing then s
  else
    let s := { s.testedTiles p with test := s.test.report own s.mod.ref }
    let s := s.sendPartner p 7 (recUnits (recHdr 0x17 0 0 0 (s.slot p).mirror.rbTarget 0 1) [testWord own])
    let theirs := bit (codeData (m.words.getD 0 0)) 127
    let s := s.updMirror p (fun m => { m with testing := false })
    match own with
    | some (k, site) =>
      let s := s.located p k site
      if (s.slot p).mirror.state = .stale ∨ s.mod.state = .struck then s.updMirror p (fun m => { m with rb := .idle }) else s.restore p
    | none =>
      let s := if theirs then s else s.logSlot p { code := 0x8314, step := (s.slot p).mirror.rbTarget }
      s.restore p
def execSelfTest (p : Nat) (m : RecMsg) (own : Option (SiteKind × Nat)) (s : State) : Res :=
  .next (if s.takes p 0x17 m then ((s.gotMsg p m).rbPump p).selfTest p m own else s)

/-! ### Resume (Table 12.8, step 6) -/

def State.rbResume (s : State) (p : Nat) : State :=
  let s := s.rbPump p
  let m := (s.slot p).mirror
  if ¬ m.pending ∨ m.rb ≠ .awaiting then s.answer .valueRefused
  else
    let st := if m.state = .rollingBack then (if m.loneRb then MirrorState.lone else .paired) else m.state
    let s := s.updSlot p (fun x => { x with
      -- the count of committed clips starts anew at resume (R253)
      seq := { x.seq with stopped := false, byHost := false, clips := 0, clipNo := x.seq.clipNo.filter (fun e => decide (e.1 < x.seq.start)) },
      mirror := { x.mirror with pending := false, rb := .idle, loneRb := false, reported := [], state := st } })
    (s.slotTo p .running).answer .ok

/-- ROLLBACK_RESUME: the host operator writes 0x8020 + p:05. -/
def execRollbackResume (via : Via) (p : Nat) (s : State) : Res :=
  .next (s.guard via (ixOf 0x8020 16 p) 5 (fun s => s.rbResume p))

/-! ### Partner loss (R469, R470) -/

/-- The partner is lost: this module's ring runs lone; what waited for a compare goes on without one. -/
def State.partnerLost (s : State) (p : Nat) : State :=
  let m := (s.slot p).mirror
  if ¬ bMirrored (s.slot p).burgee ∨ (s.slot p).state = .free ∨ m.state = .lone ∧ m.rj = .idle ∨ m.state = .stale ∨ m.state = .notMirrored then s
  else
    let s := s.logSlot p { code := 0x8320, siteKind := .partner, detail0 := m.partner.toNat }
    if m.rj ≠ .idle then (if m.rjSource then s.rejoinFail p else s.haltSlot p)
    else
      let s := s.updSlot p (fun x => { x with
        mirror := { x.mirror with state := if m.pending then x.mirror.state else .lone, loneRb := m.pending, probing := false, remote := [] },
        chips := tmap (fun _ c => { c with shards := c.shards.map (fun h =>
          if h.digest = none then h else { h with digest := none, doneStep := some h.count }) }) x.chips })
      if m.pending ∧ m.rb = .restoring then s.noState p m.rbTarget
      else if m.pending ∧ m.rb = .testing then s.restore p
      else s.rbPump p

/-- PROBE_TIMEOUT: no answer within a second digest wait. -/
def execProbeTimeout (p : Nat) (s : State) : Res :=
  .next (if p < 16 ∧ (s.slot p).mirror.probing then s.partnerLost p else s)

/-! ### Rejoin (R472, R473) -/

/-- Trainable sets with a first owner chip, and whether they have a second copy (PART 15). -/
def State.copySets (s : State) (p : Nat) : List (BitVec 128 × Nat × Bool) :=
  ((s.slot p).wsets.filter (fun w => !wsFrozen w)).filterMap (fun w =>
    match wsChips w with
    | [] => none
    | n :: _ =>
      let alt := match (s.shardIx p n (wsTensor w)).bind (fun i => s.shard? p n i) with | some h => decide (dAlt h.desc ≠ 0) | none => false
      some (w, n, wsOverlap w || alt))

/-- The copies and scale tables of a slot: (tensor, chip, 14 or 15), and (tensor, chip, 0) for the scale tables. -/
def State.copyParts (s : State) (p : Nat) : List (Nat × Nat × Nat) :=
  (s.copySets p).flatMap (fun (w, n, two) => (wsTensor w, n, 14) :: (if two then [(wsTensor w, n, 15)] else []))
    ++ ((s.slot p).buckets.map (fun b => (bkTensor b.desc, bkChip b.desc, 0))).dedup

/-- The parts of every shard's state but the accumulator. -/
def State.stateParts (s : State) (p : Nat) : List (Nat × Nat × Nat) :=
  (s.shardList p).flatMap (fun (n, i) =>
    match s.shard? p n i with
    | some h => ((List.range (dParts h.desc (s.slot p).thin).length).filter (fun k => decide (k ≠ 1))).map (fun k => (dTensor h.desc, n, k))
    | none => [])

/-- First stack byte and 64 KiB units of a copy. -/
def State.copyAt (s : State) (p tensor n part : Nat) : Nat × Nat :=
  match (s.slot p).wset? tensor with
  | none => (0, 0)
  | some w =>
    let alt := match (s.shardIx p n tensor).bind (fun i => s.shard? p n i) with | some h => dAlt h.desc | none => 0
    ((if part = 14 then wsCopy w else if wsOverlap w then wsShadow w else alt) * unit64, wsSize w)

/-- The bytes of the scale tables of a set's buckets on a chip: each bucket's contribution scales, then its result scales. -/
def Slot.tableBytes (x : Slot) (tensor n : Nat) : List Byte :=
  (x.buckets.filter (fun b => decide (bkTensor b.desc = tensor) && decide (bkChip b.desc = n))).flatMap (fun b =>
    (b.scaleC ++ b.scaleR).map (BitVec.ofNat 8))
def bytesWords (l : List Byte) : List Code160 := (chunks 16 l).map (fun c => encodeWord (BitVec.ofNat 128 (leNat c)))

/-- The words of a part, as sent. -/
def State.partWords (s : State) (p : Nat) (copies : Bool) (k : Nat × Nat × Nat) : State × List Code160 :=
  let (tensor, n, part) := k
  if copies then
    if part = 0 then (s, bytesWords ((s.slot p).tableBytes tensor n))
    else
      let (a, u) := s.copyAt p tensor n part
      (List.range (4096 * u)).foldl (fun (r : State × List Code160) i =>
        let g := r.1.recovWord p (a / 16 + i); (g.1, r.2 ++ [g.2.getD poison])) (s, [])
  else
    match (s.shardIx p n tensor).bind (fun i => s.shard? p n i) with
    | some h =>
      let thin := (s.slot p).thin
      s.pieceWords p n (partAt h.desc thin part, (dParts h.desc thin).getD part 0)
    | none => (s, [])

/-- The digest of a part under the pennant's digest key (R452, R454). -/
def State.partDigest (s : State) (p : Nat) (kind : PassKind) (k : Nat × Nat × Nat) (step : Nat) (ws : List Code160) : Digest :=
  Digest.over ((s.slot p).digestKey.getD 0) { kind := kind, tensor := k.1, chip := k.2.1, step := step } ws

/-- The words of a PART_DIGEST: LANE0, LANE1, then zero to 8 data words (Table 12.9, log 6). -/
def digestWords (d : Digest) : List Code160 := [encodeWord d.lane0, encodeWord d.lane1] ++ List.replicate 14 (encodeWord 0)
def lanesOf (m : RecMsg) : Data128 × Data128 := (codeData (m.words.getD 0 0), codeData (m.words.getD 1 0))

/-- Sends the parts to the partner, a PART_DIGEST after each. -/
def State.sendParts (s : State) (p : Nat) (copies : Bool) (ks : List (Nat × Nat × Nat)) : State :=
  let e := (s.slot p).mirror.boundary
  ks.foldl (fun s k =>
    let w := s.partWords p copies k
    let kind := if copies then (if k.2.2 = 0 then 4 else 3) else 1
    let s := w.1.sendPartner p (if copies then 7 else 2) (recUnits (recHdr kind k.1 k.2.1 k.2.2 e 0 ((w.2.length + 1) / 2)) w.2)
    let d := s.partDigest p .reload k e w.2
    s.sendPartner p 7 (recUnits (recHdr 0x15 k.1 k.2.1 k.2.2 e 0 8) (digestWords d))) s

/-- Lowest step whose first forward pass has not issued. -/
def Slot.boundaryStep (x : Slot) : Nat :=
  let mb := max 1 (sdMb x.stashDesc)
  max (x.seq.start + (x.seq.nextMb + mb - 1) / mb) (if x.seq.issued then x.seq.step + 1 else x.seq.start)

/-- The source's shards have reached the start of the boundary step. -/
def Slot.atBoundary (x : Slot) : Bool :=
  x.shards.all (fun h => decide (h.2.count = x.mirror.boundary) && !h.2.updating && !h.2.wbPending && !h.2.awaitRes)

/-- Step 5 at the source: the state of every shard goes, and the updates of step E no longer wait. -/
def State.sendStates (s : State) (p : Nat) : State :=
  let ks := s.stateParts p
  let s := s.updMirror p (fun m => { m with rj := .running, todo := ks })
  let s := s.sendParts p false ks
  s.updSlot p (fun x => { x with chips := tmap (fun _ c => { c with shards := c.shards.map (fun h => { h with owed := false }) }) x.chips })

/-- The rejoin is complete on this module (step 6). -/
def State.rejoined (s : State) (p : Nat) : State :=
  let s := s.logSlot p { code := 0x8321, siteKind := .partner, step := (s.slot p).mirror.boundary }
  s.updMirror p (fun m => { m with rj := .idle, state := .paired, todo := [], rx := [] })

/-- What every part's match leads to: the source starts step E and then sends RELOAD_DONE. -/
def State.sourcePump (s : State) (p : Nat) : State :=
  let m := (s.slot p).mirror
  if ¬ m.rjSource ∨ m.todo ≠ [] then s
  else if m.rj = .copies then s.sendStates p
  else if m.rj = .running then (s.sendPartner p 7 [recHdr 0x16 0 0 0 m.boundary 0 0]).rejoined p
  else s

/-- The source sends its copies once its shards have reached the boundary (step 3). -/
def State.rejoinPump (s : State) (p : Nat) : State :=
  let x := s.slot p
  if x.mirror.rj = .ready ∧ x.mirror.rjSource ∧ x.atBoundary then
    let ks := s.copyParts p
    let s := s.updMirror p (fun m => { m with rj := .copies, todo := ks })
    (s.sendParts p true ks).sourcePump p
  else s

/-- REJOIN_SOURCE starts: a lone module of the named ring is a source, a halted one of the other ring a target (log 16). -/
def State.rejoinStart (s : State) (p v : Nat) : State :=
  let x := s.slot p
  let s := s.updMirror p (fun m => { m with source := v })
  if ¬ bMirrored x.burgee ∨ v = 0xFF ∨ x.image = none ∨ x.mirror.rj ≠ .idle ∨ x.mirror.pending then s
  else if v = s.ring.ring then
    if x.mirror.state = .lone then
      let e := x.boundaryStep
      let s := s.updSlot p (fun x => { x with
        mirror := { x.mirror with rj := .boundary, rjSource := true, boundary := e },
        chips := tmap (fun _ c => { c with shards := c.shards.map (fun h => { h with owed := true }) }) x.chips })
      s.sendAll p (recHdr 0x12 0 0 0 e 0 0)
    else s
  else if x.state = .running ∨ x.state = .granting ∨ x.state = .releasing then s
  else
    let ks := s.copyParts p
    s.updMirror p (fun m => { m with rj := .boundary, rjSource := false, boundary := 0, state := .reloading, todo := ks, rx := [] })

/-- The write of 0x8020 + p:06 by the host operator. -/
def State.writeSource (s : State) (p v : Nat) : State :=
  if v ≠ 0 ∧ v ≠ 1 ∧ v ≠ 0xFF then s.answer .valueRefused else (s.rejoinStart p v).answer .ok
def execRejoinSource (via : Via) (p v : Nat) (s : State) : Res :=
  .next (s.guard via (ixOf 0x8020 16 p) 6 (fun s => s.writeSource p v))

/-- Step 4 at the target: step E starts, its shards' updates waiting for their state. -/
def State.startTarget (s : State) (p : Nat) : State :=
  let e := (s.slot p).mirror.boundary
  let s := s.updSlot p (fun x =>
    let m := x.mirror
    let y := x.backTo e
    { y with
      seq := { y.seq with stopped := false, byHost := false },
      buckets := (y.buckets.zip x.buckets).map (fun (b, o) => { b with scaleC := o.scaleC, scaleR := o.scaleR }),
      chips := tmap (fun _ c => { c with shards := c.shards.map (fun h => { h.back e with reload := true }) }) y.chips,
      mirror := { m with rj := .running, todo := [], rx := [] } })
  let ks := s.stateParts p
  (s.updMirror p (fun m => { m with todo := ks })).slotTo p .running

/-- BOUNDARY: the source ring's highest counts; the target adopts it and acknowledges; the acknowledgement lets the source
go on (step 2). -/
def State.boundaryMsg (s : State) (p ring e : Nat) : State :=
  let m := (s.slot p).mirror
  if m.rjSource then
    if m.rj ≠ .boundary then s
    else if ring = s.ring.ring then
      (if m.boundary < e then (s.updMirror p (fun m => { m with boundary := e })).sendPartner p 7 [recHdr 0x12 0 0 0 e 0 0] else s)
    else if e = m.boundary then (s.updMirror p (fun m => { m with rj := .ready })).rejoinPump p
    else s
  else if ring ≠ s.ring.ring ∧ (m.rj = .boundary ∨ (m.rj = .copies ∧ m.rx = [] ∧ m.boundary < e)) then
    let s := (s.updMirror p (fun m => { m with boundary := e, rj := .copies })).sendPartner p 7 [recHdr 0x12 0 0 0 e 0 0]
    if m.todo = [] then s.startTarget p else s
  else s
def execBoundary (p ring : Nat) (m : RecMsg) (s : State) : Res :=
  .next (if s.takes p 0x12 m then (s.gotMsg p m).boundaryMsg p ring (rhStep m) else s)

/-- Adds the words of a message to what has been received of its part. -/
def addRx (l : List ((Nat × Nat × Nat) × List Code160)) (k : Nat × Nat × Nat) (ws : List Code160) : List ((Nat × Nat × Nat) × List Code160) :=
  match l.find? (fun e => decide (e.1 = k)) with
  | some e => (k, e.2 ++ ws) :: l.filter (fun e => decide (e.1 ≠ k))
  | none => (k, ws) :: l
def rxOf (l : List ((Nat × Nat × Nat) × List Code160)) (k : Nat × Nat × Nat) : List Code160 :=
  match l.find? (fun e => decide (e.1 = k)) with
  | some e => e.2
  | none => []

/-- A part's message at the target, in the step that awaits it. -/
def State.partIn (s : State) (p : Nat) (step : RjStep) (k : Nat × Nat × Nat) (m : RecMsg) (f : State → State) : State :=
  let mi := (s.slot p).mirror
  if mi.rjSource ∨ mi.rj ≠ step ∨ k ∉ mi.todo ∨ rhStep m ≠ mi.boundary then s
  else (f s).updMirror p (fun mi => { mi with rx := addRx mi.rx k m.words })

def rhKey (m : RecMsg) : Nat × Nat × Nat := (rhTensor m, rhChip m, rhPart m)

/-- WORKING_COPY_MESSAGE: its words go to the copy. -/
def execWorkingCopyMessage (p : Nat) (m : RecMsg) (s : State) : Res :=
  .next (if s.takes p 3 m then
    (s.gotMsg p m).partIn p .copies (rhKey m) m (fun s =>
      let (a, _) := s.copyAt p (rhTensor m) (rhChip m) (rhPart m)
      s.putWords p (m.words.mapIdx (fun i w => (a + rhOff m + 16 * i, w)))) else s)

/-- Fills bucket scale tables from bytes, in bucket order. -/
def fillTables (l : List Bucket) (tensor n : Nat) (bs : List Nat) : List Bucket :=
  (l.foldl (fun (r : List Bucket × List Nat) b =>
    if bkTensor b.desc = tensor ∧ bkChip b.desc = n then
      let c := b.scaleC.length; let k := b.scaleR.length
      (r.1 ++ [{ b with scaleC := r.2.take c, scaleR := (r.2.drop c).take k }], r.2.drop (c + k))
    else (r.1 ++ [b], r.2)) ([], bs)).1

/-- SCALE_TABLE_MESSAGE: the scale tables of a set's buckets on a chip. -/
def execScaleTableMessage (p : Nat) (m : RecMsg) (s : State) : Res :=
  .next (if s.takes p 4 m then
    (s.gotMsg p m).partIn p .copies (rhTensor m, rhChip m, 0) m (fun s =>
      let bs := m.words.flatMap (fun w => (bytesLE 16 (codeData w).toNat).map BitVec.toNat)
      s.updSlot p (fun x => { x with buckets := fillTables x.buckets (rhTensor m) (rhChip m) bs })) else s)

/-- STATE_MESSAGE: its words go to the shard's state area. -/
def execStateMessage (p : Nat) (m : RecMsg) (s : State) : Res :=
  .next (if s.takes p 1 m then
    (s.gotMsg p m).partIn p .running (rhKey m) m (fun s =>
      match (s.shardIx p (rhChip m) (rhTensor m)).bind (fun i => s.shard? p (rhChip m) i) with
      | some h =>
        let a := partAt h.desc (s.slot p).thin (rhPart m) + rhOff m
        (m.words.mapIdx (fun i w => (i, w))).foldl (fun s (i, w) => s.ssPut p (rhChip m) (a / 16 + i) w) s
      | none => s) else s)

/-- A part matched at the target: it is acknowledged; the last copy starts step E, the last part of a shard frees its
update. -/
def State.partMatched (s : State) (p : Nat) (k : Nat × Nat × Nat) (m : RecMsg) : State :=
  let s := s.updMirror p (fun mi => { mi with todo := mi.todo.erase k, rx := mi.rx.filter (fun e => decide (e.1 ≠ k)) })
  let s := s.sendPartner p 7 (recUnits m.hdr m.words)
  let mi := (s.slot p).mirror
  if mi.rj = .copies then (if mi.todo = [] then s.startTarget p else s)
  else if mi.todo.any (fun e => decide (e.1 = k.1) && decide (e.2.1 = k.2.1)) then s
  else
    match s.shardIx p k.2.1 k.1 with
    | some i => s.updShard p k.2.1 i (fun h => { h with reload := false })
    | none => s

/-- PART_DIGEST over M: compared with the part received; at the source it is the acknowledgement of a match. -/
def State.partDigestMsg (s : State) (p : Nat) (m : RecMsg) : State :=
  let mi := (s.slot p).mirror
  let k := rhKey m
  if mi.rj ≠ .copies ∧ mi.rj ≠ .running ∨ k ∉ mi.todo ∨ rhStep m ≠ mi.boundary then s
  else if mi.rjSource then (s.updMirror p (fun mi => { mi with todo := mi.todo.erase k })).sourcePump p
  else
    let d := s.partDigest p .reload k mi.boundary (rxOf mi.rx k)
    if lanesOf m = (d.lane0, d.lane1) then s.partMatched p k m
    else if mi.rj = .running then s.haltSlot p
    else s.rejoinFail p

/-- RELOAD_DONE: every shard's state has matched, and the pair is whole again. -/
def State.reloadDone (s : State) (p : Nat) : State :=
  let mi := (s.slot p).mirror
  if mi.rjSource ∨ mi.rj ≠ .running then s
  else if mi.todo ≠ [] then s.haltSlot p
  else s.rejoined p
def execReloadDone (p : Nat) (m : RecMsg) (s : State) : Res :=
  .next (if s.takes p 0x16 m then (s.gotMsg p m).reloadDone p else s)

/-! ### Spare mapping (R444, R445) and Strike -/

/-- What the copy to the spare makes of a tile's scratchpad: words are corrected, and a poison word is copied as one; an
uncorrectable word becomes poison in a region that a valid entry names, else zero. The second component says whether such a
region lost a word. -/
def Tile.copied (x : Tile) : Mem × Bool :=
  let regions := x.handles.filterMap (fun (_, h) => if hValid h ∧ hKind h = 0 then some (2 * hBase h, 2 * hLen h) else none)
  ((x.mem.map (fun c => c.1 / 20)).dedup).foldl (fun (r : Mem × Bool) w =>
    let c := Memory.readWord r.1 w
    match rsDecide c with
    | .uncorrectable =>
      let named := regions.any (fun (b, l) => decide (b ≤ w) && decide (w < b + l))
      (Memory.writeWord r.1 w (if named then poison else 0), r.2 || named)
    | _ => (Memory.writeWord r.1 w (checkedWord c), r.2)) (x.mem, false)

/-- SPARE_MAPPING: the spare takes the logical tile; the abandoned attempts that failed there run as attempt 2. `lost`: the
copy met a word that storage had lost. -/
def State.spareMap (s : State) (q g t : Nat) (lost : Bool) : State :=
  let gn := groupNum q g
  let n := tileNum q g t
  if 4 ≤ q ∨ 16 ≤ g ∨ 19 ≤ t ∨ n ∉ s.spare.waiting ∨ ¬ s.spareFree gn then s
  else
    let x := s.tile n
    let c := x.copied
    let s := (s.setTile (tileNum q g 19) { x with mem := c.1 }).setTile n {}
    let s := { s with
      spare := { s.spare with spares := tput s.spare.spares gn t, waiting := s.spare.waiting.erase n },
      passes := s.passes.map (fun (y : Pass) =>
        let bad := match y.faults.getLast? with
          | some r => decide (r.siteKind = SiteKind.tile) && decide (r.site = siteTile q g t)
          | none => false
        if y.abandoned ∧ y.attempt = 1 ∧ bad then { y with spared := true } else y) }
    let r : ErrRec := { code := 0x8303, handling := .spare, siteKind := .tile, site := siteTile q g 19, detail0 := 19, detail1 := t }
    match s.holder (granuleOf q g) with
    | some p =>
      let s := s.logSlot p r
      if lost ∨ c.2 then s.rollbackFault p { code := 0x8305, siteKind := .tile, site := siteTile q g 19 } else s
    | none => s.logErr r

def execSpareMapping (q g t : Nat) (lost : Bool) (s : State) : Res := .next (s.spareMap q g t lost)

/-- STRIKE: a cause of Table 12.11, 15.9 or 16.3. -/
def execStrike (s : State) : Res := .next s.strike

end Sys2Proof.Machine
end

