-- ==== Sys2Proof/Machine/Slots.lean ====
section
/-! DEFINITION. Pennant slots: the commands GRANT, RELEASE, HALT and RESUME, key agreement, meters, firmware slots,
attestation nonces, checkpoint, chassis and vendor keys (13, 14 R550, R551). -/

namespace Sys2Proof.Machine

/-! ### Keys (R501 to R504) -/

/-- One request to the DRBG (R502). -/
def State.draw (s : State) : BitVec 512 × State := (Config.drbg s.free, { s with free := s.free + 1 })

/-- The ensign key: its public key, and its signatures with the algorithms of R516. -/
def ensignPub : List Byte := ecPub Config.ensignKey
def ensignSign (m : List Byte) : List Byte := ecdsaSign Config.ensignKey m

/-- Octets of a label in ASCII. -/
def label (l : List Nat) : List Byte := l.map (BitVec.ofNat 8)
/-- "CLH-LINK", "CLH-DIGEST", "CLH-CKPT", "CLH-VENDOR", "CLH-STORE". -/
def lblLink : List Byte := label [0x43, 0x4C, 0x48, 0x2D, 0x4C, 0x49, 0x4E, 0x4B]
def lblDigest : List Byte := label [0x43, 0x4C, 0x48, 0x2D, 0x44, 0x49, 0x47, 0x45, 0x53, 0x54]
def lblCkpt : List Byte := label [0x43, 0x4C, 0x48, 0x2D, 0x43, 0x4B, 0x50, 0x54]
/-- "CLH-CKPT-OUT", "CLH-CKPT-IN", "CLH-CKPT-DIGEST". -/
def lblCkptOut : List Byte := lblCkpt ++ label [0x2D, 0x4F, 0x55, 0x54]
def lblCkptIn : List Byte := lblCkpt ++ label [0x2D, 0x49, 0x4E]
def lblCkptDigest : List Byte := lblCkpt ++ label [0x2D, 0x44, 0x49, 0x47, 0x45, 0x53, 0x54]
def lblVendor : List Byte := label [0x43, 0x4C, 0x48, 0x2D, 0x56, 0x45, 0x4E, 0x44, 0x4F, 0x52]
def lblStore : List Byte := label [0x43, 0x4C, 0x48, 0x2D, 0x53, 0x54, 0x4F, 0x52, 0x45]

/-- Key-epoch link key of a VC with a peer (R504). -/
def Agreed.linkKey (a : Agreed) (tenant v e : Nat) : BitVec 256 :=
  hkdfKey (hashOctets a.salt) a.secret (lblLink ++ bytesLE 3 tenant ++ bytesLE 1 v ++ bytesLE 4 e)
/-- Digest key of a mirror pair (R504). -/
def Agreed.digestKey (a : Agreed) (tenant : Nat) : BitVec 256 :=
  hkdfKey (hashOctets a.salt) a.secret (lblDigest ++ bytesLE 3 tenant)

/-! ### Checks of a grant (R489, R490, R493) -/

/-- Whether the staged fields keep the rules of Table 13.5 and R489. -/
def State.stagedOk (s : State) (x : Staged) : Bool :=
  let h := ((List.range 16).filter (fun k => x.granules / 2 ^ k % 2 = 1)).length
  decide (x.tenant ≠ 0) && decide (x.tenant < 2 ^ 24) && decide (x.granules ≠ 0)
    && decide (x.span / 2 ^ s.ring.pos % 2 = 1) && decide (x.rights < 32) && decide (x.vcs / 16 % 4 = 0)
    && decide (x.bortis < 2 ^ 24)
    && (if s.anyCart then decide (x.bortis = 0) else decide (4 * x.bortis < h * 786432))

/-- The code that refuses a GRANT, 0 where none does. -/
def State.grantCode (s : State) (p : Nat) : Nat :=
  let x := s.slot p
  let ks := (List.range 16).filter (fun k => x.staged.granules / 2 ^ k % 2 = 1)
  if x.state = .releasing then 0x3106
  else if s.mod.state ≠ .hoisted ∧ s.mod.state ≠ .halfMast then 0x3107
  else if x.state ≠ .free then (if s.slots.any (fun y => decide (y.state = .free)) then 0x3103 else 0x3105)
  else if ks.any (fun k => decide (s.holder k ≠ none) || decide (k ∈ s.spare.withdrawn)) then 0x3101
  else if (List.range 16).any (fun i => decide (i ≠ p) && decide ((s.slot i).state ≠ .free)
      && decide ((s.slot i).tenant = x.staged.tenant)) then 0x3102
  else if ¬ s.stagedOk x.staged then 0x3108
  else if x.staged.rights / 16 % 2 = 1 ∧ 3 ≤ s.bank.outcome then 0x205B
  else 0

/-- The burgee written from the staged fields (Table 13.5). -/
def burgeeOf (p : Nat) (g : Staged) (no : Nat) (persist : Bool) : BitVec 256 :=
  BitVec.ofNat 256 (no % 2 ^ 32 * 2 ^ 224 + g.span % 2 ^ 64 * 2 ^ 160 + (if persist then p else 0xFFFF) * 2 ^ 144
    + 2 ^ 137 + 2 ^ 136 + g.bortis * 2 ^ 112 + g.vcs % 256 * 2 ^ 104 + g.rights * 2 ^ 96
    + b2n g.mirrored * 2 ^ 80 + g.granules % 65536 * 2 ^ 64 + p * 2 ^ 24 + g.tenant)

/-! ### Clearing (R170, R209, R314, R562, R625) -/

/-- Groups of a granule. -/
def groupsOf (k : Nat) : List Nat := (List.range 4).map (fun i => 16 * (k / 4) + 4 * (k % 4) + i)

/-- Setpoint a group's domain powers on at: the target, at most 100 mV above any neighbour that is on (R561). -/
def State.onMv (s : State) (d : Nat) : Nat :=
  max (domFloor d) (((neighbours d).filter (fun n => s.domOn n && domVariable n)).foldl (fun m n => min m ((s.dom n).mv + 100)) s.power.targetMv)

/-- Powers a group's domain on; a retired group stays off. -/
def State.powerOn (s : State) (d : Nat) : State :=
  if (s.dom d).state = .retired then s
  else (s.updDom d (fun x => { x with state := .on })).setMv d (s.onMv d)
/-- Powers a group's domain off. -/
def State.powerOff (s : State) (d : Nat) : State :=
  if (s.dom d).state = .retired then s
  else (s.updDom d (fun x => { x with state := .off, mv := 0, thermal := false, cap := false, critical := false })).dropDomain d

/-- Clears a granule's tiles, group counters, stall objects and cache ways. -/
def State.clearGranule (s : State) (k : Nat) : State :=
  let gs := groupsOf k
  { s with
    tiles := s.tiles.filter (fun t => t.1 / 20 ∉ gs),
    -- a fill of the slot that held the granule finds no way of its own afterwards (R314)
    caches := tmap (fun q c => if q = k / 4 then
      { c with lines := c.lines.filter (fun l => decide (l.way / 4 ≠ k % 4)),
               fills := c.fills.filter (fun f => !decide (k ∈ (s.slot f.slot).granules)) } else c) s.caches }
/-- The counters that a grant of the group clears. -/
def State.clearCounters (s : State) (k : Nat) : State :=
  let gs := groupsOf k
  { s with
    groups := s.groups.filter (fun g => g.1 ∉ gs),
    test := { s.test with groupStall := s.test.groupStall.filter (fun g => g.1 ∉ gs),
                          tileStall := if s.test.tileSel / 32 ∈ gs then {} else s.test.tileStall } }

/-- Sets the fresh tags of a cartridge quarter. -/
def Cart.freshen (x : Cart) (j : Nat) : Cart :=
  { x with used := x.used.filter (fun t => decide (t / 2 ^ 24 ≠ j)), cleared := x.cleared.filter (fun q => decide (q ≠ j)) }

/-- Sets the fresh tags of a granule's half-stack and cartridge part (R292, R317). -/
def State.freshen (s : State) (k : Nat) : State :=
  { s with
    dram := tmap (fun n x => if n = k / 2 then { x with used := x.used.filter (fun t => decide (t / 2 ^ 24 ≠ k % 2)) } else x) s.dram,
    carts := tmap (fun n x => if n = k % 4 then x.freshen (k / 4) else x) s.carts }
/-- Sets those of the cartridge part alone. -/
def State.freshenCart (s : State) (k : Nat) : State :=
  { s with carts := tmap (fun n x => if n = k % 4 then x.freshen (k / 4) else x) s.carts }

/-- Loads a stack key and a cartridge key into key slot p of every logic die and chip. -/
def State.loadKeys (s : State) (p : Nat) (sk ck : BitVec 512) : State :=
  { s with dram := (List.range 8).foldl (fun t n => tput t n { (tget t n {}) with keys := tput (tget t n {}).keys p sk }) s.dram,
           chips := (List.range 4).foldl (fun t n => tput t n { (tget t n {}) with keys := tput (tget t n {}).keys p ck }) s.chips }
/-- Zeroises key slot p everywhere. -/
def State.dropKeys (s : State) (p : Nat) : State :=
  { s with dram := tmap (fun _ x => { x with keys := tdel x.keys p }) s.dram,
           chips := tmap (fun _ x => { x with keys := tdel x.keys p }) s.chips }

/-! ### Key agreement (R503, R504) -/

/-- Peers of key agreement: every other position of SPAN on the module's own ring, and the mirror partner. -/
def State.keyPeers (s : State) (p : Nat) : List (Nat × Nat) :=
  let b := (s.slot p).burgee
  ((List.range 64).filter (fun i => decide (bSpan b / 2 ^ i % 2 = 1) && decide (i ≠ s.ring.pos))).map (fun i => (s.ring.ring, i))
    ++ (if bMirrored b then [(1 - s.ring.ring, s.ring.pos)] else [])

/-- Bytes 0 to 151 of a key offer (Table 13.7). -/
def offerBody (ring pos tenant epoch : Nat) (nonce : List Byte) (eph : List Byte) : List Byte :=
  [0x20#8] ++ bytesLE 1 ring ++ bytesLE 1 pos ++ [0#8] ++ bytesLE 3 tenant ++ [0#8] ++ bytesLE 4 epoch ++ bytesLE 4 0
    ++ nonce ++ eph ++ bytesLE 7 0

/-- Fields of an offer. -/
def offerRing (o : KeyOffer) : Nat := (o.bytes.getD 1 0).toNat
def offerPos (o : KeyOffer) : Nat := (o.bytes.getD 2 0).toNat
def offerTenant (o : KeyOffer) : Nat := leNat ((o.bytes.drop 4).take 3)
def offerEph (o : KeyOffer) : List Byte := (o.bytes.drop 48).take 97

/-- Data units of an octet string, zero-padded. -/
def byteUnits (l : List Byte) : List (BitVec 256) := (chunks 32 l).map (fun c => BitVec.ofNat 256 (leNat c))

/-- Sends the slot's offer to each peer on VC 4. -/
def State.sendOffers (s : State) (p : Nat) : State :=
  (s.keyPeers p).foldl (fun s (r, i) =>
    s.sendTo 4 r i (s.slot p).tenant (byteUnits (s.slot p).offer)) s

/-- The first data unit of a signal-book message on VC 4: KIND and the signal-book version (R552). -/
def bookUnit (kind : Nat) : BitVec 256 := BitVec.ofNat 256 (kind + 0x0400 * 2 ^ 8)

/-- Key of a peer in the tables of what it has told. -/
def peerKey (ring pos : Nat) : Nat := 2 * pos + ring

/-- Asks a peer for the next segment of its certificate chain, 0x3810:01 (R503 step 1, R553). -/
def State.fetchChain (s : State) (ring pos tenant : Nat) : State :=
  let have_ := (tget s.peerChain (peerKey ring pos) []).length
  let h := 3 * 2 ^ 248 + 4 * 2 ^ 245 + 0x3810 * 2 ^ 208 + 2 ^ 200 + have_ % 2 ^ 24 * 2 ^ 160
    + (tget s.peerNonce (peerKey ring pos) 0).toNat * 2 ^ 64
  s.sendTo 4 ring pos tenant [bookUnit 1, BitVec.ofNat 256 h, BitVec.ofNat 256 1024]

/-- Starts an agreement: an ephemeral key pair, a nonce, and the signed offer to each peer. -/
def State.startAgreement (s : State) (p : Nat) : State :=
  let d := s.draw
  let n := d.2.draw
  let s := n.2
  let priv := scalarOf d.1
  let body := offerBody s.ring.ring s.ring.pos (s.slot p).tenant s.ring.epoch (bytesLE 32 n.1.toNat) (ecPub priv)
  let s := s.updSlot p (fun x => { x with eph := some priv, agreed := [], offer := body ++ ensignSign body,
                                          burgee := putFld x.burgee 139 139 0, linkKeys := false })
  s.sendOffers p

/-- The record of a failed agreement (0x3110): peer position and ring. -/
def State.agreeFail (s : State) (p : Nat) (o : KeyOffer) : State :=
  s.logSlot p { code := 0x3110, siteKind := .partner, detail0 := offerPos o, detail1 := offerRing o }

/-- Once every peer's offer is accepted: the link keys are agreed, the ephemeral key goes, and Granting becomes
Granted. -/
def State.agreementDone (s : State) (p : Nat) : State :=
  let x := s.slot p
  if (s.keyPeers p).all (fun k => x.agreed.any (fun a => decide (a.ring = k.1) && decide (a.pos = k.2))) then
    let s := s.updSlot p (fun x => { x with
      eph := none, linkKeys := true,
      burgee := putFld (putFld x.burgee 139 139 1) 138 138 (b2n (x.digestKey ≠ none)) })
    if x.state = .granting then s.slotTo p .granted else s
  else s

/-- Whether the chain holds and certifies the ensign key that signed the offer (R503 steps 2 and 3). -/
def offerSigned (o : KeyOffer) : Bool := o.chainOk && ecdsaVerify o.ensign (o.bytes.take 152) (o.bytes.drop 152)

/-- An offer meets a slot whose agreement runs (R503 steps 2 to 5). An ephemeral key that is no point of the curve fails too
(DEDUCED, log 12). -/
def State.takeOffer (s : State) (p : Nat) (o : KeyOffer) : State :=
  let x := s.slot p
  match x.eph with
  | none => s
  | some priv =>
    if (offerRing o, offerPos o) ∉ s.keyPeers p then s
    else if ¬ offerSigned o ∨ pointOf (offerEph o) = none ∨ o.bytes.length ≠ 248 ∨ o.bytes.getD 0 0 ≠ 0x20 ∨ offerTenant o ≠ x.tenant
        ∨ o.mirrored ≠ bMirrored x.burgee ∨ o.span ≠ bSpan x.burgee ∨ o.vcs ≠ bVcs x.burgee then s.agreeFail p o
    else
      let first := decide (offerRing o < s.ring.ring) || (decide (offerRing o = s.ring.ring) && decide (offerPos o < s.ring.pos))
      let salt := sha384 (if first then o.bytes ++ x.offer else x.offer ++ o.bytes)
      let a : Agreed := ⟨offerRing o, offerPos o, salt, ecdh priv (offerEph o)⟩
      let partner := decide (offerRing o ≠ s.ring.ring)
      let s := s.updSlot p (fun x => { x with
        agreed := x.agreed.filter (fun b => !(decide (b.ring = a.ring) && decide (b.pos = a.pos))) ++ [a],
        digestKey := if partner ∧ x.digestKey = none then some (a.digestKey x.tenant) else x.digestKey })
      s.agreementDone p

/-- KEY_OFFER: an offer, with what the receiver's remote reads of its sender bring; a chain not held yet is asked for. An offer for a tenant whose slot is not yet Granting waits for its grant (log 12). -/
def State.keyOffer (s : State) (o : KeyOffer) : State :=
  match s.slotOfTenant (offerTenant o) with
  | some p =>
    let s := if tget? s.peerChain (peerKey (offerRing o) (offerPos o)) = none ∧ (offerRing o, offerPos o) ∈ s.keyPeers p then
        s.fetchChain (offerRing o) (offerPos o) (s.slot p).tenant else s
    s.takeOffer p o
  | none =>
    { s with offers := s.offers.filter (fun q => !(decide (offerTenant q = offerTenant o) && decide (offerRing q = offerRing o)
        && decide (offerPos q = offerPos o))) ++ [o] }

def execKeyOffer (k : KeyOffer) (s : State) : Res := .next (s.keyOffer k)

/-- KEY_AGREEMENT_RETRY: each second while an agreement is not complete, the offers go out again. -/
def execKeyAgreementRetry (p : Nat) (s : State) : Res :=
  .next (if p < 16 ∧ (s.slot p).eph ≠ none then s.sendOffers p else s)

/-! ### GRANT, RELEASE (Tables 13.3, 13.4) -/

/-- Steps 2 to 6 of a grant. -/
def State.grantRun (s : State) (p : Nat) : State :=
  let g := (s.slot p).staged
  let ks := (List.range 16).filter (fun k => g.granules / 2 ^ k % 2 = 1)
  let s := (ks.flatMap groupsOf).foldl State.powerOn s
  let a := s.draw
  let b := a.2.draw
  let sk := a.1; let ck := b.1
  let s := b.2.loadKeys p sk ck
  let s := ks.foldl (fun s k => (s.clearGranule k).clearCounters k) s
  let keep := g.rights / 16 % 2 = 1
  let s := s.updSlot p (fun x =>
    { state := .free, staged := g, last := 0, grantNo := (x.grantNo + 1) % 2 ^ 32, burgee := burgeeOf p g (x.grantNo + 1) keep,
      stackKey := some sk, cartKey := some ck,
      persist := if keep then s.keys.storage.map (fun k => keyWrap k (bytesLE 64 ck.toNat)) else none,
      release := x.release, policy := x.policy, attest := x.attest,
      mirror := { state := if g.mirrored then .paired else .notMirrored, partner := (s.port 2).peerSerial } })
  let s := s.slotTo p .granting
  let early := s.offers.filter (fun o => decide (offerTenant o = g.tenant))
  let s : State := { s with offers := s.offers.filter (fun o => decide (offerTenant o ≠ g.tenant)) }
  if s.keyPeers p = [] then s.slotTo p .granted
  else early.foldl (fun s o => s.takeOffer p o) (s.startAgreement p)

/-- A command's outcome is its last status (Table 13.8, subindex 0x0A). -/
def State.cmdDone (s : State) (p code : Nat) : State :=
  let s := s.updSlot p (fun x => { x with last := code })
  if code = 0 then s.answer .ok else s.refuse p code

def State.grant (s : State) (p : Nat) : State :=
  let c := s.grantCode p
  (if c = 0 then s.grantRun p else s).cmdDone p c

/-- A snapshot latches every meter in one action (R512). -/
def State.snapshot (s : State) (p : Nat) : State :=
  s.updSlot p (fun x => { x with latched := x.meters, snap := (x.snap + 1) % 2 ^ 32, snapRef := s.mod.ref })

/-- The release record: a final snapshot with TENANT and GRANT_NO (R513). -/
def State.recordOf (s : State) (p : Nat) : RelRec :=
  let x := s.slot p
  { v := x.latched.v, snap := x.snap, ref := x.snapRef, tenant := bTenant x.burgee, grant := x.grantNo }

/-- A slot that is Free: what outlives its pennant. The meters and the counter objects of the slot stand until the next grant
clears them. -/
def freeSlot (x : Slot) (r : RelRec) : Slot :=
  { state := x.state, staged := x.staged, last := x.last, grantNo := x.grantNo, release := r, policy := x.policy,
    meters := x.meters, pj := x.pj, latched := x.latched, snap := x.snap, snapRef := x.snapRef,
    seq := x.seq, ingest := x.ingest, str := x.str, red := x.red, upd := x.upd, recC := x.recC, cacheC := x.cacheC,
    burgee := BitVec.ofNat 256 (x.grantNo * 2 ^ 224 + 0xFFFF * 2 ^ 144) }

/-- Steps 2 to 7 of a release. The mailbox and the queue pair of the slot's function hold nothing of the pennant
afterwards (R509, log 13). -/
def State.releaseRun (s : State) (p : Nat) : State :=
  let ks := (s.slot p).granules
  let s := s.slotTo p .releasing
  let s := ((s.haltSlot p).discardWork p).dropKeys p
  let s := ks.foldl (fun s k => (s.freshen k).clearGranule k) s
  let s := { s with queues := s.queues.filter (fun q => decide (q.2.slot ≠ p)) }
  let s := (ks.flatMap groupsOf).foldl State.powerOff s
  let s := s.snapshot p
  let s := s.updSlot p (fun x => freeSlot x (s.recordOf p))
  let s := s.slotTo p .free
  { s with boxes := s.boxes.set (p + 1) {}, qps := s.qps.set (17 + p) {},
           blobs := s.blobs.filter (fun b => !(decide (b.via.who = .tenant) && decide (b.via.slot = p))) }

def State.release (s : State) (p : Nat) : State :=
  let c := match (s.slot p).state with | .free => 0x3107 | .releasing => 0x3106 | _ => 0
  (if c = 0 then s.releaseRun p else s).cmdDone p c

/-! ### HALT, RESUME (R497, R602, R476) -/

/-- HALT: a pennant that ran lone is then stale on this ring (R471). -/
def State.haltCmd (s : State) (p : Nat) : State :=
  let c := match (s.slot p).state with | .running => 0 | .releasing => 0x3106 | _ => 0x3107
  (if c = 0 then (s.haltSlot p).updSlot p (fun x =>
    { x with mirror := { x.mirror with state := if x.mirror.state = .lone then .stale else x.mirror.state } })
   else s).cmdDone p c

/-- The code that refuses a RESUME. -/
def State.resumeCode (s : State) (p : Nat) : Nat :=
  let x := s.slot p
  match x.state with
  | .releasing => 0x3106
  | .halted => if x.mirror.pending ∨ x.granules.any (fun k => decide (k ∈ s.spare.withdrawn)) then 0x3107 else 0
  | .restored => if x.image = none ∨ (s.mod.state ≠ .hoisted ∧ s.mod.state ≠ .halfMast) then 0x3107 else 0
  | _ => 0x3107

def State.resumeCmd (s : State) (p : Nat) : State :=
  let c := s.resumeCode p
  (if c ≠ 0 then s
   else if (s.slot p).state = .halted then
     (s.updSlot p (fun x => { x with seq := { x.seq with stopped := false, byHost := false } })).slotTo p .running
   else (s.slotTo p .halted).rollback p (s.slot p).target true).cmdDone p c

/-- Who may write a command: the host operator, and for HALT and RESUME the tenant with RUN through its own window. -/
def State.mayCommand (s : State) (via : Via) (p : Nat) (tenantToo : Bool) : Bool :=
  decide (via.who = .host) || (tenantToo && decide (via.who = .tenant) && decide (via.slot = p)
    && decide (bRights (s.slot p).burgee / 2 % 2 = 1))

/-- A command written to 0x3000 + p:09. -/
def State.command (s : State) (via : Via) (p : Nat) (tenantToo : Bool) (f : State → State) : State :=
  s.guard via (ixOf 0x3000 16 p) 9 (fun s => if s.mayCommand via p tenantToo then f s else s.answer .accessDenied)

def execGrant (via : Via) (p : Nat) (s : State) : Res := .next (s.command via p false (fun s => s.grant p))
def execRelease (via : Via) (p : Nat) (s : State) : Res := .next (s.command via p false (fun s => s.release p))
def execHaltCommand (via : Via) (p : Nat) (s : State) : Res := .next (s.command via p true (fun s => s.haltCmd p))
/-- A halt of R262 is lifted by the host operator alone. -/
def execResume (via : Via) (p : Nat) (s : State) : Res :=
  .next (s.command via p (!(s.slot p).seq.byHost) (fun s => s.resumeCmd p))

/-! ### Meters (R512) -/

/-- Whether a principal holds a right of a slot: the host operator, the maintainer where allowed, the tenant with the
bit of RIGHTS. -/
def State.holds (s : State) (via : Via) (p : Nat) (maint : Bool) (right : Nat) : Bool :=
  decide (via.who = .host) || (maint && decide (via.who = .maint))
    || (decide (via.who = .tenant) && decide (via.slot = p) && decide (bRights (s.slot p).burgee / 2 ^ right % 2 = 1))

/-- The write of the snapshot subindex; a tenant needs METERS. -/
def State.writeSnapshot (s : State) (via : Via) (p v : Nat) : State :=
  if ¬ s.holds via p true 3 then s.answer .accessDenied
  else if v = 0 then s.answer .ok else (s.snapshot p).answer .ok

/-- METER_SNAPSHOT: every meter is latched in one action. -/
def execMeterSnapshot (via : Via) (p : Nat) (s : State) : Res :=
  .next (s.guard via (ixOf 0xA000 16 p) 0x14 (fun s => s.writeSnapshot via p 1))

/-! ### Firmware (R516 to R518) -/

def fwSec (f : FwImage) : Nat := fld f.header 95 64
def fwBuild (f : FwImage) : Nat := fld f.header 255 192
def fwSigned (f : FwImage) : List Byte := bytesLE 64 f.header.toNat ++ f.body

/-- The checks of R517 but for the security version. -/
def State.fwFormOk (s : State) (f : FwImage) : Bool :=
  decide (fld f.header 31 0 = 0x57464C43) && decide (fld f.header 47 32 = 1)
    && decide (fld f.header 127 96 = f.body.length) && decide (f.body.length % 64 = 0) && decide (f.body.length ≤ 2 ^ 26)
    && decide (fld f.header 63 56 = 2)
    && decide (fld f.header 167 160 < 4) && decide (Config.vendorKeyHash (fld f.header 167 160) = sha384 (f.pubKey.take 97))
    && decide (fld f.header 167 160 ∉ s.fw.revoked)
    && ecdsaVerify (f.pubKey.take 97) (fwSigned f) f.sig
def State.fwOk (s : State) (f : FwImage) : Bool := s.fwFormOk f && decide (s.fw.fusedMin ≤ fwSec f)

/-- Verifies an image for the inactive slot: kept, or the slot is erased and the code given. -/
def State.fwLoad (s : State) (f : FwImage) : State × Nat :=
  let k := 1 - s.fw.active
  if s.fwOk f then ({ s with fw := { s.fw with slots := s.fw.slots.set k (some f), inactive := 2, activate := false } }, 0)
  else ({ s with fw := { s.fw with slots := s.fw.slots.set k none, inactive := 3, activate := false } },
    if s.fwFormOk f then 0x3131 else 0x3130)

/-- The value of 0x3800:04 is complete. -/
def State.fwWrite (s : State) (f : FwImage) : State :=
  let s := { s with fw := { s.fw with buf := [] }, blobs := s.blobs.filter (fun b => decide (b.index ≠ 0x3800)) }
  let r := s.fwLoad f
  if r.2 = 0 then r.1.answer .ok else r.1.refuse 16 r.2

/-- FIRMWARE_IMAGE_WRITE: the last segment of 0x3800:04. -/
def execFirmwareImageWrite (via : Via) (f : FwImage) (s : State) : Res :=
  .next (s.guard via 0x3800 4 (fun s => s.fwWrite f))

/-- FIRMWARE_ACTIVATE: the verified slot boots at the next Proving. -/
def State.fwActivate (s : State) : State :=
  if s.fw.inactive = 2 then ({ s with fw := { s.fw with activate := true } }).answer .ok else s.answer .valueRefused
def execFirmwareActivate (via : Via) (s : State) : Res :=
  .next (s.guard via 0x3800 5 State.fwActivate)

/-- FIRMWARE_COMMIT: the fused minimum rises to the running image's security version, at most 64. -/
def State.fwCommit (s : State) : State :=
  match s.fw.slots.getD s.fw.active none with
  | none => s.answer .valueRefused
  | some f =>
    if 64 < fwSec f then s.refuse 16 0x3131
    else ({ s with fw := { s.fw with fusedMin := max s.fw.fusedMin (fwSec f) } }).answer .ok
def execFirmwareCommit (via : Via) (s : State) : Res :=
  .next (s.guard via 0x3800 6 State.fwCommit)

/-! ### Attestation nonces (R519) -/

/-- A nonce replaces one whose report is not ready. -/
def State.setNonce (s : State) (p : Option Nat) (n : List Byte) : State :=
  match p with
  | none => { s with modAttest := { s.modAttest with nonce := some n } }
  | some p => s.updSlot p (fun x => { x with attest := { x.attest with nonce := some n } })

/-- Whether a principal may request a report. -/
def State.mayAttest (s : State) (via : Via) (p : Option Nat) : Bool :=
  match p with
  | none => decide (via.who = .host) || decide (via.who = .maint)
  | some p => s.holds via p false 2

def State.attestNonce (s : State) (via : Via) (p : Option Nat) (n : List Byte) : State :=
  if ¬ s.mayAttest via p then s.refuse (p.getD 16) 0x3120
  else if n.length ≠ 32 then s.answer .lengthMismatch
  else (s.setNonce p n).answer .ok

/-- ATTESTATION_NONCE. -/
def execAttestationNonce (via : Via) (p : Option Nat) (nonce : List Byte) (s : State) : Res :=
  .next (s.guard via (match p with | some p => ixOf 0x3820 16 p | none => 0x3830) 1 (fun s => s.attestNonce via p nonce))

/-! ### Checkpoint, chassis and vendor keys (R508, R550, R551) -/

/-- Unwraps a checkpoint key for slot p (R508 steps 3 and 4). -/
def State.installCkpt (s : State) (p : Nat) (v : List Byte) : State :=
  let ikm := match s.keys.intake with
    | some priv => ecdh priv (v.take 97)
    | none => []
  let kek := hkdfKey [] ikm (lblCkpt ++ bytesLE 3 (s.slot p).tenant)
  match if ikm = [] then none else keyUnwrap kek 32 (v.drop 97) with
  | some k => s.updSlot p (fun x => { x with ckptKey := some (BitVec.ofNat 256 (leNat k)) })
  | none => (s.updSlot p (fun x => { x with ckptKey := none })).logSlot p { code := 0x3112 }

def State.ckptWrite (s : State) (p : Nat) (v : List Byte) : State :=
  if v.length ≠ 137 then s.answer .lengthMismatch
  else if (s.slot p).state = .granted ∨ (s.slot p).state = .running ∨ (s.slot p).state = .halted ∨ (s.slot p).state = .restored then
    (s.installCkpt p v).answer .ok
  else s.answer .valueRefused

def execCheckpointKeyInstall (via : Via) (p : Nat) (v : List Byte) (s : State) : Res :=
  .next (s.guard via (ixOf 0x3850 16 p) 1 (fun s => s.ckptWrite p v))

/-- CHASSIS_KEY_WRITE: 48 octets; 48 zeros clear it. -/
def State.chassisWrite (s : State) (v : List Byte) : State :=
  if v.length ≠ 48 then s.answer .lengthMismatch
  else ({ s with mgmt := { s.mgmt with chassisKey := if v.all (fun b => decide (b = 0)) then none else some v } }).answer .ok

def execChassisKeyWrite (via : Via) (v : List Byte) (s : State) : Res :=
  .next (s.guard via 0x3840 1 (fun s =>
    if via.who = .maint ∧ s.mgmt.chassisKey = none then s.answer .accessDenied else s.chassisWrite v))

/-- VENDOR_UNLOCK: the unlock must bind the serial number and the boot nonce; the session key comes from the module's
per-boot ephemeral key. -/
def State.vendorUnlock (s : State) (v : List Byte) : State :=
  if v.length ≠ 256 then s.answer .lengthMismatch
  else if Config.vendorUnlockOk v s.mod.serial s.mod.nonce then
    let ikm := match s.keys.vendor with
      | some priv => ecdh priv (Config.vendorUnlockKey v)
      | none => []
    ({ s with mgmt := { s.mgmt with vendorOpen := true }, keys := { s.keys with session := some (hkdfKey [] ikm lblVendor) } }).answer .ok
  else s.refuse 16 0x3113

def execVendorUnlock (via : Via) (v : List Byte) (s : State) : Res :=
  .next (s.guard via 0xF000 1 (fun s => s.vendorUnlock v))

/-- Ends the vendor session. -/
def State.vendorEnd (s : State) : State :=
  ({ s with mgmt := { s.mgmt with vendorOpen := false }, keys := { s.keys with session := none } }).answer .ok

def execVendorSessionEnd (via : Via) (s : State) : Res :=
  .next (s.guard via 0xF000 3 State.vendorEnd)

end Sys2Proof.Machine
end

