-- ==== Sys2Proof/Machine/Halyard.lean ====
section
/-! DEFINITION. Halyard: link training and retry, capability exchange, packets and their sequence, relaying, remote window
writes, the feeder, joining a ring and topology (11). -/

namespace Sys2Proof.Machine

/-- Whether the ports run: in Joining, Hoisted and Half-mast (R600). -/
def State.linksRun (s : State) : Bool :=
  decide (s.mod.state = .joining) || decide (s.mod.state = .hoisted) || decide (s.mod.state = .halfMast)
def State.linkUp? (s : State) (k : Nat) : Bool := s.linksRun && decide ((s.port k).state = .up)

/-- A record of port k. -/
def portRec (code k d0 d1 : Nat) : ErrRec := { code := code, siteKind := .port, site := siteNum k, detail0 := d0, detail1 := d1 }

/-! ### Topology (R421) -/

/-- Peer position of a port in an announcement: 0xFF where the link is neither up nor retraining, since the topology changes
only when a link goes down (R401). -/
def State.peerOf (s : State) (k : Nat) : Nat :=
  if (s.port k).state = .up ∨ (s.port k).state = .retraining then (s.port k).peerPos else 0xFF

/-- The data unit of an announcement (log 6). -/
def announceUnit (a : Announce) : BitVec 256 :=
  BitVec.ofNat 256 (a.pos % 256 + a.ring % 256 * 2 ^ 8 + a.epoch % 2 ^ 32 * 2 ^ 16 + a.version % 2 ^ 32 * 2 ^ 48
    + (a.peers.mapIdx (fun i p => p % 256 * 2 ^ (80 + 8 * i))).sum)

/-- Sends an announcement on each of these ports that is up. -/
def State.flood (s : State) (ks : List Nat) (a : Announce) : State :=
  ks.foldl (fun s k =>
    let x := s.port k
    if x.state = .up then s.enqueue k { hdr := mkHdr s 10 4 true false x.peerRing x.peerPos 1 0 0xFFFF 0 0, units := [announceUnit a] } else s) s

/-- Announces the module's place and links on every up link. -/
def State.announce (s : State) : State :=
  let s := { s with ring := { s.ring with version := (s.ring.version + 1) % 2 ^ 32 } }
  s.flood [0, 1, 3, 4, 2] ⟨s.ring.ring, s.ring.pos, s.ring.epoch, s.ring.version, [0, 1, 3, 4, 2].map s.peerOf⟩

/-! ### Links that pennants need (R438, R475) -/

/-- Whether a pennant's traffic needs port k: a queue of its image ends there, or a position it spans has no route left. -/
def State.needsLink (s : State) (p k : Nat) : Bool :=
  let q := s.queues.any (fun (_, q) => decide (q.slot = p) && [qProducer q.desc, qConsumer q.desc].any (fun e =>
    decide (e / 2 ^ 12 = 1) && decide (e / 2 ^ 8 % 8 = k)))
  let far := (s.peersOf p).any (fun (r, i) => decide (r = s.ring.ring) && decide (s.route 1 false false r i false = none))
  q || (decide (k ≠ 2) && decide (k ≠ 5) && far)

/-- The consequences of a lost link for pennants: a partner lost over M; FAILOVER or a halt where the link is needed. -/
def State.linkNeeded (s : State) (k : Nat) : State :=
  (List.range 16).foldl (fun s p =>
    if (s.slot p).state = .free then s
    else
      let s := if k = 2 then s.partnerLost p else s
      if (s.slot p).state = .running ∧ s.needsLink p k then s.failover p else s) s

/-! ### Joining a ring (R418, R419, R601) -/

/-- A failed join: the switch returns to through, the permit is cleared, E and W stop. -/
def State.joinFail (s : State) : State :=
  let off := fun (x : Port) => { x with state := .noLight, light := false, step := 0, run := 0, tries := 0 }
  { (s.updPort 0 off).updPort 1 off with ring := { s.ring with bypass := 0, permit := false } }

/-- The position the module takes, or the code that refuses it (R419, log 17). -/
def State.positionOf (s : State) : Except Nat Nat :=
  let e := s.port 0; let w := s.port 1
  let p := s.ring.hint
  if e.peerSerial = s.mod.serial ∧ w.peerSerial = s.mod.serial then .ok (if p = 0xFF then 0 else p)
  else if p = 0xFF then
    (if (w.peerPos + 1) % 64 = e.peerPos then .error 0x5104 else .ok ((w.peerPos + 1) % 64))
  else
    let a := (p + 64 - w.peerPos % 64) % 64
    let b := (e.peerPos % 64 + 64 - p % 64) % 64
    let span := if e.peerPos % 64 = w.peerPos % 64 then 64 else (e.peerPos % 64 + 64 - w.peerPos % 64) % 64
    let held := s.topo.any (fun t => decide (t.ring = s.ring.ring) && decide (t.pos = p))
    if e.peerRing = s.ring.ring ∧ w.peerRing = s.ring.ring ∧ 1 ≤ a ∧ 1 ≤ b ∧ a < span ∧ ¬ held then .ok p else .error 0x5105

/-- Key agreement starts again for every pennant with the given peers (R505). -/
def State.reagree (s : State) (who : Nat × Nat → Bool) : State :=
  (List.range 16).foldl (fun s p =>
    if (s.slot p).state ≠ .free ∧ (s.slot p).state ≠ .releasing ∧ (s.keyPeers p).any who then s.startAgreement p else s) s

/-- E and W are up: the module takes its position under a new join epoch, and leaves Joining (R418, R419, R600). -/
def State.takePosition (s : State) : State :=
  match s.positionOf with
  | .error c => (s.logErr { code := c, detail0 := s.ring.hint, detail1 := (s.port 1).peerPos }).joinFail
  | .ok p =>
    let s := { s with ring := { s.ring with pos := p, bypass := 2, epoch := (s.ring.epoch + 1) % 2 ^ 32 }, spaces := [] }
    let s := s.announce.reagree (fun _ => true)
    match s.mod.causes with
    | [] => { s with mod := { s.mod with state := .hoisted } }
    | c :: _ => ({ s with mod := { s.mod with state := .halfMast } }).logErr { code := 0x8340, handling := .halfMast, detail0 := c }

/-! ### Link states (Table 11.7, R400, R401, R416) -/

/-- A link is up: a neighbour's join hold ends, the topology is announced, and a join whose links are both up goes on. -/
def State.linkIsUp (s : State) (k : Nat) : State :=
  let s := s.updPort k (fun x => { x with state := .up, step := 0, run := 0, tries := 0 })
  let s := if k < 2 then { s with ring := { s.ring with joinHold := 0 } } else s
  if k < 2 ∧ s.mod.state = .joining ∧ s.ring.bypass = 1 ∧ (s.port 0).state = .up ∧ (s.port 1).state = .up then s.takePosition
  else s.announce

/-- A link goes down: its buffers are discarded, the topology changes, and what needs it is told (R401, R416, R438). -/
def State.linkDown (s : State) (k code d0 : Nat) (dest : LinkState) (d1 : Nat := 0) : State :=
  let s := s.updPort k (fun x => { x with
    state := dest, step := 0, run := 0, tries := 0, unacked := [], nextSeq := 0, expect := 0, retryReq := false, rxLeft := 0,
    heldRx := [], free := [0, 0, 0, 0, 0, 0, 0, 0], downs := x.downs + 1 })
  let s := s.announce
  let s := s.logErr (portRec code k d0 d1)
  let gone := fun (k : Nat) => decide ((s.port k).state = .down) || decide ((s.port k).state = .closed)
  if k < 2 ∧ s.ring.bypass = 1 then s.joinFail
  else if k < 2 ∧ s.ring.bypass = 2 ∧ gone 0 ∧ gone 1 then s.strike
  else
    let s := if code = 0x510E ∧ 2 ≤ k ∧ k ≤ 4 then s.halfMast 0x510E else s
    s.linkNeeded k

/-- A retrain whose lanes stayed locked (R400, R614) or, at step 1, one after loss of light (R420). -/
def State.retrain (s : State) (k step : Nat) : State :=
  s.updPort k (fun x => { x with state := .retraining, step := step, run := 0, tries := 1, retryReq := false, ctrs := addAt x.ctrs 2 1 })

/-- LIGHT_DETECTED: a new series of attempts; E and W see light only through an inserted switch (R416, R417, R600). -/
def State.lightOn (s : State) (k : Nat) : State :=
  let x := s.port k
  if 6 ≤ k ∨ x.light ∨ s.mod.state = .dark ∨ s.mod.state = .dipping ∨ s.mod.state = .struck ∨ (k < 2 ∧ s.ring.bypass ≠ 1 ∧ s.ring.bypass ≠ 2) then s
  else if ¬ s.linksRun then s.updPort k (fun x => { x with light := true })
  else s.updPort k (fun x => { x with light := true, state := if x.state = .retraining then .retraining else .training, step := 1, run := 0, tries := 1 })
def execLightDetected (k : Nat) (s : State) : Res := .next (s.lightOn k)

/-- Whether a loopback runs on a port: a link change waits until it ends (R616). -/
def State.looping (s : State) (k : Nat) : Bool := (tget s.test.loops k {}).run

/-- A loopback that runs on a port when its light is lost has failed (R616). -/
def State.failLoop (s : State) (k : Nat) : State :=
  let l := tget s.test.loops k {}
  if l.run then
    ({ s with test := { s.test with loops := tput s.test.loops k { l with status := 3, run := false, serv := false } } }).logErr
      { code := 0x9102, siteKind := .port, site := siteNum k, detail0 := k, detail1 := l.depth }
  else s

/-- LOSS_OF_LIGHT: an up link retrains within its hold time; training stops (R394, R416, R420). -/
def State.lightOff (s : State) (k : Nat) : State :=
  if 6 ≤ k ∨ ¬ (s.port k).light then s
  else
    let s := (s.failLoop k).updPort k (fun x => { x with light := false })
    match (s.port k).state with
    | .up => s.retrain k 1
    | .training => s.updPort k (fun x => { x with state := .noLight, step := 0, run := 0, tries := 0 })
    | .retraining => s.updPort k (fun x => { x with step := 1, run := 0 })
    | _ => s
def execLossOfLight (k : Nat) (s : State) : Res := .next (s.lightOff k)

/-- TRAINING_STEP_TIMEOUT: the attempt ends; after the third the link stays down (R416). -/
def State.trainFail (s : State) (k : Nat) : State :=
  let x := s.port k
  if 6 ≤ k ∨ ¬ s.linksRun ∨ ¬ x.light ∨ s.looping k ∨ (x.state ≠ .training ∧ x.state ≠ .retraining) then s
  else if x.tries < 3 then s.updPort k (fun x => { x with step := 1, run := 0, tries := x.tries + 1 })
  else s.linkDown k 0x510E x.step .down
def execTrainingStepTimeout (k : Nat) (s : State) : Res := .next (s.trainFail k)

/-- LINK_HOLD_TIMEOUT: a link not up again goes down (R401). -/
def execLinkHoldTimeout (k : Nat) (s : State) : Res :=
  .next (if k < 6 ∧ (s.port k).state = .retraining ∧ ¬ s.looping k then s.linkDown k 0x5101 0 .down else s)

/-! ### Link retry (R398 to R401) -/

/-- Codewords up to the one that ACK names are no longer held. -/
def Port.acked (x : Port) (a : Nat) : Port :=
  if x.unacked.any (fun e => decide (e.1 = a)) then { x with unacked := (x.unacked.dropWhile (fun e => decide (e.1 ≠ a))).tail } else x

/-- Sends a retry request that names the last good codeword. -/
def State.askResend (s : State) (k : Nat) : State :=
  { s with out := { s.out with requests := s.out.requests ++ [(k, ((s.port k).expect + 511) % 512)] } }

/-- The units of a codeword against the packets they carry: slots that are uncorrectable in a header unit, those in data
units, and the units of the packet under way that are left (R396, R399, R402); a poison word is none of them (R281). -/
def scanUnits (left : Nat) (us : List (List Code160)) : Nat × Nat × Nat :=
  us.foldl (fun (r : Nat × Nat × Nat) u =>
    let bad := (u.filter (fun c => decide (rsDecide c = .uncorrectable))).length
    if r.2.2 = 0 then
      let h : BitVec 256 := BitVec.ofNat 256 ((codeData (checkedWord (u.getD 0 0))).toNat + (codeData (checkedWord (u.getD 1 0))).toNat * 2 ^ 128)
      (r.1 + bad, r.2.1, if fld h 255 248 = 0 then 0 else fld h 221 215 + fld h 244 244)
    else (r.1, r.2.1 + bad, r.2.2 - 1)) (0, 0, left)

/-- A data codeword is accepted; `poisoned` of its slots became the poison word. -/
def Port.accept (x : Port) (left poisoned : Nat) : Port :=
  { x with expect := (x.expect + 1) % 512, rxLeft := left, ctrs := addAt (if x.retryReq then addAt x.ctrs 1 1 else x.ctrs) 7 poisoned,
           retryReq := false }

/-- A data codeword on an up link (R399, R400). -/
def State.dataWord (s : State) (k : Nat) (cw : Codeword) : State :=
  let x := s.port k
  let (badH, badD, left) := scanUnits x.rxLeft (chunks 2 cw.slots)
  let fec := cw.fecOk && decide (cw.kind ≠ 3)
  let s := if fec then s.updPort k (fun x => x.acked cw.ack) else s
  if x.retryReq then
    (if cw.sq ≠ x.expect then s
     else if ¬ fec ∨ badH ≠ 0 then s.retrain k 2
     else
       -- the words that are still bad pass as poison words, each logged (R284, Table 8.1)
       (List.range badD).foldl (fun s _ => s.logErr (portRec 0x4106 k 0 0)) (s.updPort k (fun x => x.accept left badD)))
  else if ¬ fec ∨ cw.sq ≠ x.expect ∨ badH + badD ≠ 0 then (s.updPort k (fun x => { x with retryReq := true })).askResend k
  else s.updPort k (fun x => x.accept left 0)

/-- Every held codeword after the one a retry request names is sent again, in order (R399). -/
def State.resend (s : State) (k sq : Nat) : State :=
  let s := s.updPort k (fun x => x.acked (sq % 512))
  match (s.port k).unacked with
  | [] => s
  | e :: _ => { s with out := { s.out with resends := s.out.resends ++ [(k, e.1)] } }

/-- A codeword on a link that trains: it locks lanes and boundaries, and then carries the SEQ and ACK to start or to resume
from (Table 11.7, steps 1 to 3); what a retrained link still holds goes out again (R401). -/
def State.trainWord (s : State) (k : Nat) (cw : Codeword) : State :=
  let x := s.port k
  if ¬ cw.fecOk then s.updPort k (fun x => { x with run := 0 })
  else if x.step ≤ 2 then
    s.updPort k (fun x => { x with step := if 16 ≤ x.run + 1 then 3 else 2, run := x.run + 1 })
  else if x.step = 3 then
    (if x.state = .training then s.updPort k (fun x => { x.acked cw.ack with expect := cw.sq % 512, step := 4 })
     else (s.updPort k (fun x => { x with step := 4 })).resend k cw.ack)
  else s

/-- CODEWORD_RECEIVE. A codeword that is itself a retry request (KIND 0b01) names in its ACK where the resend begins. -/
def State.codeword (s : State) (k : Nat) (cw : Codeword) : State :=
  if 6 ≤ k ∨ ¬ s.linksRun ∨ s.looping k then s
  else
    let s := s.updPort k (fun x => { x with ctrs := addAt x.ctrs 0 cw.corrected })
    match (s.port k).state with
    | .up =>
      if cw.kind = 0 ∨ cw.kind = 3 then s.dataWord k cw
      else if cw.fecOk then (if cw.kind = 1 then s.resend k cw.ack else s.updPort k (fun x => x.acked cw.ack))
      else s
    | .training => s.trainWord k cw
    | .retraining => s.trainWord k cw
    | _ => s
def execCodewordReceive (k : Nat) (cw : Codeword) (s : State) : Res := .next (s.codeword k cw)

/-- RETRY_REQUEST. -/
def execRetryRequest (k sq : Nat) (s : State) : Res := .next (if k < 6 ∧ s.linkUp? k then s.resend k sq else s)

/-- RETRY_REQUEST_TIMEOUT: the request is repeated. -/
def execRetryRequestTimeout (k : Nat) (s : State) : Res :=
  .next (if k < 6 ∧ s.linkUp? k ∧ (s.port k).retryReq then s.askResend k else s)

/-! ### Link scheduling (R408, R410, R411) -/

/-- The IV of a packet at a key epoch (R425, R505). -/
def ivOf (h : BitVec 256) (e : Nat) : Nat :=
  fld h 232 227 + fld h 226 226 * 2 ^ 6 + fld h 247 245 * 2 ^ 7 + fld h 241 241 * 2 ^ 10 + fld h 214 191 * 2 ^ 11 + e % 2 ^ 32 * 2 ^ 35

/-- A packet's units encrypted, with the trailer; the header enters the tag with HOPS zeroed (R425). -/
def sealPacket (p : Packet) (key : BitVec 256) (e : Nat) : Packet :=
  let cs := gcmUnits key (ivOf p.hdr e) p.units
  { p with units := cs, trailer := gcmTrailer key (ivOf p.hdr e) (putFld p.hdr 225 222 0) cs }
/-- The packet that an encrypted one carries; none where its tag fails. -/
def openPacket (p : Packet) (key : BitVec 256) (e : Nat) : Option Packet :=
  if p.trailer = gcmTrailer key (ivOf p.hdr e) (putFld p.hdr 225 222 0) p.units then
    some { p with units := gcmUnits key (ivOf p.hdr e) p.units, trailer := 0 }
  else none

/-- The unwrapped index of the packet of sequence number `sq` that stands before the next index of its space. -/
def indexBefore (next sq : Nat) : Nat :=
  let d := (next + 2 ^ 24 - sq % 2 ^ 24) % 2 ^ 24
  next - (if d = 0 then 2 ^ 24 else d)
/-- The unwrapped index of an arriving packet of sequence number `sq` where `e` is expected (R412, R505). -/
def indexAt (e sq : Nat) : Nat :=
  let d := (sq + 2 ^ 24 - e % 2 ^ 24) % 2 ^ 24
  if d < 2 ^ 23 then e + d else e + d - 2 ^ 24

/-- The agreement of a tenant's slot with a module, once the link keys are agreed (R503, R505). -/
def State.agreedWith (s : State) (tenant ring pos : Nat) : Option Agreed :=
  (s.slotOfTenant tenant).bind (fun q =>
    if (s.slot q).linkKeys then (s.slot q).agreed.find? (fun a => decide (a.ring = ring) && decide (a.pos = pos)) else none)
/-- The checkpoint key of a tenant's slot for a direction and key epoch on port F (R508). -/
def State.storeKey (s : State) (tenant : Nat) (lbl : List Byte) (e : Nat) : Option (BitVec 256) :=
  (s.slotOfTenant tenant).bind (fun q => (s.slot q).ckptKey.map (fun key =>
    hkdfKey [] (bytesLE 32 key.toNat) (lbl ++ bytesLE 3 tenant ++ bytesLE 4 e)))

/-- A packet as sent on port k: one of this module with ENC = 1 is encrypted (R425, R505). None: the pennant has no key for
the destination yet. -/
def State.seal (s : State) (k : Nat) (p : Packet) : Option Packet :=
  let h := p.hdr
  let tenant := fld h 190 167
  if fld h 244 244 = 0 then some p
  else if k = 5 then
    let e := indexBefore (tget s.spaces storeSpace 0) (fld h 214 191) / 2 ^ 23
    (s.storeKey tenant lblCkptOut e).map (fun key => sealPacket p key e)
  else if fld h 232 227 ≠ s.ring.pos ∨ fld h 226 226 ≠ s.ring.ring then some p
  else
    let vc := fld h 247 245
    let e := indexBefore (tget s.spaces (txSpace (fld h 239 234) (fld h 233 233) vc (fld h 241 241)) 0) (fld h 214 191) / 2 ^ 23
    (s.agreedWith tenant (fld h 233 233) (fld h 239 234)).map (fun a => sealPacket p (a.linkKey tenant vc e) e)

/-- The channel a packet waits on: 8 for CREDIT and CAPS, which need no credit. -/
def pkVc (p : Packet) : Nat := if fld p.hdr 255 248 = 7 ∨ fld p.hdr 255 248 = 8 then 8 else fld p.hdr 247 245

/-- Whether a link's features carry a packet: GCM where ENC = 1, RELAY where another module has sent it (R414). -/
def State.linkCarries (s : State) (k : Nat) (p : Packet) : Bool :=
  let f := (s.port k).features
  (!bit p.hdr 244 || decide (f / 2 % 2 = 1))
    && (decide (k = 5) || (decide (fld p.hdr 232 227 = s.ring.pos % 64) && decide (fld p.hdr 226 226 = s.ring.ring % 2)) || decide (f % 2 = 1))

/-- The first packet of a channel, where it may be sent now. -/
def State.readyOn (s : State) (k v : Nat) : Option Packet :=
  let x := s.port k
  match x.sendQ.find? (fun p => decide (pkVc p = v)) with
  | none => none
  | some p => if (v = 8 ∨ pkUnits p ≤ x.credits.getD v 0) ∧ s.linkCarries k p ∧ s.seal k p ≠ none then some p else none

/-- Weighted round-robin by units over the channels other than 3 and 4: each turn adds a channel's weight to what it may
send. -/
def roundRobin (fuel : Nat) (w : List Nat) (cost : Nat → Option Nat) (at_ : Nat) (d : List Nat) : Option (Nat × List Nat) :=
  match fuel with
  | 0 => none
  | n + 1 =>
    let next := (at_ + 1) % 8
    let d' := d.set next (match cost next with | some _ => d.getD next 0 + w.getD next 0 | none => 0)
    match cost at_ with
    | some c => if c ≤ d.getD at_ 0 then some (at_, d.set at_ (d.getD at_ 0 - c)) else roundRobin n w cost next d'
    | none => roundRobin n w cost next d'

/-- The channel that sends next: CREDIT and CAPS, then VCs 3 and 4 (at most one packet in 8 while another waits), then the
others. -/
def State.pick (s : State) (k : Nat) : Option (Nat × Port) :=
  let x := s.port k
  let cost := fun (v : Nat) => if v = 3 ∨ v = 4 then none else (s.readyOn k v).map pkUnits
  let others := (List.range 8).any (fun v => (cost v).isSome)
  let first := if (s.readyOn k 8).isSome then some 8 else if (s.readyOn k 3).isSome then some 3 else if (s.readyOn k 4).isSome then some 4 else none
  let rest := (roundRobin 1100 x.weights cost x.rr x.deficit).map (fun r =>
    (r.1, { x with rr := r.1, deficit := r.2, since := min 7 (x.since + 1) }))
  match first with
  | some 8 => some (8, x)
  | some v => if others ∧ x.since < 7 then rest else some (v, { x with since := if others then 0 else 7 })
  | none => rest

/-- Codewords not acknowledged that a link may hold (R398, R414). -/
def Port.window (x : Port) : Nat := if x.features / 4 % 2 = 1 then 256 else 64

/-- TRANSMIT_PACKET: the next credited packet goes out, in codewords that are held until they are acknowledged. A neighbour's
join hold stops E and W (Table 11.8, step 1). -/
def State.transmit (s : State) (k : Nat) : State :=
  if 6 ≤ k ∨ ¬ s.linkUp? k ∨ (k < 2 ∧ s.ring.joinHold = 1) then s
  else
    match s.pick k with
    | none => s
    | some (v, x) =>
      match s.readyOn k v with
      | none => s
      | some p =>
        let w := (s.seal k p).getD p
        let cws := chunks 16 (pkWire w)
        if x.window < x.unacked.length + cws.length then s
        else
          let y := { x with
            sendQ := x.sendQ.erase p,
            credits := if v = 8 then x.credits else x.credits.modify v (fun c => c - pkUnits p),
            unacked := x.unacked ++ cws.mapIdx (fun i c => ((x.nextSeq + i) % 512, c)),
            nextSeq := (x.nextSeq + cws.length) % 512 }
          { s.updPort k (fun _ => y) with out := { s.out with sent := s.out.sent ++ [⟨k, w⟩] } }
def execTransmitPacket (k : Nat) (s : State) : Res := .next (s.transmit k)

/-! ### Receiving a packet (R403, R404, R412, R423, R425, R506) -/

def hTypeOf (p : Packet) : Nat := fld p.hdr 255 248
def hVc (p : Packet) : Nat := fld p.hdr 247 245
def hTenantOf (p : Packet) : Nat := fld p.hdr 190 167
def hSeq (p : Packet) : Nat := fld p.hdr 214 191

/-- Channels a type is permitted on (Table 11.5); CREDIT and CAPS go on any. -/
def typeOnVc (t v : Nat) : Bool :=
  match t with
  | 0 => true
  | 1 | 2 | 3 | 4 => decide (v = 0)
  | 5 | 6 => decide (v = 5)
  | 7 | 8 => true
  | 9 => decide (v ∉ [0, 5])
  | 10 | 11 => decide (v = 4)
  | _ => false

/-- Bits of TYPE_FIELDS that a type defines (Table 11.4). -/
def typeMask (t : Nat) : Nat :=
  match t with
  | 4 => 255 * 2 ^ 103
  | 5 => (2 ^ 96 - 1) * 2 ^ 15
  | 7 => (2 ^ 96 - 1) * 2 ^ 15
  | 11 => (2 ^ 32 - 1) * 2 ^ 79
  | _ => 0

/-- Whether a packet passes R404 (and on F, R426) on a port. -/
def packetOk (k : Nat) (p : Packet) : Bool :=
  let h := p.hdr
  let t := hTypeOf p; let v := hVc p
  let n := fld h 221 215
  decide (t ≤ 11) && typeOnVc t v && (decide (t = 7) || decide (t = 8) || carries k v) && decide (n ≤ 64) && decide (p.units.length = n)
    && !bit h 240 && decide (fld h 110 0 &&& (2 ^ 111 - 1 - typeMask t) = 0)
    && (decide (t = 1) || decide (fld h 150 141 = 0)) && (decide (t = 2) || decide (fld h 140 111 = 0))
    && (match t with | 2 => decide (1 ≤ n) | 6 => decide (n = 1) | 3 | 4 | 7 => decide (n = 0) | _ => true)
    && (if k = 5 then decide (t ∈ [5, 6, 7, 8, 9]) && decide (fld h 232 226 = 0)
        else !(decide (k = 2) && decide (v = 0) && decide (t = 1)))

/-- A packet is discarded under R404 and counted; the first of each 1,024 is logged. -/
def State.discard (s : State) (k : Nat) (p : Packet) : State :=
  let n := (s.port k).ctrs.getD 3 0
  let s := if n % 1024 = 0 then s.logErr (portRec 0x5108 k (hTypeOf p) (n + 1)) else s
  let s := s.updPort k (fun x => { x with ctrs := addAt x.ctrs 3 1 })
  if hTypeOf p = 7 ∨ hTypeOf p = 8 then s else s.freeRx k (hVc p) (pkUnits p)

/-- A relay (R423): HOPS rises; at 15 the packet is discarded. Where no link carries it further it is dropped. -/
def State.relay (s : State) (k : Nat) (p : Packet) : State :=
  let s := s.freeRx k (hVc p) (pkUnits p)
  let hops := fld p.hdr 225 222 + 1
  if 15 ≤ hops then s.logErr (portRec 0x5109 k (fld p.hdr 239 234) (fld p.hdr 233 233))
  else
    match s.route (hVc p) (decide (fld p.hdr 244 244 = 1)) true (fld p.hdr 233 233) (fld p.hdr 239 234) (decide (fld p.hdr 241 241 = 1)) with
    | some j => (s.updPort k (fun x => { x with ctrs := addAt x.ctrs 5 1 })).enqueue j { p with hdr := putFld p.hdr 225 222 hops }
    | none => s

/-- A sequence gap: by channel, the pennant rolls back, the recovery in progress fails, or the record alone stands (R412,
Table 12.3). -/
def State.gap (s : State) (k : Nat) (p : Packet) (d : Nat) : State :=
  let v := hVc p
  let r := portRec 0x5106 k d 0
  match s.slotOfTenant (hTenantOf p) with
  | none => s.logErr r
  | some q =>
    if v ∈ [0, 1, 2, 6] then s.rollbackFault q r
    else if v = 7 then
      let s := s.logSlot q r
      if (s.slot q).mirror.pending then s.rollback q (s.slot q).mirror.rbTarget true else s.rejoinFail q
    else s.logSlot q r

/-- Key of the sequence space an arriving packet belongs to; port F has its own. -/
def rxKey (k : Nat) (p : Packet) : Nat :=
  rxSpace (fld p.hdr 232 227) (fld p.hdr 226 226) (hVc p) (fld p.hdr 241 241) + (if k = 5 then 16384 else 0)

/-- The sequence check (R412): whether the packet is accepted. -/
def State.sequence (s : State) (k : Nat) (p : Packet) : State × Bool :=
  let e := tget s.spaces (rxKey k p) 0
  let d := (hSeq p + 2 ^ 24 - e % 2 ^ 24) % 2 ^ 24
  if 2 ^ 23 ≤ d then ((s.updPort k (fun x => { x with ctrs := addAt x.ctrs 4 1 })).freeRx k (hVc p) (pkUnits p), false)
  else
    let s := { s with spaces := tput s.spaces (rxKey k p) (e + d + 1) }
    (if d = 0 then s else s.gap k p d, true)

/-- Whether a packet is addressed to this module; port F ignores the destination (R426). -/
def State.mine (s : State) (k : Nat) (p : Packet) : Bool :=
  decide (k = 5) || (decide (fld p.hdr 239 234 = s.ring.pos) && decide (fld p.hdr 233 233 = s.ring.ring))

/-- The packet that an arriving one carries: decrypted under the key of its source, channel and key epoch. None: ENC differs
from the pennant's GCM_VCS, no key is held or the tag fails (R425, R506, R508). -/
def State.unseal (s : State) (k : Nat) (p : Packet) : Option Packet :=
  let h := p.hdr
  let tenant := hTenantOf p
  if (decide (fld h 244 244 = 1)) ≠ s.encFor tenant (hVc p) then none
  else if fld h 244 244 = 0 then some p
  else
    let e := indexAt (tget s.spaces (rxKey k p) 0) (hSeq p) / 2 ^ 23
    (if k = 5 then s.storeKey tenant lblCkptIn e
      else (s.agreedWith tenant (fld h 226 226) (fld h 232 227)).map (fun a => a.linkKey tenant (hVc p) e)).bind
      (fun key => openPacket p key e)

/-- Takes a packet of one of these types from a port: R404, then the relay of what is for another module, then R506 and the
tag, then R412, then `f` on what it carries, which frees the buffer itself. -/
def State.receive (s : State) (k : Nat) (p : Packet) (ts : List Nat) (relays : Bool) (f : Packet → State → State) : State :=
  if 6 ≤ k ∨ ¬ s.linkUp? k then s
  else if ¬ packetOk k p ∨ (hTypeOf p ∉ ts ∧ ¬ (relays ∧ hTypeOf p = 9 ∧ ¬ s.mine k p)) then s.discard k p
  else if ¬ s.mine k p then (if hTypeOf p = 1 ∨ ¬ relays then s.discard k p else s.relay k p)
  else
    match s.unseal k p with
    | none =>
      let r := portRec 0x510A k (hSeq p) (hTenantOf p)
      (match s.slotOfTenant (hTenantOf p) with | some q => s.logSlot q r | none => s.logErr r).freeRx k (hVc p) (pkUnits p)
    | some p =>
      let r := s.sequence k p
      if r.2 then f p r.1 else r.1

/-- QUEUE_DATA (R407, R409): delivered to the queue it names, or held until the queue's credit covers it. -/
def State.queueData (s : State) (k : Nat) (p : Packet) : State :=
  let n := fld p.hdr 150 141
  match s.queue? n with
  | none => s.discard k p
  | some q =>
    if qProducer q.desc ≠ 2 ^ 12 + k * 2 ^ 8 ∨ s.slotOfTenant (hTenantOf p) ≠ some q.slot then s.discard k p
    else
      let wait := fun (s : State) => s.updPort k (fun x => { x with heldRx := x.heldRx ++ [p], ctrs := addAt x.ctrs 6 1 })
      if (s.port k).heldRx.any (fun h => decide (fld h.hdr 150 141 = n)) then wait s
      else
        match s.queueIn n p with
        | some s => s.freeRx k 0 (pkUnits p)
        | none => wait s

/-- The row also stands for a packet on its way to another module (R423). -/
def execQueueData (k : Nat) (pk : Packet) (s : State) : Res := .next (s.receive k pk [1] true (fun p s => s.queueData k p))

/-! ### Remote windows (R196 to R199, R424) -/

/-- The reason a window write is refused, 0 where it is accepted (Table 11.4). -/
def State.windowReason (s : State) (p : Packet) : Nat :=
  let h := p.hdr
  let t : TileRef := ⟨fld h 140 139, fld h 138 135, fld h 134 130⟩
  let w := (s.tile (s.phys t)).window (fld h 129 127)
  match s.slotOfTenant (hTenantOf p) with
  | none => 3
  | some q =>
    if ¬ trOk t ∨ s.tileSlot t ≠ some q then 5
    else if ¬ wOpen w then 1
    else
      let ring := fld h 226 226; let pos := fld h 232 227
      let mirror := decide (ring ≠ s.ring.ring)
      let peer := if wPeer w = 0 then decide (pos = wPos w) && (mirror == wMirror w)
        else decide (bSpan (s.slot q).burgee / 2 ^ pos % 2 = 1) && (!mirror || bMirrored (s.slot q).burgee)
      if ¬ peer then 2
      else if wLen w < fld h 126 111 + p.units.length then 4
      else 0

/-- Answers a window write to its sender with its SEQ (R424). -/
def State.windowAnswer (s : State) (p : Packet) (reason : Nat) : State :=
  let h := p.hdr
  let ring := fld h 226 226; let pos := fld h 232 227; let r := fld h 241 241
  let tenant := hTenantOf p
  let enc := s.encFor tenant 0
  let a := mkHdr s (if reason = 0 then 3 else 4) 0 true (decide (r = 1)) ring pos 0 tenant 0xFFFF 0 (reason * 2 ^ 103)
  match s.route 0 enc false ring pos (decide (r = 1)) with
  | some k => s.enqueue k { hdr := putFld (putFld a 214 191 (hSeq p)) 244 244 (b2n enc) }
  | none => s

/-- A window write that passed its sequence check. A window closed by ONCE whose EVENT is 0 raises none, as a FILL_EVENT of 0 is
none (DESIGN CHOICE, log 30); poison words stay poison (R284). -/
def State.windowWrite (s : State) (k : Nat) (p : Packet) : State :=
  let h := p.hdr
  let t : TileRef := ⟨fld h 140 139, fld h 138 135, fld h 134 130⟩
  let wn := fld h 129 127
  let n := s.phys t
  let s := s.freeRx k 0 (pkUnits p)
  let reason := s.windowReason p
  if reason ≠ 0 then
    let s := if trOk t then
        (s.updTile n (fun x =>
          let w := x.window wn
          { x with windows := tput x.windows wn (putFld w 31 16 (min 0xFFFF (wRefused w + 1))) })).updGroup (groupNum t.q t.g)
          (fun c => { c with refusals := c.refusals + 1 })
      else s
    s.windowAnswer p reason
  else
    let s := match s.tileSlot t with | some q => (s.gotUnits q p.units.length).slotPass t q p.units.length | none => s
    let s := s.updTile n (fun x =>
      let w := x.window wn
      let a := 2 * (wBase w + fld h 126 111)
      let got := min 0xFFFFFFFF (wReceived w + p.units.length)
      let full := wOnce w && decide (wLen w ≤ got)
      let w' := putFld (putFld w 63 32 got) 127 127 (b2n (!full))
      { x with
        mem := ((pkWords p).mapIdx (fun i c => (i, c))).foldl (fun m (i, c) => Memory.writeWord m (a + i) c) x.mem,
        windows := tput x.windows wn w',
        events := if full ∧ wEvent w ≠ 0 then x.events ++ [wEvent w] else x.events })
    s.windowAnswer p 0

def execWindowWritePacket (k : Nat) (pk : Packet) (s : State) : Res := .next (s.receive k pk [2] true (fun p s => s.windowWrite k p))

/-- The stream whose window write an answer is for: logical tile, stream, offset and length. -/
def State.answered (s : State) (p : Packet) : Option (TileRef × Stream × Nat) :=
  let mirror := decide (fld p.hdr 226 226 ≠ s.ring.ring)
  let mine := fun (t : Tile) (x : Stream) =>
    x.answers.any (fun a => decide (a.1 = hSeq p)) && decide (hPos (t.handle (sRemote x.desc)) = fld p.hdr 232 227)
      && (hMirror (t.handle (sRemote x.desc)) == mirror)
  match s.tiles.find? (fun (_, t) => t.streams.any (mine t)) with
  | some (n, t) =>
    match t.streams.find? (mine t) with
    | some x =>
      let g := groupNum (n / 320) (n / 20 % 16)
      let l := if n % 20 = 19 then (tget? s.spare.spares g).getD 19 else n % 20
      some (⟨n / 320, n / 20 % 16, l⟩, x, ((x.answers.find? (fun a => decide (a.1 = hSeq p))).map (fun a => a.2.2)).getD 0)
    | none => none
  | none => none

/-- An answer counts the write complete; a refusal then faults the block with 0x6139 (R197, R424). One that no write waits for
any longer is counted as late (R214). -/
def State.windowDone (s : State) (k : Nat) (p : Packet) (reason : Nat) : State :=
  let s := s.freeRx k 0 (pkUnits p)
  match s.answered p with
  | none =>
    match s.slotOfTenant (hTenantOf p) with
    | some q => s.updSlot q (fun x => { x with str := { x.str with late := x.str.late + 1 } })
    | none => s
  | some (t, x, c) =>
    let s := s.updStream (s.phys t) x.id (fun y => { y with
      done := y.done + c, answers := y.answers.filter (fun a => decide (a.1 ≠ hSeq p)) })
    let s := s.endStreams t
    if reason = 0 then s
    else s.retryFault x.pass (s.siteRec t { code := 0x6139, detail0 := reason, detail1 := sIndex x.desc })

def execWindowAck (k : Nat) (pk : Packet) (s : State) : Res := .next (s.receive k pk [3] true (fun p s => s.windowDone k p 0))
def execWindowRefuse (k : Nat) (pk : Packet) (s : State) : Res :=
  .next (s.receive k pk [4] true (fun p s => s.windowDone k p (fld p.hdr 110 103)))

/-! ### The feeder (R426 to R428) -/

/-- FRAME: without a declaration in force it is discarded; without room in the queue it waits. -/
def State.frame (s : State) (p : Packet) : State :=
  match s.slotOfTenant (hTenantOf p) with
  | none => s.freeRx 5 5 (pkUnits p)
  | some q =>
    if (s.slot q).ingest.declared = none then s.freeRx 5 5 (pkUnits p)
    else if (s.port 5).heldRx.any (fun h => decide (hTenantOf h = hTenantOf p)) then s.updPort 5 (fun x => { x with heldRx := x.heldRx ++ [p] })
    else
      match s.frameIn q p with
      | some s => s.freeRx 5 5 (pkUnits p)
      | none => s.updPort 5 (fun x => { x with heldRx := x.heldRx ++ [p] })
def execFrame (pk : Packet) (s : State) : Res := .next (s.receive 5 pk [5] false (fun p s => s.frame p))

/-- STREAM_DECLARE: accepted under R427 it takes effect at the clip boundary. -/
def State.declare (s : State) (p : Packet) : State :=
  let d := p.units.headD 0
  if fld d 139 0 ≠ 0 then s.discard 5 p
  else
    let s := s.freeRx 5 5 (pkUnits p)
    match s.slotOfTenant (hTenantOf p) with
    | none => s.logErr (portRec 0x510C 5 (hTenantOf p) 0)
    | some q =>
      let ok := match s.ingestQueue q with
        | [n] => (match s.queue? n with
          | some x => decide (frameBytes d ≠ 0) && decide (frameBytes d % (32 * qMsg x.desc) = 0) && decide (clipFrames d ≠ 0)
              && decide (cadence d ≠ 0) && decide (frameBytes d * clipFrames d ≤ qCapacity x.desc)
          | none => false)
        | _ => false
      if ok then
        s.updSlot q (fun y =>
          let g := y.ingest
          if g.declared = none ∨ (g.words = [] ∧ g.frame = 0 ∧ g.word = 0) then
            { y with ingest := { g with declared := some d, next := none, clip := firstClip d, frame := 0, word := 0, words := [] } }
          else { y with ingest := { g with next := some d } })
      else
        (s.logSlot q (portRec 0x510C 5 (frameBytes d) (clipFrames d))).updSlot q (fun y => { y with
          ingest := { y.ingest with declared := none, next := none, frame := 0, word := 0, words := [] } })
def execStreamDeclare (pk : Packet) (s : State) : Res := .next (s.receive 5 pk [6] false (fun p s => s.declare p))

/-! ### Credits (R408) -/

/-- CREDIT: units come back for each channel. -/
def State.creditIn (s : State) (k : Nat) (p : Packet) : State :=
  if 6 ≤ k ∨ ¬ s.linkUp? k then s
  else if ¬ packetOk k p ∨ hTypeOf p ≠ 7 then s.discard k p
  else s.updPort k (fun x => { x with credits := x.credits.mapIdx (fun v c => c + fld p.hdr (110 - 12 * v) (99 - 12 * v)) })
def execCredit (k : Nat) (pk : Packet) (s : State) : Res := .next (s.creditIn k pk)

/-- CREDIT_RETURN_TIMEOUT: what has been freed goes back. -/
def execCreditReturnTimeout (k : Nat) (s : State) : Res :=
  .next (if k < 6 ∧ s.linkUp? k ∧ (s.port k).free.any (fun n => decide (n ≠ 0)) then s.creditBack k else s)

/-! ### Capability exchange (R413 to R415) -/

/-- Reads TLVs up to END. -/
def tlvs (fuel : Nat) (l : List Byte) : List (Nat × List Byte) :=
  match fuel with
  | 0 => []
  | n + 1 =>
    match l with
    | t :: k :: r => if t = 0 then [] else (t.toNat, r.take k.toNat) :: tlvs n (r.drop k.toNat)
    | _ => []
def tlv (l : List (Nat × List Byte)) (t : Nat) : Option (List Byte) := (l.find? (fun e => decide (e.1 = t))).map (·.2)

/-- The bytes of a packet's data units. -/
def pkBytes (p : Packet) : List Byte := p.units.flatMap (fun u => bytesLE 32 u.toNat)

/-- One TLV. -/
def tlvOf (t : Nat) (v : List Byte) : List Byte := bytesLE 1 t ++ bytesLE 1 v.length ++ v

/-- Credits this module advertises on a port (R408). -/
def State.advertised (s : State) (k : Nat) : List Nat := (List.range 8).map (fun v => if carries k v then s.link.credits.getD v 0 else 0)

/-- The CAPS packet of a port (Table 11.6). -/
def State.capsPacket (s : State) (k : Nat) : Packet :=
  let id := tget s.mod.ids (8 + k) {}
  let body := if id.status = 1 then id.contents.drop 16 else []
  let bs := tlvOf 1 [3#8, 1#8] ++ tlvOf 2 (bytesLE 8 3 ++ bytesLE 8 7) ++ tlvOf 3 ((s.mod.ordering ++ List.replicate 16 0#8).take 16 ++ bytesLE 8 s.mod.serial.toNat)
    ++ tlvOf 4 (bytesLE 1 s.ring.ring ++ bytesLE 1 s.ring.pos ++ bytesLE 1 k ++ bytesLE 4 s.ring.epoch)
    ++ tlvOf 5 ((body.take 3 ++ List.replicate 3 0xFF#8).take 3) ++ tlvOf 6 ((s.advertised k).flatMap (bytesLE 2))
    ++ tlvOf 7 (hashOctets (sha384 ensignPub)) ++ [0#8, 0#8]
  let us := byteUnits bs
  { hdr := mkHdr s 8 4 true false 0 0 us.length 0 0xFFFF 0 0, units := us }

/-- The peer's major versions with their highest minor versions, and its features of a major version. -/
def peerVersions (l : List (Nat × List Byte)) : List (Nat × Nat) :=
  (chunks 2 ((tlv l 1).getD [])).map (fun c => ((c.getD 0 0).toNat, (c.getD 1 0).toNat))
def peerFeatures (l : List (Nat × List Byte)) : Nat :=
  match l.find? (fun e => decide (e.1 = 2) && decide (e.2.headD 0 = 3#8)) with
  | some e => leNat ((e.2.drop 8).take 8)
  | none => 0

/-- No common major version (R28, R415): 0x5103 carries the peer's VERSIONS value, its first 8 octets in DETAIL0 and the next
8 in DETAIL1, the first octet lowest: DESIGN CHOICE, log 23. -/
def State.linkClosed (s : State) (k : Nat) (v : List Byte) : State :=
  s.linkDown k 0x5103 (leNat (v.take 8)) .closed (leNat ((v.drop 8).take 8))

/-- CAPS on a link at training step 4: version 3 and the common features are adopted, the peer's place, serial and credits
noted, the weights of 0x5020 taken, and the link comes up (steps 4 to 6); without a common version it is closed (R415). -/
def State.caps (s : State) (k : Nat) (p : Packet) : State :=
  let x := s.port k
  if 6 ≤ k ∨ ¬ s.linksRun ∨ ¬ x.light ∨ s.looping k ∨ (x.state ≠ .training ∧ x.state ≠ .retraining) ∨ x.step ≠ 4 then s
  else if ¬ packetOk k p ∨ hTypeOf p ≠ 8 then s.discard k p
  else
    let l := tlvs 2200 (pkBytes p)
    let vs := peerVersions l
    let place := (tlv l 4).getD []
    let cr := (tlv l 6).map (fun b => (chunks 2 b).map leNat)
    let s : State := { s with out := { s.out with sent := s.out.sent ++ [⟨k, s.capsPacket k⟩] } }
    match vs.find? (fun v => decide (v.1 = 3)) with
    | none => s.linkClosed k ((tlv l 1).getD [])
    | some v =>
      let s := s.updPort k (fun (x : Port) => { x with
        version := 3 * 256 + min 1 v.2, features := peerFeatures l % 8, weights := s.link.weights,
        peerRing := (place.getD 0 0xFF#8).toNat, peerPos := (place.getD 1 0xFF#8).toNat,
        peerSerial := BitVec.ofNat 64 (leNat ((((tlv l 3).getD []).drop 16).take 8)),
        credits := if x.state = LinkState.training then ((cr.getD []) ++ List.replicate 8 0).take 8 else x.credits })
      let s := if k = 2 then (List.range 16).foldl (fun s q =>
          if bMirrored (s.slot q).burgee then s.updMirror q (fun m => { m with partner := (s.port 2).peerSerial }) else s) s
        else s
      s.linkIsUp k
def execCaps (k : Nat) (pk : Packet) (s : State) : Res := .next (s.caps k pk)

/-! ### TOPOLOGY (R421) -/

/-- Which entry of an announcement's peers leads back over port k. -/
def backOver (k : Nat) : Nat :=
  match k with
  | 0 => 1 | 1 => 0 | 2 => 4 | 3 => 3 | _ => 2

/-- TOPOLOGY: a newer announcement is stored, its epoch change restarts the spaces and agreements with its module, and it is
forwarded on every other up link of the ring. An announcement that names this module at its end of the port tells the peer's
position. -/
def State.topology (s : State) (k : Nat) (a : Announce) : State :=
  if 5 ≤ k ∨ ¬ s.linkUp? k then s
  else
    let s := s.freeRx k 4 2
    let old := s.topo.find? (fun (t : Announce) => decide (t.ring = a.ring) && decide (t.pos = a.pos))
    let newer : Bool := match old with
      | some t => decide (t.epoch < a.epoch) || (decide (t.epoch = a.epoch) && decide (t.version < a.version))
      | none => true
    if (a.ring = s.ring.ring ∧ a.pos = s.ring.pos) ∨ ¬ newer then s
    else
      let s := { s with topo := s.topo.filter (fun (t : Announce) => !(decide (t.ring = a.ring) && decide (t.pos = a.pos))) ++ [a] }
      let s := if a.peers.getD (backOver k) 0xFF = s.ring.pos ∧ a.ring = (if k = 2 then 1 - s.ring.ring else s.ring.ring) then
          s.updPort k (fun x => { x with peerPos := a.pos, peerRing := a.ring }) else s
      let s := match old with
        | some t =>
          if t.epoch = a.epoch then s
          else
            let theirs := fun (key : Nat) => decide (key / 16 % 256 = a.pos * 2 + a.ring) && decide (key < 8192)
            ({ s with spaces := s.spaces.filter (fun e => !theirs e.1) }).reagree (fun q => decide (q = (a.ring, a.pos)))
        | none => s
      s.flood (([0, 1, 3, 4] : List Nat).filter (fun j => decide (j ≠ k))) a
def execTopology (k : Nat) (a : Announce) (s : State) : Res := .next (s.topology k a)

/-! ### The ring object (R417, R418, R430, R601) -/

/-- On entry to Joining, and when a permit is written there: the switch moves to insert (Table 11.8, step 2). -/
def State.insertSwitch (s : State) : State :=
  if s.mod.state = .joining ∧ s.ring.permit ∧ s.ring.bypass = 0 ∧ ¬ s.test.mode then { s with ring := { s.ring with bypass := 1 } } else s

/-- Entry to Joining: ports M, C+, C- and F train where they see light, and a permit written before takes effect (R600). -/
def State.enterJoining (s : State) : State :=
  let s := ([2, 3, 4, 5] : List Nat).foldl (fun s k =>
    if (s.port k).light ∧ (s.port k).state = .noLight then s.updPort k (fun x => { x with state := .training, step := 1, run := 0, tries := 1 })
    else s) s
  s.insertSwitch

/-- INSERT_PERMIT: the host operator writes 0x5000:05. -/
def State.writePermit (s : State) (v : Nat) : State :=
  if 1 < v then s.answer .valueRefused
  else if s.test.mode then s.refuse 16 0x9101
  else if v = 1 ∧ s.mod.ringClash then s.answer .valueRefused
  else (({ s with ring := { s.ring with permit := decide (v = 1) } }).insertSwitch).answer .ok
def execInsertPermit (via : Via) (v : Nat) (s : State) : Res :=
  .next (s.guard via 0x5000 5 (fun s => s.writePermit v))

/-- JOIN_HOLD: the host operator writes 0x5000:04. -/
def State.writeHold (s : State) (v : Nat) : State :=
  if 1 < v then s.answer .valueRefused else ({ s with ring := { s.ring with joinHold := v } }).answer .ok
def execJoinHold (via : Via) (v : Nat) (s : State) : Res :=
  .next (s.guard via 0x5000 4 (fun s => s.writeHold v))

/-- BYPASS_SWITCH_FAULT: 0x510D, the switch is driven to through, and the module Strikes (R417, Table 12.11). -/
def execBypassSwitchFault (s : State) : Res :=
  .next (if s.linksRun ∨ s.mod.state = .proving then
    let s := (s.logErr { code := 0x510D, handling := .strike }).strike
    { s with ring := { s.ring with bypass := 3 } }
  else s)

end Sys2Proof.Machine
end

