-- ==== Sys2Proof/Machine/Timing.lean ====
section
/-! DEFINITION. Handshake steps with the work meters and stall counters they reach, calibration of the replica
oscillators, the region controllers, frozen crossings, and the commit of a seed (02, 17 R623 to R626, 03 R120). -/

namespace Sys2Proof.Machine

/-! ### HANDSHAKE_STEP (R50, R51, R75, R515, R623 to R625) -/

/-- A unit takes a step when its inputs are offered and its output space is present (R50). -/
def offerSteps (o : Offer) : Bool := o.inputs && o.outputs && o.issued && !o.gated

/-- Causes that name the point where a request waits, beside the plain directions 3 and 4 and the plain flight 6. -/
def namedCause (k : Nat) : Bool := decide (5 ≤ k) && decide (k ≠ 6) && decide (k < 0xF)

/-- The cause a stalled engine counts (R624): that of its oldest outstanding request, else operand empty or result full by
the direction of its wait. A cause the state names (`held`) stands; a request in flight, or a read that waits for its data,
carries the point its delay has in this tick: correction, retry, wake, crossing or reserved grant (R75, R86, R205). -/
def offerStall (o : Offer) (held : Option Nat) : Nat :=
  match held with
  | some k => if namedCause k then k else if namedCause o.cause then o.cause else k
  | none => if namedCause o.cause ∨ o.cause = 6 then o.cause else if o.inputs then 0x4 else 0x3

/-- The category of a tick (R623, Table 17.7). -/
def offerCategory (o : Offer) (cube : Bool) (held : Option Nat) : Nat :=
  if offerSteps o then 0x0 else if cube && o.gated then 0x2 else if ¬ o.issued then 0x1 else offerStall o held

/-- Meter index of a product's width class (Table 13.9, subindexes 0x01 to 0x04). -/
def widthMeter (w : Nat) : Nat := if w = 32 then 0 else if w = 16 then 1 else if w = 8 then 2 else 3

/-- Counts a tick of an engine of a kind; the first engine of the domain also counts the elapsed tick. -/
def Stall.count (x : Stall) (kind cat : Nat) (first : Bool) : Stall :=
  { elapsed := x.elapsed + b2n first, cats := tadd x.cats (16 * kind + cat) 1 }

/-- A tick of an engine of a tile reaches its group's object and, where the tile is selected, 0xA250 (R625). -/
def State.tileTick (s : State) (t : TileRef) (kind cat n : Nat) : State :=
  let g := groupNum t.q t.g
  let first := decide (kind = 1) && decide (n = 0)
  let y := (tget s.test.groupStall g {}).count kind cat (first && decide (t.t = 0))
  let z := if s.test.tileSel = t.q * 512 + t.g * 32 + t.t then s.test.tileStall.count kind cat first else s.test.tileStall
  { s with test := { s.test with groupStall := tput s.test.groupStall g y, tileStall := z } }

/-- A cube step's meters: its width class, and redo work where its pass is abandoned, replays, or re-runs a step after a
rollback (R511, R515). -/
def State.cubeStep (s : State) (t : TileRef) (p w : Nat) : State :=
  let s := s.meter p (widthMeter w) 1
  match s.pass? (s.tile (s.phys t)).cur with
  | none => s
  | some x =>
    let again := match (s.slot p).redoTo with | some k => decide (x.step ≤ k) | none => false
    if x.abandoned || x.replaying || again then s.meter p 14 1
    else s.updPass x.id (fun y => { y with cubes := y.cubes + 1 })

/-- A request in flight from a domain that is the faster side of a crossing where a request waits, or at a frozen crossing,
carries the cause region crossing (R75, R78, R624). -/
def State.atCrossing (s : State) (d : Nat) (held : Option Nat) : Option Nat :=
  if held = some 0x6 ∧ s.crossings.any (fun c => (decide (c.a = d) || decide (c.b = d)) &&
      (c.frozen || (c.waiting && decide (s.faster c.a c.b = d)))) then some 0xC else held

/-- A pass of a block on a tile's group waits for a context or for the reserve (R251, R260). -/
def State.passWaits (s : State) (t : TileRef) : Bool :=
  match s.tileSlot t with
  | none => false
  | some p => (s.slot p).seq.cwait.any (fun c => match (s.slot p).block? c.1 with | some bd => bit bd (groupNum t.q t.g) | none => false)

/-- What an engine offers while nothing is issued to it because its pass waits: a stall under credit wait and not idle (R251,
R260 against R623 case 3: log 28). -/
def State.offerOf (s : State) (t : TileRef) (o : Offer) : Offer :=
  if ¬ o.issued ∧ s.passWaits t then { o with issued := true, inputs := false, cause := 0x7 } else o

/-- What holds a tile's cubes or lane engine back in this issue step: the one step in 64 whose bank slots are reserved to
unscheduled traffic, where the step at hand has scheduled accesses (R205), or the drain of a fragment (R127). -/
def Tile.holdsBack (x : Tile) (kind : Nat) : Option Nat :=
  if 3 ≤ kind then none
  else if x.issue % 64 = 63 ∧ x.plan.headD [] ≠ [] then some 0xD
  else if kind = 1 ∧ 0 < x.drain then some 0x4
  else none

/-- The tile's issue steps advance with cube 0, or with the lane engine: a step that is held back for the reserved slots keeps
its accesses for the next. -/
def Tile.advance (x : Tile) (held : Bool) : Tile :=
  { x with issue := x.issue + 1, plan := if held then x.plan else x.plan.tail, drain := x.drain - 1 }

/-- One step or tick of an engine of a tile. -/
def State.engineStep (s : State) (t : TileRef) (kind n : Nat) (o : Offer) : State :=
  if ¬ trOk t ∨ 16 ≤ n ∨ ¬ s.domOn (groupNum t.q t.g) then s
  else
    let o := s.offerOf t o
    let x := s.tile (s.phys t)
    let back := if offerSteps o then x.holdsBack kind else none
    let o := if back = none then o else { o with outputs := false }
    let held := if back = none then s.atCrossing (groupNum t.q t.g) (tget? x.waits (kind - 1)) else back
    let s := if (offerSteps o || back.isSome) && (decide (kind = 2) || (decide (kind = 1) && decide (n = 0))) &&
        (decide (x.plan ≠ []) || decide (0 < x.drain)) then
      s.updTile (s.phys t) (fun y => y.advance (decide (back = some 0xD))) else s
    let s := if offerSteps o then
      (match s.tileSlot t with
       | none => s
       | some p => if kind = 1 then s.cubeStep t p o.width else if kind = 2 then s.meter p 4 1 else s) else s
    if ¬ o.tick then s
    else
      let s := s.tileTick t kind (offerCategory o (decide (kind = 1)) held) n
      if kind = 3 then s.updTile (s.phys t) (fun y => { y with streams := y.streams.map (fun x => { x with age := x.age + 1 }) })
      else s

/-- One tick of a queue engine. -/
def State.queueTick (s : State) (q n : Nat) (o : Offer) : State :=
  if 4 ≤ q ∨ 4 ≤ n ∨ ¬ s.domOn (64 + q) ∨ ¬ o.tick then s
  else
    let y := (tget s.test.queueStall q {}).count 1 (offerCategory o false none) (decide (n = 0))
    { s with test := { s.test with queueStall := tput s.test.queueStall q y } }

/-- A step of a crossing: a transfer each step of its slower side, every second one in widened mode; none while frozen. A
step of the faster side alone is a request that waits there (R75, R76, R78). -/
def State.crossStep (s : State) (a b : Nat) (o : Offer) : State :=
  if ¬ adjacent a b ∨ s.frozen a b ∨ ¬ o.inputs ∨ ¬ o.outputs then s
  else
    let c := (s.crossing? a b).getD { a := a, b := b }
    let need := if s.widened a b then 2 else 1
    s.putCrossing (if ¬ o.slower then { c with waiting := true }
      else if need ≤ c.steps + 1 then { c with steps := 0, moved := c.moved + 1, waiting := false }
      else { c with steps := c.steps + 1 })

/-- HANDSHAKE_STEP: one step, or one tick of waiting, of a unit of the die. -/
def State.handshakeStep (s : State) (e : Engine) (o : Offer) : State :=
  match e with
  | .cube t n => s.engineStep t 1 n o
  | .lane t => s.engineStep t 2 0 o
  | .stream t => s.engineStep t 3 0 o
  | .queueEngine q n => s.queueTick q n o
  | .crossing a b => s.crossStep a b o

def execHandshakeStep (e : Engine) (o : Offer) (s : State) : Res := .next (s.handshakeStep e o)

/-! ### Calibration (R61 to R65) -/

/-- Ticks per ns of a count past the calibration window, 16.16, rounded to nearest (R61). -/
def rateOf (count : Nat) : Nat := (4 * count + 2) / 5

/-- Whether a measured rate lies from 0.50 to 3.00 ticks per ns (R65). -/
def rateOk (count : Nat) : Bool := decide (40960 ≤ count) && decide (count ≤ 245760)

/-- A quarter fabric's oscillator has failed: Half-mast, and the four granules of the quarter are withdrawn (R65,
Table 12.11). -/
def State.fabricFailed (s : State) (q : Nat) : State :=
  ([4 * q, 4 * q + 1, 4 * q + 2, 4 * q + 3].foldl State.withdraw s).halfMast 0x2042

/-- Publishes a calibration of oscillator n, or marks it failed (R61, R63, R65). 0x2042 is raised once, by the measurement
that marks the oscillator failed: DESIGN CHOICE, log 28. -/
def State.calibrate (s : State) (n count : Nat) : State :=
  let d := s.dom n
  let o := s.osc n
  let bad := !rateOk count
  let s := s.updOsc n (fun o => { o with
    rate := if bad then o.rate else rateOf count, count := min 0xFFFFFFFF (o.count + 1), mv := d.mv,
    junction := d.junction, failed := o.failed || bad, inWindow := false, valid := o.valid || !bad })
  if bad ∧ ¬ o.failed then
    let s := s.logErr { code := 0x2042, handling := .halfMast, siteKind := if n < 64 then .group else .fabric,
                        site := siteNum (if n < 64 then n else n - 64), detail0 := rateOf count }
    if n < 64 then (s.retireGroup n 0x2042).dropDomain n else s.fabricFailed (n - 64)
  else s

/-- CALIBRATION_WINDOW_END: the window of oscillator n has counted its periods. -/
def execCalibrationWindowEnd (n count : Nat) (s : State) : Res :=
  .next (if n < 68 ∧ s.domOn n ∧ (s.osc n).inWindow then s.calibrate n count else s)

/-- RECALIBRATION_DUE: a window starts. -/
def execRecalibrationDue (n : Nat) (s : State) : Res := .next (s.recal n)

/-! ### Region controllers (R76, R77, R79) -/

/-- Differences of a pair: setpoints in mV, junctions in 0.125 degrees C. -/
def State.pairMv (s : State) (a b : Nat) : Nat := ((s.dom a).mv : Int) - (s.dom b).mv |>.natAbs
def readTemp (x : XReading) : Nat := (x.ja - x.jb).natAbs

/-- Whether a quarter's region controller samples a pair: adjacent, powered, and one side of the quarter. -/
def State.samples (s : State) (q a b : Nat) : Bool :=
  adjacent a b && s.domOn a && s.domOn b && (decide (domQuarter a = q) || decide (domQuarter b = q))

/-- Whether a domain's setpoint cannot be lowered: fixed, or at the bottom of its range. -/
def State.atFloor (s : State) (d : Nat) : Bool := !domVariable d || decide ((s.dom d).mv ≤ domFloor d)

/-- A correction that meets one more sample: peaks rise while a side is being lowered; a new excess of a held one starts it
again with the side that is faster now, unless the crossing is widened already and that side cannot be lowered (R76). -/
def State.sampleAgain (s : State) (c : Correction) (x : XReading) : Correction :=
  let v := s.pairMv x.a x.b
  let past := decide (120 < v) || decide (240 < readTemp x)
  let f := s.faster x.a x.b
  if c.held && past && !(c.widened && s.atFloor f) then
    { c with held := false, fast := f, tempEx := decide (240 < readTemp x), peakV := v, peakT := readTemp x }
  else { c with peakV := max c.peakV v, peakT := max c.peakT (readTemp x), tempEx := c.tempEx || decide (240 < readTemp x) }

/-- One pair of a sample: past an operating limit (120 mV, 30 degrees C) a correction begins, or goes on. -/
def State.samplePair (s : State) (q : Nat) (x : XReading) : State :=
  if ¬ s.samples q x.a x.b then s
  else
    let v := s.pairMv x.a x.b
    let past := decide (120 < v) || decide (240 < readTemp x)
    if s.corrections.any (fun c => c.joins x.a x.b) then
      { s with corrections := s.corrections.map (fun c => if c.joins x.a x.b then s.sampleAgain c x else c) }
    else if past then
      { s with corrections := s.corrections ++ [{ q := q, a := x.a, b := x.b, fast := s.faster x.a x.b,
                                                  tempEx := decide (240 < readTemp x), peakV := v, peakT := readTemp x }] }
    else s

/-- REGION_SAMPLE. -/
def execRegionSample (q : Nat) (xs : List XReading) (s : State) : Res :=
  .next (xs.foldl (fun s x => s.samplePair q x) s)

/-- The record of R76 step 5: the two domains and the peak differences. -/
def Correction.record (c : Correction) : ErrRec :=
  { code := 0x2043, siteKind := .domain, site := siteNum c.fast, detail0 := 256 * c.a + c.b, detail1 := 65536 * c.peakV + c.peakT }

/-- Puts a changed correction back. -/
def State.putCorrection (s : State) (c : Correction) : State :=
  { s with corrections := s.corrections.map (fun x => if x.joins c.a c.b then c else x) }

/-- REGION_STEP: the faster side is lowered by 10 mV and counted past 1.0 microsecond; the correction ends with a cap once
the pair is within 100 mV and, where temperature was exceeded, the counted rate is no higher than the slower side's
published one. At the bottom of its range the crossing goes to widened mode instead (R76). -/
def State.regionStep (s : State) (q a b count : Nat) : State :=
  match s.corrections.find? (fun c => c.joins a b && decide (c.q = q) && !c.held) with
  | none => s
  | some c =>
    let d := c.fast
    let slow := if c.fast = c.a then c.b else c.a
    if s.atFloor d then
      let c := { c with widened := true, held := true }
      (s.putCorrection c).logErr c.record
    else
      let s := s.setMv d ((s.dom d).mv - 10)
      if s.pairMv a b ≤ 100 ∧ (¬ c.tempEx ∨ count * 65536 ≤ s.domRate slow * 1000) then
        let c := { c with held := true, caps := tput c.caps d (s.dom d).mv }
        (s.putCorrection c).logErr c.record
      else s

def execRegionStep (q a b count : Nat) (s : State) : Res := .next (s.regionStep q a b count)

/-- REGION_CAP_RELEASE: the pair has stayed within 80 mV and 20 degrees C for 1 ms. -/
def execRegionCapRelease (q a b : Nat) (s : State) : Res :=
  .next (if s.pairMv a b ≤ 80 then
      { s with corrections := s.corrections.filter (fun c => !(c.joins a b && decide (c.q = q) && c.held)) }
    else s)

/-! ### Guard limits (R78) -/

/-- CROSSING_FREEZE: a pair at a guard limit (160 mV, 40 degrees C) is frozen at once, with 0x2041. -/
def execCrossingFreeze (x : XReading) (s : State) : Res :=
  .next (if adjacent x.a x.b ∧ ¬ s.frozen x.a x.b ∧ (160 ≤ s.pairMv x.a x.b ∨ 320 ≤ readTemp x) then
      let c := (s.crossing? x.a x.b).getD { a := x.a, b := x.b }
      (s.putCrossing { c with frozen := true, fast := s.faster x.a x.b }).logErr
        { code := 0x2041, siteKind := .domain, site := siteNum (s.faster x.a x.b), detail0 := 256 * x.a + x.b,
          detail1 := 65536 * s.pairMv x.a x.b + readTemp x }
    else s)

/-- CROSSING_RESUME: the pair is back within the operating limits. -/
def execCrossingResume (x : XReading) (s : State) : Res :=
  .next (match s.crossing? x.a x.b with
    | none => s
    | some c => if c.frozen ∧ s.pairMv x.a x.b ≤ 120 ∧ readTemp x ≤ 240 then s.putCrossing { c with frozen := false } else s)

/-- CROSSING_FROZEN_TIMEOUT: after 1 ms, a lasting fault of the domain on the faster side: a tile group is retired, any
other domain makes the module Strike (R78, Table 12.3). -/
def execCrossingFrozenTimeout (a b : Nat) (s : State) : Res :=
  .next (match s.crossing? a b with
    | none => s
    | some c =>
      if ¬ c.frozen then s
      else if c.fast < 64 then (s.retireGroup c.fast 0x2041).dropDomain c.fast
      else (s.logErr { code := 0x2041, handling := .strike, siteKind := .domain, site := siteNum c.fast, detail0 := 256 * a + b }).strike)

/-! ### Seeds (R120) -/

/-- Whether a step's forward pass has issued on the module. -/
def Slot.hasIssued (x : Slot) (e : Nat) : Bool :=
  (x.seq.issued && decide (e ≤ x.seq.step)) || (match x.redoTo with | some k => decide (e ≤ k) | none => false)

/-- Whether a write-back conversion of version e or later has begun. -/
def Slot.converted (x : Slot) (e : Nat) : Bool :=
  x.shards.any (fun h => decide (e < h.2.count) || (decide (e = h.2.count) && !h.2.wbPending && !h.2.awaitRes))

/-- A commit of the staged seed for step e onwards. -/
def State.seedCommit (s : State) (p e : Nat) : State × Bool :=
  let x := s.slot p
  if x.seed.pending ∨ x.hasIssued e ∨ x.converted e then (s, false)
  else
    (s.updSlot p (fun x => { x with seed := { x.seed with
      commits := (e, x.seed.staged) :: x.seed.commits, pending := true,
      earlier := x.seed.at (e - 1), earlierLast := (e + 2 ^ 64 - 1) % 2 ^ 64 } }), true)

/-- The write of the commit step. -/
def State.writeSeedCommit (s : State) (p e : Nat) : State :=
  let r := s.seedCommit p e
  r.1.answer (if r.2 then .ok else .valueRefused)

/-- SEED_COMMIT: the write of the commit step by the host operator. -/
def execSeedCommit (via : Via) (p e : Nat) (s : State) : Res :=
  .next (s.guard via (ixOf 0x6240 16 p) 3 (fun s => s.writeSeedCommit p e))

end Sys2Proof.Machine
end

