-- ==== Sys2Proof/Machine/Power.lean ====
section
/-! DEFINITION. Power: the power-on sequence with the boot ROM's check, the dip and what it leaves, the power controller's
samples, regulators, the hold-up bank, and the resets (13 R517, 15, 16 R586 to R593, 18 R631 to R639). -/

namespace Sys2Proof.Machine

/-! ### What survives the loss of power (R527, R569) -/

/-- What a slot keeps in flash: its grant count, its persistent key-store entry and its release record. -/
def Slot.kept (x : Slot) : Slot :=
  { grantNo := x.grantNo, persist := x.persist, release := x.release, burgee := BitVec.ofNat 256 (x.grantNo * 2 ^ 224 + 0xFFFF * 2 ^ 144) }

/-- What a stack's spare map keeps: spare rows in use and a moved pseudo-channel (R450). -/
def Stack.kept (x : Stack) : Stack := { spareRows := x.spareRows, pc32 := x.pc32 }

/-- What a cartridge keeps: its stored words and spare rows. -/
def Cart.kept (x : Cart) : Cart := { mem := x.mem, spareRows := x.spareRows, spareFree := x.spareFree, toWrite := x.toWrite }

/-- The state once no rail holds charge: flash, fuses, identity memories and cartridges remain (R569). -/
def State.powerLost (s : State) (dest : ModState) : State :=
  { pending := s.pending, free := s.free, out := s.out,
    mod := { state := dest, serial := s.mod.serial, ordering := s.mod.ordering, boardRev := s.mod.boardRev, stepping := s.mod.stepping,
             cleanSince := s.mod.cleanSince },
    pins := s.pins,
    prov := { force := s.prov.force, interval := s.prov.interval, since := s.prov.since, serials := s.prov.serials },
    power := { capW := s.power.capW, targetMv := s.power.targetMv, switchOn := s.power.switchOn, stopped := s.power.stopped },
    dip := s.dip, bank := { cycles := s.bank.cycles, drained := s.bank.drained }, dipAreas := s.dipAreas,
    log := { next := s.log.next, newest := s.log.newest, lost := s.log.lost },
    recov := s.recov,
    spare := { s.spare with waiting := [], withdrawn := s.spare.lasting, chipsFailed := [] },
    dram := tmap (fun _ x => x.kept) s.dram, carts := tmap (fun _ x => x.kept) s.carts,
    memSet := s.memSet, exTimeout := s.exTimeout, link := s.link,
    slots := s.slots.map Slot.kept,
    fw := { s.fw with inactive := 0, buf := [], intakePub := [], intakeSig := [] },
    energy := s.energy, mgmt := { chassisKey := s.mgmt.chassisKey } }

/-! ### The dip (R570 to R575, R593, R632) -/

/-- Every update that a dip stops leaves a record 0x7107 with the set and the step (R386). -/
def State.tornRecords (s : State) : State :=
  (List.range 16).foldl (fun s p => (s.slot p).shards.foldl (fun s (n, h) =>
    if h.updating then s.logSlot p { code := 0x7107, handling := .rollback, passKind := .update, siteKind := .chip, site := siteNum n,
                                     step := h.count, detail0 := dTensor h.desc } else s) s) s

/-- A dip: its cause is logged, the sections are written, and all that flash does not hold is lost. The module is Dipping
until it is Dark (log 14). In Dark no dip runs and every rail is removed (R570, R588). -/
def State.dipRun (s : State) (cause : DipCause) (code : Option Nat) (d : DipObs) (bank : Bool) : State :=
  if s.mod.state = .dark then s.powerLost .dark
  else if s.mod.state = .dipping then s
  else
    let s := match code with | some c => s.logErr { code := c } | none => s
    let s := s.tornRecords.writeDip cause d.committed d.bankStart
    let s := { s with dip := { s.dip with energy := if bank then d.energy else 0, duration := d.duration, bankEnd := d.bankEnd },
                      bank := { s.bank with drained := s.bank.drained || bank },
                      prov := { s.prov with force := s.prov.force || (s.test.mode && decide (cause = DipCause.reset)) } }
    s.powerLost .dipping

/-- The end of a dip: VCTL is off, and with it the mailboxes (Table 15.5, step 8). -/
def State.dipEnd (s : State) : State :=
  if s.mod.state = .dipping then { s with mod := { s.mod with state := .dark }, boxes := List.replicate 17 {} } else s

def execBrownout (d : DipObs) (s : State) : Res := .next (s.dipRun .brownout (some 0x2050) d true)
def execOvervoltage (d : DipObs) (s : State) : Res := .next (s.dipRun .overvoltage (some 0x2057) d true)

/-- RIDE_THROUGH: counted, no response. -/
def execRideThrough (s : State) : Res :=
  .next (if s.mod.state = .dark ∨ s.mod.state = .dipping then s else { s with power := { s.power with ride := s.power.ride + 1 } })

/-- PRSNT_N_ASSERTED: the input switch closes. -/
def execPrsntNAsserted (s : State) : Res :=
  .next { s with pins := { s.pins with prsnt := false }, power := { s.power with switchOn := true } }

/-- PRSNT_N_DEASSERTED: the switch opens and the module dips from the bank as for a brownout; the input is absent from
then on. -/
def execPrsntNDeasserted (d : DipObs) (s : State) : Res :=
  let s := if s.power.switchOn then s.dipRun .brownout (some 0x2050) d true else s
  .next { s with pins := { s.pins with prsnt := true }, power := { s.power with switchOn := false, stopped := false } }

/-- A reset: the dip runs from VIN with cause reset (R575, R638). -/
def State.resetDip (s : State) (d : DipObs) : State :=
  if s.mod.boundaryScan ∨ s.mod.state = .dark then s else s.dipRun .reset none d false

/-- MRST_N low for `us` microseconds (0: less than one): below 1 ignored, from 10 a reset, between either (R638). -/
def execMrstN (us : Nat) (d : DipObs) (s : State) : Res :=
  .next (if 10 ≤ us ∨ (1 ≤ us ∧ Config.shortMrst s.free) then ({ s with free := s.free + 1 }).resetDip d else { s with free := s.free + 1 })

/-- MODULE_RESET: a write of 1 to 0x1020:03 by the maintainer. -/
def execModuleReset (via : Via) (d : DipObs) (s : State) : Res :=
  .next (s.guard via 0x1020 3 (fun s => (s.answer .ok).resetDip d))

/-! ### PCIe resets (R639) -/

/-- A queue pair after a reset of its function: disabled, its commands, completions and waiting notifications gone. -/
def QPState.resetPair (q : QPState) : QPState := { q with enable := false, held := [], comp := none, cmds := [], ring := [] }

/-- Reset of every function of the endpoint. -/
def State.pcieReset (s : State) : State :=
  { s with qps := s.qps.map QPState.resetPair, boxes := s.boxes.map (fun _ => {}) }
/-- The module looks for a clock on REFCLK± (R642), whose level no row of the table carries. -/
def State.findClock (s : State) : State :=
  { s with pins := { s.pins with refclk := Config.refclk s.free }, free := s.free + 1 }
/-- PERST#: the endpoint's functions are reset, and at its release a powered module takes the clock that is on REFCLK±, or without
one its own under SRIS (R642). -/
def State.perst (s : State) : State :=
  let s := s.pcieReset
  if s.power.railsUp then s.findClock else s
/-- Whether the endpoint runs from its own unspread clock under SRIS, rather than with the host's common clock (R642). -/
def State.sris (s : State) : Bool := !s.pins.refclk
/-- Reset of one virtual function. -/
def State.vfReset (s : State) (p : Nat) : State :=
  { s with qps := s.qps.modify (17 + p) QPState.resetPair, boxes := s.boxes.set (p + 1) {} }

def execPerst (s : State) : Res := .next s.perst
def execFunctionLevelReset (fn : Nat) (s : State) : Res :=
  .next (if fn = 0 then s.pcieReset else if fn ≤ 16 then s.vfReset (fn - 1) else s)

/-! ### Power-on (R563, R517, R592, R621) -/

/-- Domains at the end of Table 15.4: fabrics at 0.72 V, the fixed ones at their setpoints. -/
def powerOnDoms : Tbl Domain :=
  (List.range 16).map (fun i => (64 + i, { state := .on, mv := if i < 4 then 720 else if i = 15 then 800 else 750 }))

/-- The boot ROM's choice of a firmware slot: the one to activate or the active one, else the other (R517, R518). -/
def State.boot (s : State) : State :=
  let first := if s.fw.activate then 1 - s.fw.active else s.fw.active
  let ok := fun (k : Nat) => match s.fw.slots.getD k none with | some f => s.fwOk f | none => false
  let take := fun (s : State) (k : Nat) =>
    match s.fw.slots.getD k none with
    | some f => { s with
        fw := { s.fw with active := k, activate := false, measure := sha384 (fwSigned f),
                          inactive := if ok (1 - k) then 2 else if s.fw.slots.getD (1 - k) none = none then 0 else 3 },
        mod := { s.mod with fwVersion := fwBuild f } }
    | none => s
  if ok first then take s first
  else if ok (1 - first) then take (s.logErr { code := 0x1101, detail0 := first }) (1 - first)
  else
    let s := { s with doms := [(79, { state := .on, mv := 800 })], fw := { s.fw with activate := false },
                      mod := { s.mod with state := .struck, limited := true } }
    s.logErr { code := 0x1102, handling := .strike }

/-- Whether the turn-on condition finds the module Dark with its switch closed. -/
def State.canTurnOn (s : State) : Bool :=
  decide (s.mod.state = .dark) && s.power.switchOn && !s.power.stopped && !s.mod.boundaryScan && !s.power.railsUp

/-- TURN_ON: a dip that had begun has ended; Table 15.4 runs, the clock on REFCLK± is looked for (R642), and the boot ROM verifies
the slots. Proving follows. -/
def State.turnOn (s : State) : State :=
  let s := s.dipEnd
  if ¬ s.canTurnOn then s
  else ({ s with power := { s.power with railsUp := true }, doms := powerOnDoms, mod := { s.mod with ref := 0 } }).findClock.boot

def execTurnOn (s : State) : Res := .next s.turnOn

/-- The sequence of Table 15.4 stops: 0x2058, every rail removed, Dark until the input has been absent (R563, R567). -/
def State.powerOnStop (s : State) (r : ErrRec) : State :=
  let s := s.logErr { r with code := 0x2058 }
  let l := s.log
  let s := s.powerLost .dark
  { s with log := l, power := { s.power with stopped := true } }

/-- POWER_ON_STEP_TIMEOUT: steps 2 to 6 stop the sequence, with 0x2058 and the module Dark until its input has been
absent; step 7 only fails the bank's measurement (R563). -/
def State.powerOnTimeout (s : State) (n : Nat) : State :=
  if ¬ (s.power.railsUp ∧ s.mod.state = .dark ∧ ¬ s.mod.boundaryScan) then s
  else if n = 7 then { s with bank := { s.bank with late := true } }
  else if 2 ≤ n ∧ n ≤ 6 then s.powerOnStop { code := 0x2058, detail0 := n }
  else s
def execPowerOnStepTimeout (n : Nat) (s : State) : Res := .next (s.powerOnTimeout n)

/-- BOUNDARY_SCAN_ENTRY: with the turn-on condition, steps 1 to 6 run and no firmware starts; at any other time the pin is
ignored and 0x9105 logged once per Proving (R588, R621). -/
def State.scanEntry (s : State) : State :=
  let s := s.dipEnd
  if s.canTurnOn then
    { s with power := { s.power with railsUp := true }, doms := powerOnDoms, mod := { s.mod with boundaryScan := true, ref := 0 },
             test := { s.test with scan := scanChain } }
  else if s.mod.state = .dark ∨ s.mod.bscanLogged then s
  else ({ s with mod := { s.mod with bscanLogged := true } }).logErr { code := 0x9105 }
def execBoundaryScanEntry (s : State) : Res := .next s.scanEntry

/-- The instruction that a code in an instruction register selects: one outside those listed selects BYPASS (R622). -/
def scanSelect (irLen code : Nat) : ScanInstr :=
  let c := code % 2 ^ irLen
  ((([(0, ScanInstr.samplePreload), (1, .extest), (2, .idcode), (3, .clamp), (4, .highz)] : List (Nat × ScanInstr)).find?
    (fun e => decide (Config.scanCode irLen e.1 % 2 ^ irLen = c))).map (·.2)).getD .bypass

/-- A scan of the chain's instruction registers in boundary-scan mode: a code for each device, from TDI on (R622). No row of the
table drives the test access port (log 41). -/
def State.scanIr (s : State) (codes : List Nat) : State :=
  if s.mod.boundaryScan then
    { s with test := { s.test with scan := (s.test.scan.zip codes).map (fun (d, c) => { d with ir := scanSelect d.irLen c }) } }
  else s

/-- The data register that a device's instruction places between TDI and TDO, as it captures: its length and value; the boundary
register's length is not in the manual. -/
def ScanDev.data (d : ScanDev) : Option (Nat × Nat) :=
  match d.ir with
  | .idcode => some (32, d.code.toNat)
  | .samplePreload => none
  | .extest => none
  | _ => some (1, 0)

/-! ### Setpoints (R561, R79) -/

/-- Lowers a domain by 10 mV within its range, and with it every neighbour that would be left more than 100 mV above. -/
def State.stepDown (fuel : Nat) (s : State) (d : Nat) : State :=
  match fuel with
  | 0 => s
  | k + 1 =>
    if ¬ domVariable d ∨ ¬ s.domOn d ∨ (s.dom d).mv ≤ domFloor d then s
    else
      let s := s.setMv d ((s.dom d).mv - 10)
      ((neighbours d).filter (fun n => s.domOn n && decide ((s.dom d).mv + 100 < (s.dom n).mv))).foldl (fun s n => State.stepDown k s n) s

/-- What a domain may rise to: the target and any region cap; not while it is critical or being corrected. -/
def State.ceiling (s : State) (d : Nat) : Nat := min s.power.targetMv (s.regionCap d)
def State.mayRise (fuel : Nat) (s : State) (d : Nat) : Bool :=
  match fuel with
  | 0 => false
  | k + 1 =>
    domVariable d && s.domOn d && !(s.dom d).critical && !s.regionBusy d && decide ((s.dom d).mv + 10 ≤ s.ceiling d)
      && decide (10 ≤ (s.dom d).since)
      && (neighbours d).all (fun n => !s.domOn n || decide ((s.dom d).mv + 10 ≤ (s.dom n).mv + 100) || State.mayRise k s n)

/-- Raises a domain by 10 mV, no more often than each 1 ms, with the neighbours that must move with it. -/
def State.stepUp (fuel : Nat) (s : State) (d : Nat) : State :=
  match fuel with
  | 0 => s
  | k + 1 =>
    if ¬ State.mayRise (k + 1) s d then s
    else
      let s := ((neighbours d).filter (fun n => s.domOn n && decide ((s.dom n).mv + 100 < (s.dom d).mv + 10))).foldl
        (fun s n => State.stepUp k s n) s
      (s.setMv d ((s.dom d).mv + 10)).updDom d (fun x => { x with since := 0 })

/-! ### THERMAL_SAMPLE (R564, R566) -/

/-- A domain at or above 105 degrees C: 0x2055 once per occurrence; a tile group is held, any other domain, or the fourth
tile group, makes the module Strike. -/
def State.critical (s : State) (d : Nat) : State :=
  if (s.dom d).critical then s
  else
    let s := s.updDom d (fun x => { x with critical := true })
    let many := decide (4 ≤ (s.doms.filter (fun x => decide (x.1 < 64) && x.2.critical)).length)
    let fatal := many || decide (64 ≤ d)
    let s := s.logErr { code := 0x2055, handling := if fatal then .strike else .event, siteKind := .domain, site := siteNum d }
    if fatal then s.strike else s

/-- One domain of a sample that began in state `s0`: a domain moves by one step a sample, its neighbours' steps counted
(R561). -/
def State.thermalOne (s0 s : State) (r : JReading) : State :=
  let d := r.dom
  let down := fun (s : State) => if (s.dom d).mv = (s0.dom d).mv then s.stepDown 8 d else s
  if 79 ≤ d ∨ ¬ s.domOn d then s
  else
    let s := s.updDom d (fun x => { x with junction := r.junction, since := x.since + 1,
                                           critical := x.critical && decide (800 ≤ r.junction) })
    let s := if 840 ≤ r.junction then s.critical d else s
    if ¬ domVariable d ∨ ¬ s.domOn d then s
    else if s.power.targetMv < (s.dom d).mv ∨ (s.dom d).critical then down s
    else if 760 ≤ r.junction then
      let s := if (s.dom d).thermal then s
        else (s.updDom d (fun x => { x with thermal := true })).logErr { code := 0x2054, siteKind := .domain, site := siteNum d }
      down s
    else if r.junction ≤ 720 ∧ ¬ s.power.capOn then
      let s := s.stepUp 4 d
      if s.ceiling d ≤ (s.dom d).mv + 9 then s.updDom d (fun x => { x with thermal := false }) else s
    else s

/-- THERMAL_SAMPLE. -/
def execThermalSample (js : List JReading) (s : State) : Res :=
  .next (let s := js.foldl (State.thermalOne s) s
    { s with power := { s.power with hottest := js.foldl (fun m r => max m r.junction) (match js with | [] => s.power.hottest | r :: _ => r.junction) } })

/-- JUNCTION_CRITICAL_TIMEOUT: a tile group that has not fallen below 100 degrees C within 10 ms is retired (R566). -/
def execJunctionCriticalTimeout (d : Nat) (s : State) : Res :=
  .next (if d < 64 ∧ (s.dom d).critical then (s.retireGroup d 0x2055).dropDomain d else s)

/-! ### POWER_CAP_SAMPLE (R514, R565, R68) -/

/-- Energy of slot p over one sample: its groups' measured power and the fixed power of its granules, for 100
microseconds. -/
def State.sampleEnergy (s : State) (p : Nat) : State :=
  let ks := (s.slot p).granules
  let mw := ((ks.flatMap groupsOf).map (fun d => (s.dom d).mw)).sum + ks.length * s.energy.getD 5 0
  if ks = [] then s else s.energyPj p (mw * 100000)

/-- The cap: above it every tile-group domain that is on falls by one step, with 0x2056 at the start; once `calm` (50 W
below for 1 ms) they rise again. -/
def State.capStep (s : State) (w : Nat) (calm : Bool) : State :=
  let on := (List.range 64).filter (fun d => s.domOn d)
  if s.power.capW < w then
    let s := if s.power.capOn then s else ({ s with power := { s.power with capOn := true } }).logErr { code := 0x2056, detail0 := w }
    let s0 := s
    on.foldl (fun s d => (if (s.dom d).mv = (s0.dom d).mv then s.stepDown 8 d else s).updDom d (fun x => { x with cap := true })) s
  else if s.power.capOn ∧ calm then
    let s := on.foldl (fun s d => if (s.dom d).thermal then s else s.stepUp 4 d) s
    if on.all (fun d => (s.dom d).thermal || decide (s.ceiling d ≤ (s.dom d).mv + 9)) then
      { s with power := { s.power with capOn := false }, doms := tmap (fun _ x => { x with cap := false }) s.doms }
    else s
  else s

/-- POWER_CAP_SAMPLE: input voltage, input power, die power, power of each domain; 2,500 periods of the module reference pass. -/
def execPowerCapSample (vin w die : Nat) (mw : List (Nat × Nat)) (calm : Bool) (s : State) : Res :=
  .next (if s.mod.state = .dark ∨ s.mod.state = .dipping then s
    else
      let s := mw.foldl (fun s (d, m) => if s.domOn d then s.updDom d (fun x => { x with mw := m }) else s) s
      let s := { s with power := { s.power with vin := vin, inW := w, dieW := die }, mod := { s.mod with ref := (s.mod.ref + 2500) % 2 ^ 64 } }
      let s := (List.range 16).foldl State.sampleEnergy s
      s.capStep w calm)

/-! ### Regulators, coolant, bank (R567, R568, R578) -/

/-- REGULATOR_FAULT of domain d, or of a rail (d from 80); in the power-on sequence the sequence stops. -/
def execRegulatorFault (d : Nat) (s : State) : Res :=
  .next (if s.mod.state = .dark ∧ s.power.railsUp ∧ ¬ s.mod.boundaryScan then
      s.powerOnStop { code := 0x2058, siteKind := .domain, site := siteNum d }
    else if s.mod.state = .dark ∨ s.mod.state = .dipping ∨ (d < 64 ∧ ¬ s.domOn d) then s
    else if d < 64 then
      ((s.logErr { code := 0x2058, handling := .halfMast, siteKind := .domain, site := siteNum d }).retireGroup d 0x2058).dropDomain d
    else (s.logErr { code := 0x2058, handling := .strike, siteKind := .domain, site := siteNum d }).strike)

/-- COOLANT_RISE_HIGH: more than 20 degrees C logs 0x2059, once per occurrence. -/
def execCoolantRiseHigh (inlet outlet : Int) (s : State) : Res :=
  .next (if s.mod.state = .dark ∨ s.mod.state = .dipping then s
    else
      let high := decide (inlet + 160 < outlet)
      let was := s.power.coolantHigh
      let s := { s with power := { s.power with inlet := inlet, outlet := outlet, coolantHigh := high } }
      if high ∧ ¬ was then s.logErr { code := 0x2059 } else s)

/-- VBANK_LOW: below 48.0 V for 1 s the bank counts as failed. -/
def execVbankLow (mv : Nat) (s : State) : Res :=
  .next (if (s.mod.state = .joining ∨ s.mod.state = .hoisted ∨ s.mod.state = .halfMast) ∧ mv < 48000 then
      let was := s.bank.outcome
      let s := { s with power := { s.power with bankMv := mv }, bank := { s.bank with outcome := 4 } }
      if was = 4 then s else (s.logErr { code := 0x2052, handling := .halfMast }).halfMast 0x2052
    else s)

end Sys2Proof.Machine
end

