-- ==== Sys2Proof/Machine/Bringup.lean ====
section
/-! DEFINITION. Proving: identity memories, the dip's restore, the bank measurement, the classing of what tests find, the
keys of a boot; cartridges removed and inserted (16, 15 R574 to R579, 13 R507). -/

namespace Sys2Proof.Machine

/-! ### Identity memories (R596 to R598) -/

/-- Header fields of a copy (Table 16.6). -/
def idField (c : List Byte) (at_ n : Nat) : Nat := leNat ((c.drop at_).take n)
def idLength (c : List Byte) : Nat := idField c 8 2
def idGen (c : List Byte) : Nat := idField c 10 2
def idBody (c : List Byte) : List Byte := (c.drop 16).take (idLength c)

/-- Length of a body of a kind (Tables 16.7 to 16.11). -/
def bodyLength (kind : Nat) (body : List Byte) : Nat :=
  match kind with
  | 1 => 16
  | 2 => 32
  | 3 => 32 + 8 * idField body 6 2
  | _ => 16

/-- Whether a copy is valid (R597). -/
def copyValid (kind : Nat) (c : List Byte) : Bool :=
  decide (idField c 0 4 = 0x44494C43) && decide (idField c 6 1 = 1) && decide (idField c 5 1 = kind)
    && decide (16 + idLength c ≤ c.length) && decide (idLength c = bodyLength kind (idBody c))
    && decide (idField c 12 4 = crc32 (idBody c))

/-- The copy in use: of two valid ones the newer. -/
def copyInUse (kind : Nat) (cs : List (List Byte)) : Option Nat :=
  let ok : Nat → Bool := fun i => match cs[i]? with | some c => copyValid kind c | none => false
  if ok 0 ∧ ok 1 then
    let d := (idGen (cs.getD 1 []) + 65536 - idGen (cs.getD 0 [])) % 65536
    if 1 ≤ d ∧ d ≤ 32767 then some 1 else some 0
  else if ok 0 then some 0 else if ok 1 then some 1 else none

/-- The copy written by an update: GEN one higher, in the place not in use. -/
def newCopy (kind gen : Nat) (body : List Byte) : List Byte :=
  bytesLE 4 0x44494C43 ++ [0#8] ++ bytesLE 1 kind ++ [1#8, 0#8] ++ bytesLE 2 body.length ++ bytesLE 2 ((gen + 1) % 65536)
    ++ bytesLE 4 (crc32 body) ++ body

/-- Reads one identity memory into object 0x1100 + m; `none`: absent, or unreadable with 0x1103. -/
def State.readId (s : State) (m kind : Nat) (x : IdMem) : State × Option (List Byte) :=
  if ¬ x.present then ({ s with mod := { s.mod with ids := tput s.mod.ids m {} } }, none)
  else
    match copyInUse kind x.copies with
    | none =>
      (({ s with mod := { s.mod with ids := tput s.mod.ids m { status := 2 } } }).logErr { code := 0x1103, detail0 := m }, none)
    | some i =>
      let c := (x.copies.getD i []).take (16 + idLength (x.copies.getD i []))
      ({ s with mod := { s.mod with ids := tput s.mod.ids m { status := 1, copy := i, contents := c } } }, some c)

/-- Refused contents: status 3 and 0x1104. -/
def State.refuseId (s : State) (m : Nat) : State :=
  ({ s with mod := { s.mod with ids := tput s.mod.ids m { (tget s.mod.ids m {}) with status := 3 } } }).logErr { code := 0x1104, detail0 := m }

/-- Writes an updated body into the other copy. -/
def State.updateId (s : State) (m kind : Nat) (c body : List Byte) : State :=
  let o := tget s.mod.ids m {}
  { s with mod := { s.mod with ids := tput s.mod.ids m { o with copy := 1 - o.copy, contents := newCopy kind (idGen c) body } } }

/-- An ordering code of 16 octets, zero-padded ASCII. -/
def codePad (l : List Nat) : List Byte := (label l ++ List.replicate 16 0#8).take 16
def codeBank : List Byte := codePad [0x43, 0x4C, 0x2D, 0x48, 0x42, 0x31, 0x30]
def codeCart : List Byte := codePad [0x4F, 0x5A, 0x2D, 0x33, 0x54]
/-- ORDERING_CODE: the body's bits [255:128]. -/
def bodyCode (body : List Byte) : List Byte := (body.drop 16).take 16

/-- The slot memory: ring, position hint and slot ID against the straps (Table 16.12). -/
def State.provSlotMem (s : State) (i : ProveIn) : State :=
  let r := s.readId 0 1 i.slotMem
  let s := { r.1 with pins := { r.1.pins with slotId := i.straps % 256, ringSel := i.ringStrap % 2 },
                      ring := { r.1.ring with strap := i.ringStrap % 2, ring := i.ringStrap % 2, hint := 0xFF } }
  match r.2 with
  | none => s
  | some c =>
    let b := idBody c
    let s := { s with ring := { s.ring with hint := idField b 2 1 } }
    let s := if idField b 0 1 = i.straps % 256 then s else s.logErr { code := 0x1105, detail0 := idField b 0 1, detail1 := i.straps % 256 }
    if idField b 1 1 = i.ringStrap % 2 then s
    else ({ s with mod := { s.mod with ringClash := true } }).logErr { code := 0x1105, detail0 := idField b 1 1, detail1 := i.ringStrap % 2 }

/-- The bank memory: its code, and one discharge cycle more after a dip drawn from it (R9, R579). -/
def State.provBankMem (s : State) (i : ProveIn) : State :=
  let r := s.readId 1 2 i.bankMem
  let s := r.1
  match r.2 with
  | none => { s with bank := { s.bank with refused := true, drained := false } }
  | some c =>
    let b := idBody c
    if bodyCode b ≠ codeBank then
      let s := s.refuseId 1
      { s with bank := { s.bank with refused := true, drained := false, cycles := idField b 4 4 } }
    else
      let n := idField b 4 4 + b2n s.bank.drained
      let s := if s.bank.drained then s.updateId 1 2 c (b.take 4 ++ bytesLE 4 n ++ b.drop 8) else s
      let s := if s.bank.drained ∧ n = 50000 then s.logErr { code := 0x205A } else s
      { s with bank := { s.bank with refused := false, drained := false, cycles := n } }

/-- Spare-map entries of a cartridge body (Table 16.10). -/
def spareEntries (b : List Byte) : List (BitVec 64) := (chunks 8 (b.drop 32)).map (fun c => BitVec.ofNat 64 (leNat c))

/-- Marks the first free entry of a replaced row's channel in use. -/
def markRow (es : List (BitVec 64)) (ch row : Nat) : List (BitVec 64) :=
  match es with
  | [] => []
  | e :: r => if fld e 63 62 = 0 ∧ fld e 61 58 = ch then putFld (putFld e 63 62 1) 57 32 row :: r else e :: markRow r ch row

/-- The memory of the cartridge in socket k: accepted or treated as empty; rows replaced since are written into its spare
map (R5, R9, R27, R597). -/
def State.provCartMem (s : State) (k : Nat) (x : IdMem) : State :=
  let r := s.readId (4 + k) 3 x
  let s := r.1
  let no := fun (s : State) => { s with mod := { s.mod with accepted := s.mod.accepted.set k false } }
  match r.2 with
  | none => no s
  | some c =>
    let b := idBody c
    if bodyCode b ≠ codeCart ∨ idField b 5 1 ≠ 1 ∨ idField b 0 2 ≠ 3072 ∨ idField b 2 2 ≠ 800 ∨ 1024 < idField b 6 2 then
      no (s.refuseId (4 + k))
    else
      let y := tget s.carts k {}
      let es := y.toWrite.foldl (fun es w => markRow es w.1 w.2) (spareEntries b)
      let s := if y.toWrite = [] then s else s.updateId (4 + k) 3 c (b.take 32 ++ es.flatMap (fun e => bytesLE 8 e.toNat))
      let freeOf := fun (ch : Nat) => (es.filter (fun e => decide (fld e 63 62 = 0) && decide (fld e 61 58 = ch))).length
      let usedOf := fun (ch : Nat) => (es.filter (fun e => decide (fld e 63 62 = 1) && decide (fld e 61 58 = ch))).length
      { s with mod := { s.mod with accepted := s.mod.accepted.set k true },
               carts := tput s.carts k { y with toWrite := [], spareFree := (List.range 16).map (fun ch => (ch, freeOf ch)),
                                                spareRows := (List.range 16).map (fun ch => (ch, usedOf ch)) } }

/-- The cable memory at port code c: a reserved loss class is refused (Table 18.8, R598). -/
def State.provCableMem (s : State) (c : Nat) (x : IdMem) : State :=
  let r := s.readId (8 + c) 4 x
  match r.2 with
  | none => r.1
  | some b => if idField (idBody b) 2 1 ∈ ([1, 2, 3, 0xFF] : List Nat) then r.1 else r.1.refuseId (8 + c)

/-! ### Steps 1 to 4 of Table 16.2 -/

/-- Step 1: revision and stepping; the boot nonce, the storage key, the checkpoint intake key and the per-boot ephemeral
key. -/
def State.proveOne (s : State) : State :=
  let s := { s with mod := { s.mod with state := .proving, bscanLogged := false, causes := [], ids := [] },
                    prov := { s.prov with lastStep := 0, failures := 0, badPorts := [] } }
  if s.mod.boardRev ≠ 0x43 ∨ s.mod.stepping ≠ 0xB0 then (s.logErr { code := 0x110A, handling := .strike }).strike
  else
    let a := s.draw; let b := a.2.draw; let c := b.2.draw
    let s := c.2
    let nonce : Word64 := BitVec.ofNat 64 a.1.toNat
    let intake := scalarOf b.1
    let pub := ecPub intake
    { s with mod := { s.mod with nonce := nonce },
             keys := { s.keys with storage := some (hkdfKey [] Config.rootSecret lblStore), intake := some intake,
                                   vendor := some (scalarOf c.1) },
             fw := { s.fw with intakePub := pub, intakeSig := ensignSign (pub ++ bytesLE 8 s.mod.serial.toNat ++ bytesLE 8 nonce.toNat) } }

/-- Step 2: straps and identity memories. -/
def State.proveTwo (s : State) (i : ProveIn) : State :=
  let s := (s.provSlotMem i).provBankMem i
  let s := ([0, 1, 2, 3] : List Nat).foldl (fun s k => s.provCartMem k (i.cartMems.getD k {})) s
  let s := ([0, 1, 2, 3, 4, 5] : List Nat).foldl (fun s c => s.provCableMem c (i.cableMems.getD c {})) s
  if i.straps % 256 = 0 ∨ i.straps % 256 = 255 then
    ({ s with mgmt := { s.mgmt with silent := true } }).logErr { code := 0x1106, detail0 := i.straps % 256 }
  else s

/-- A saved slot that is not restored: its meters go to its release record, and its cartridge parts take fresh tags
(R507, R574). -/
def State.notRestored (s : State) (v : SlotSave) : State :=
  let x := s.slot v.p
  let rec_ : RelRec := { v := v.meters.v, snap := x.snap + 1, ref := s.mod.ref, tenant := bTenant v.burgee, grant := fld v.burgee 255 224 }
  let s := s.updSlot v.p (fun x => { x with release := rec_, persist := none })
  ((List.range 16).filter (fun k => bGranules v.burgee / 2 ^ k % 2 = 1)).foldl State.freshenCart s

/-- The slot of a saved pennant, Restored: keys back in the chips, a new stack key in the dies (R507). -/
def State.restoreSlot (s : State) (v : SlotSave) (sh : List ShardSave) (key : BitVec 512) : State :=
  let d := s.draw
  let s := d.2.loadKeys v.p d.1 key
  let s := s.updSlot v.p (fun x =>
    { grantNo := x.grantNo, persist := x.persist, release := v.release, burgee := putFld (putFld v.burgee 139 138 0) 137 136 3,
      stackKey := some d.1, cartKey := some key, meters := v.meters, scheds := v.scheds, seed := v.seed, measure := v.measure,
      seq := { step := v.step, mbPerStep := v.mbPerStep, versions := v.versions }, saved := sh,
      mirror := { state := if bMirrored v.burgee then .paired else .notMirrored } })
  let s := s.slotTo v.p .restored
  { s with carts := v.serials.foldl (fun t (k, _) => tput t k { (tget t k {}) with
      cleared := ((s.quarters v.p k).foldl sins (tget t k {}).cleared) }) s.carts }

/-- The outcome of one saved slot (R574, R604). -/
def State.provSlot (s : State) (v : SlotSave) (sh : List ShardSave) (shardsOk : Bool) : State :=
  if v.releasing then s.notRestored v
  else if ¬ shardsOk ∨ bRights v.burgee / 16 % 2 = 0 ∨ v.serials.any (fun (k, n) => !s.hasCart k || decide (s.cartSerial k ≠ n)) then
    s.notRestored v
  else
    match s.keys.storage.bind (fun k => v.persist.bind (fun w => keyUnwrap k 64 w)) with
    | some key => s.restoreSlot v sh (BitVec.ofNat 512 (leNat key))
    | none => (s.logErr { code := 0x3112, pennant := v.p, tenant := bTenant v.burgee }).notRestored v

/-- Step 3: the newest dip area that is not partial, section by section; the records of every newer area (R574, R593); the
flash spare map, cleared first where its reset is due (R450, R620). -/
def State.proveThree (s : State) (i : ProveIn) : State :=
  let s := if s.spare.resetPending then { s with spare := {}, dram := tmap (fun _ x => { x with spareRows := [], pc32 := 0 }) s.dram } else s
  let s := { s with doms := s.spare.retired.foldl (fun t g => tput t g { (tget t g {}) with state := .retired, mv := 0 }) s.doms,
                    mod := { s.mod with causes := if s.spare.lasting = [] then s.mod.causes else s.mod.causes ++ [0x8304] } }
  match s.dipAreas.find? (fun a => !a.partialRec) with
  | none => { s with log := { s.log with recs := (s.log.recs ++ s.dipAreas.flatMap (fun a => a.log.recs)).take 1024 } }
  | some a =>
    let newer := (s.dipAreas.takeWhile (fun b => b.partialRec)).flatMap (fun b => b.log.recs)
    let ok : Nat → Bool := fun n => a.marks.getD n false && i.dipOk.getD n true
    let s := ([0, 1, 2, 3, 4] : List Nat).foldl (fun s n => if ok n then s else s.logErr { code := 0x2051, detail0 := n }) s
    let s := { s with
      dip := { s.dip with sections := bitsOf ((List.range 5).map ok) },
      log := { s.log with recs := (s.log.recs ++ newer ++ (if ok 1 then a.log.recs else [])).take 1024 },
      ring := { s.ring with epoch := if ok 0 then a.epoch else s.ring.epoch } }
    if ok 3 then
      let s := { s with slots := s.slots.mapIdx (fun p x => { x with release := a.releases.getD p x.release }) }
      a.slots.foldl (fun s v => s.provSlot v (a.shards.filter (fun h => decide (h.p = v.p))) (ok 4)) s
    else s

/-- Step 4: the bank measurement (R576, R577). Energies in units of 6.25 femtojoules: E = num / (16 · 10^13) J. -/
def State.proveFour (s : State) (i : ProveIn) : State :=
  let uF := 2 * i.fallUs / 5
  let vf := 120000 + 3 * i.stepMv
  let num := 2 * i.fallUs * ((4 * i.vc) ^ 2 - vf ^ 2)
  let bad := decide (2 * i.fallUs < 20000) || decide (60000 < 2 * i.fallUs) || decide (1000 < i.stepMv)
    || s.bank.late || !i.bankCharged || s.bank.refused
  let out := if bad then 4 else if 640 * 10 ^ 12 ≤ num then 1 else if 400 * 10 ^ 12 ≤ num then 2 else 3
  let s := { s with bank := { s.bank with uF := uF, mOhm := i.stepMv / 2, mJ := num / (160 * 10 ^ 9), outcome := out },
                    power := { s.power with bankMv := i.vc } }
  if out = 1 then s
  else
    let c := if bad then 0x2052 else 0x2053
    (s.logErr { code := c, handling := .halfMast }).halfMast c

/-! ### Steps 5 to 9: tests (R590, R594, Table 16.3) -/

/-- A test failure is logged as 0x1108 with its site and counted. -/
def State.failRec (s : State) (h : Handling) (k : SiteKind) (site : Nat) : State :=
  ({ s with prov := { s.prov with failures := s.prov.failures + 1 } }).logErr { code := 0x1108, handling := h, siteKind := k, site := site }

/-- A failing tile: the spare takes its place where it is free, else the group retires. -/
def State.tileFails (s : State) (q g t : Nat) : State :=
  let gn := groupNum q g
  if gn ∈ s.spare.retired ∨ tget? s.spare.spares gn = some t then s
  else if t < 19 ∧ tget? s.spare.spares gn = none then
    let s := s.failRec .event .tile (siteTile q g t)
    ({ s with spare := { s.spare with spares := tput s.spare.spares gn t } }).logErr
      { code := 0x8303, siteKind := .tile, site := siteTile q g t, detail0 := 19, detail1 := t }
  else (s.failRec .halfMast .tile (siteTile q g t)).retireGroup gn 0x1108

/-- A failing word of a stack under test: its row is spared, then its pseudo-channel, then its half-stack retires. -/
def State.stackFails (s : State) (n pc bank : Nat) : State :=
  let u := pc * 2 ^ 24 + bank * 2 ^ 18
  let x := s.stack n
  let s := s.failRec .event .stack (siteStack n pc bank)
  if tget x.spareRows (x.bankKey u) 0 < 32 then s.updStack n (fun x => { x with spareRows := tadd x.spareRows (x.bankKey u) 1 })
  else if x.pc32 = 0 then s.updStack n (fun x => { x with pc32 := pc + 1 })
  else s.retireHalf n u

/-- Ports that failed in this Proving: placements that need them are refused. -/
def State.badPort (s : State) (l : List Nat) : State := { s with prov := { s.prov with badPorts := s.prov.badPorts ++ l } }

/-- What a step's test finds. -/
def State.proveFail (s : State) (f : ProveFail) : State :=
  if s.mod.state ≠ .proving then s
  else match f with
    | .tile q g t => s.tileFails q g t
    | .fabric q =>
      (([4 * q, 4 * q + 1, 4 * q + 2, 4 * q + 3] : List Nat).foldl State.withdraw (s.failRec .halfMast .fabric (siteNum q))).halfMast 0x1108
    | .stackInterface n =>
      (([2 * n, 2 * n + 1] : List Nat).foldl State.withdraw (s.failRec .halfMast .domain (siteNum (68 + n)))).halfMast 0x1108
    | .halyardGroup n =>
      if n = 0 then (s.failRec .strike .domain (siteNum 76)).strike else ((s.badPort [2, 3, 4]).failRec .halfMast .domain (siteNum 77)).halfMast 0x510E
    | .tierLinkGroup => (s.failRec .strike .domain (siteNum 78)).strike
    | .controlDomain => (s.failRec .strike .domain (siteNum 79)).strike
    | .stackWord n pc bank _ => s.stackFails n pc bank
    | .cartridgeWord k ch _ => (s.failRec .event .cartridge (siteNum k)).cartRow k (ch * 2 ^ 30)
    | .chip n => (s.failRec .halfMast .chip (siteNum n)).failChip n 0x1108
    | .loopback k depth =>
      let h : Handling := if k < 2 then .strike else if k < 5 then .halfMast else .event
      let s := s.logErr { code := 0x9102, handling := h, siteKind := .port, site := siteNum k, detail0 := k, detail1 := depth }
      let s := s.badPort [k]
      if k < 2 then s.strike else if k < 5 then s.halfMast 0x510E else s

/-- The failures of one step, in order. -/
def State.proveFails (s : State) (i : ProveIn) (n : Nat) : State :=
  (i.fails.filter (fun f => decide (f.1 = n))).foldl (fun s f => s.proveFail f.2) s

/-- The self-test report of steps 5 and 7 (R619): failed tile groups, chips and fabrics, and the reference count at the end. -/
def State.selfReport (s : State) (i : ProveIn) : State :=
  let found := fun (n : Nat) => (i.fails.filter (fun f => decide (f.1 = n))).map (·.2)
  let gs := (found 5).filterMap (fun f => match f with | .tile q g _ => some (groupNum q g) | _ => none)
  let fs := (found 5).filterMap (fun f => match f with | .fabric q => some q | _ => none)
  let cs := (found 7).filterMap (fun f => match f with | .chip n => some (4 + n) | _ => none)
  let mask := fun (l : List Nat) => (l.dedup.map (fun n => 2 ^ n)).sum
  { s with test := { s.test with selfGroups := mask gs, selfChips := mask (fs ++ cs), selfStacks := 0, selfRef := s.mod.ref } }

/-- The calibration of one oscillator in step 5; a retired group has none. A fabric stands at its setpoint of Table 15.4;
Table 16.2 names no setpoint for a tile group under test, and the model takes 720 mV, or the core voltage target where that
is lower: DESIGN CHOICE, log 36. -/
def State.provCal (s : State) (i : ProveIn) (n : Nat) : State :=
  if s.mod.state ≠ .proving ∨ (s.dom n).state = .retired then s
  else
    let c := i.oscCounts.getD n 0
    let bad := !rateOk c
    let s := s.updOsc n (fun _ => { rate := if bad then 0 else rateOf c, count := 1,
                                    mv := if n < 64 then min 720 s.power.targetMv else (s.dom n).mv, junction := i.oscTemps.getD n 0,
                                    failed := bad, valid := !bad })
    if bad then
      let s := s.logErr { code := 0x2042, handling := .halfMast, siteKind := if n < 64 then .group else .fabric,
                          site := siteNum (if n < 64 then n else n - 64), detail0 := rateOf c }
      if n < 64 then s.retireGroup n 0x2042 else s.fabricFailed (n - 64)
    else s

/-- Whether Proving takes the fast memory tests (R595). -/
def State.fastPath (s : State) : Bool :=
  !s.prov.force && decide (s.prov.since < s.prov.interval)
    && decide (s.dip.cause = .brownout ∨ s.dip.cause = .overvoltage ∨ s.dip.cause = .reset)
    && (match s.dipAreas with | a :: _ => a.marks.all id && !a.partialRec | [] => false)
    && s.mod.cleanSince
    && decide (s.prov.serials = bodySerial (tget s.mod.ids 1 {}).contents ::
        (([0, 1, 2, 3] : List Nat).filter s.hasCart).map s.cartSerial)

/-- Step 8: the transport key and the module key; every fresh tag is set but those of Restored slots' parts. -/
def State.proveEight (s : State) : State :=
  let a := s.draw; let b := a.2.draw
  let s := b.2.loadKeys 16 b.1 b.1
  { s with keys := { s.keys with transport := some (BitVec.ofNat 256 a.1.toNat), module := some b.1 } }

/-- Counts a completed step. -/
def State.stepDone (s : State) (n : Nat) : State :=
  if s.mod.state = .proving then { s with prov := { s.prov with lastStep := n } } else s

/-- A step of Proving, which a Strike has not ended. -/
def State.proveStep (s : State) (n : Nat) (f : State → State) : State :=
  if s.mod.state = .proving then (f s).stepDone n else s

/-- Proving complete: the report, the settings of R595, and Joining. -/
def State.proved (s : State) (fast : Bool) : State :=
  if s.mod.state ≠ .proving then s
  else
    let ser := bodySerial (tget s.mod.ids 1 {}).contents :: (([0, 1, 2, 3] : List Nat).filter s.hasCart).map s.cartSerial
    State.enterJoining { s with
      prov := if fast then { s.prov with path := 1, since := s.prov.since + 1, refEnd := s.mod.ref }
              else { s.prov with path := 0, since := 0, force := false, serials := ser, refEnd := s.mod.ref },
      mod := { s.mod with state := .joining, cleanSince := if fast then s.mod.cleanSince else true } }

/-- Whether Proving can begin: Table 15.4 is complete and a slot has been accepted (R589). -/
def State.canProve (s : State) : Bool := decide (s.mod.state = .dark) && s.power.railsUp && !s.mod.boundaryScan

/-- PROVING: the steps of Table 16.2 in order. -/
def State.prove (s : State) (i : ProveIn) : State :=
  if ¬ s.canProve then s
  else
    let s := s.proveOne.stepDone 1
    let s := s.proveStep 2 (fun s => s.proveTwo i)
    let fast := s.fastPath
    let s := s.proveStep 3 (fun s => s.proveThree i)
    let s := s.proveStep 4 (fun s => s.proveFour i)
    let s := s.proveStep 5 (fun s => (List.range 68).foldl (fun s n => s.provCal i n) ((s.proveFails i 5).selfReport i))
    let s := s.proveStep 6 (fun s => s.proveFails i 6)
    let s := s.proveStep 7 (fun s => (s.proveFails i 7).selfReport i)
    let s := s.proveStep 8 State.proveEight
    let s := s.proveStep 9 (fun s => s.proveFails i 9)
    let s := if s.mod.state = .proving ∧ s.strikeLimit then s.strike else s
    s.proved fast

def execProving (i : ProveIn) (s : State) : Res := .next (s.prove i)

/-- PROVING_STEP_TIMEOUT: a step exceeds its bound: 0x1109 with its number, and the module Strikes (R591). -/
def State.proveTimeout (s : State) (n : Nat) : State :=
  if s.canProve ∨ s.mod.state = .proving then
    let s := { s with mod := { s.mod with state := .proving }, prov := { s.prov with lastStep := n - 1 } }
    (s.logErr { code := 0x1109, handling := .strike, detail0 := n }).strike
  else s
def execProvingStepTimeout (n : Nat) (s : State) : Res := .next (s.proveTimeout n)

/-! ### Cartridges while powered (R8, R599) -/

/-- CARTRIDGE_REMOVED: 0x1107, and the chip of its socket is handled as failed. -/
def execCartridgeRemoved (k : Nat) (s : State) : Res :=
  .next (if 4 ≤ k ∨ s.mod.state = .dark ∨ (tget s.mod.ids (4 + k) {}).status = 0 then s
    else
      let s := { s with mod := { s.mod with accepted := s.mod.accepted.set k false } }
      (s.logErr { code := 0x1107, handling := .halfMast, siteKind := .cartridge, site := siteNum k }).failChip k 0x1107)

/-- CARTRIDGE_INSERTED: ignored until the next Proving, which reads its identity memory. -/
def execCartridgeInserted (_k : Nat) (s : State) : Res := .next s

end Sys2Proof.Machine
end

