-- ==== Sys2Proof/Machine/Test.lean ====
section
/-! DEFINITION. Test mode, loopbacks, the spare-map reset, the selected stall tile and the clearing of the log
(17 R608 to R625, 06 R224, 12 R481). -/

namespace Sys2Proof.Machine

/-- TEST_MODE: 1 enters test mode where R608 allows it; any other write is refused with 0x9101. -/
def State.writeTestMode (s : State) (v : Nat) : State :=
  if 1 < v then s.answer .valueRefused
  else if v = 0 ∨ s.mod.state ≠ .joining ∨ s.ring.permit ∨ s.slots.any (fun x => decide (x.state ≠ .free)) then s.refuse 16 0x9101
  else if s.test.mode then s.answer .ok
  else
    let s := if s.ring.bypass = 1 then s.joinFail else s
    (({ s with test := { s.test with mode := true } }).logErr { code := 0x9104 }).answer .ok
def execTestMode (via : Via) (v : Nat) (s : State) : Res := .next (s.guard via 0x9004 1 (fun s => s.writeTestMode v))

/-- FLY_LANE_DISABLED: in test mode only. -/
def State.writeFlyOff (s : State) (v : Nat) : State :=
  if 1 < v then s.answer .valueRefused
  else if ¬ s.test.mode then s.refuse 16 0x9101
  else ({ s with test := { s.test with flyOff := decide (v = 1) } }).answer .ok
def execFlyLaneDisabled (via : Via) (v : Nat) (s : State) : Res := .next (s.guard via 0x9004 2 (fun s => s.writeFlyOff v))

/-- DEEP_MODE_TEST_ENABLE: while the module is Proving or in test mode (R224). -/
def State.writeDeep (s : State) (v : Nat) : State :=
  if 1 < v then s.answer .valueRefused
  else if s.mod.state ≠ .proving ∧ ¬ s.test.mode then s.refuse 16 0x6146
  else ({ s with test := { s.test with deepTest := decide (v = 1) } }).answer .ok
def execDeepModeTestEnable (via : Via) (v : Nat) (s : State) : Res := .next (s.guard via 0x6060 2 (fun s => s.writeDeep v))

/-! ### Loopbacks (R611 to R616) -/

/-- Depths an interface supports (Table 17.3). -/
def loopDepths (k : Nat) : List Nat :=
  if k < 2 then [0, 1, 2, 3, 4, 5] else if k < 6 then [0, 1, 2, 3, 4] else if k = 6 then [0, 1, 2] else if k = 7 then [0, 2]
  else if k < 12 then [0, 1, 2, 4] else if k < 20 then [0, 2, 4] else []
/-- Those permitted in service by a start of the module's own. -/
def loopService (k : Nat) : List Nat := if k < 2 then [4, 5] else if k < 6 then [4] else []

/-- Whether the module is in service: Joining outside test mode, Hoisted or Half-mast. -/
def State.inService (s : State) : Bool := s.linksRun && !s.test.mode

/-- Whether a start at a depth is permitted now; L4 and L5 of a port need its link (Table 17.3). -/
def State.loopAllowed (s : State) (k d : Nat) : Bool :=
  decide (d ∈ loopDepths k) && !(tget s.test.loops k {}).run && (s.test.mode || (s.inService && decide (d ∈ loopService k)))
    && (decide (6 ≤ k) || decide (d < 4) || decide ((s.port k).state = .up))

/-- The record of a loopback object. -/
def State.updLoop (s : State) (k : Nat) (f : Loopback → Loopback) : State :=
  { s with test := { s.test with loops := tput s.test.loops k (f (tget s.test.loops k {})) } }

/-- LOOPBACK_START: a run begins, or the start is refused. In service the port is then as in a retrain that keeps its lanes
locked (R614). Test mode is the maintainer's alone. -/
def State.writeLoopStart (s : State) (via : Via) (k v : Nat) : State :=
  if 1 < v then s.answer .valueRefused
  else if v = 0 then s.answer .ok
  else if s.test.mode ∧ via.who ≠ .maint then s.answer .accessDenied
  else if ¬ s.loopAllowed k (tget s.test.loops k {}).depth then (s.updLoop k (fun l => { l with status := 4 })).refuse 16 0x9101
  else
    let s := s.updLoop k (fun l => { l with status := 1, run := true, serv := s.inService, units := 0, errors := 0, power := 0 })
    (if s.inService then s.updPort k (fun x => { x with state := .retraining, step := 3, run := 0, tries := 1 }) else s).answer .ok
def execLoopbackStart (via : Via) (k : Nat) (v : Nat) (s : State) : Res :=
  .next (s.guard via (ixOf 0x9010 20 k) 3 (fun s => s.writeLoopStart via k v))

/-- Whether a run has passed (R613): every word unchanged, and on Halyard below L0 the symbols corrected below one in 10^6. -/
def loopPassed (k d : Nat) (x : LoopResult) : Bool :=
  decide (x.bad = 0) && (decide (6 ≤ k) || decide (d = 0) || decide (x.corrected * 1000000 < x.units))

/-- LOOPBACK_END: the result stands in the object; a failed run logs 0x9102. A port in service resumes at step 3 of
Table 11.7. -/
def State.loopEnd (s : State) (k : Nat) (x : LoopResult) : State :=
  let l := tget s.test.loops k {}
  if ¬ l.run then s
  else
    let ok := loopPassed k l.depth x
    let s := s.updLoop k (fun l => { l with
      run := false, serv := false, status := if ok then 2 else 3, units := x.units,
      errors := if k < 6 then x.corrected + 1000 * x.bad else x.bad, power := if k < 6 ∧ 3 ≤ l.depth then x.power else 0 })
    let s := if l.serv then s.updPort k (fun y => { y with step := 3 }) else s
    if ok then s
    else s.logErr { code := 0x9102, siteKind := if k < 6 then .port else .module, site := if k < 6 then siteNum k else 0,
                    detail0 := k, detail1 := l.depth }
def execLoopbackEnd (k : Nat) (res : LoopResult) (s : State) : Res := .next (s.loopEnd k res)

/-! ### Spare-map reset, stall tile, log (R620, R625, R481) -/

/-- SPARE_MAP_RESET: in test mode, the spares and retirements in flash are cleared at the next Proving, which is full. -/
def State.writeSpareReset (s : State) (v : Nat) : State :=
  if 1 < v then s.answer .valueRefused
  else if ¬ s.test.mode then s.refuse 16 0x9101
  else if v = 0 then s.answer .ok
  else (({ s with spare := { s.spare with resetPending := true }, prov := { s.prov with force := true } }).logErr
    { code := 0x9106 }).answer .ok
def execSpareMapReset (via : Via) (v : Nat) (s : State) : Res := .next (s.guard via 0x9040 1 (fun s => s.writeSpareReset v))

/-- STALL_TILE_SELECT: the tile counted in 0xA250, whose counts start anew; a number of no logical tile is refused. -/
def State.writeStallTile (s : State) (v : Nat) : State :=
  if 2048 ≤ v ∨ 19 ≤ v % 32 then s.answer .valueRefused
  else ({ s with test := { s.test with tileSel := v, tileStall := {} } }).answer .ok
def execStallTileSelect (via : Via) (v : Nat) (s : State) : Res := .next (s.guard via 0x9060 1 (fun s => s.writeStallTile v))

/-- LOG_CLEAR: the log is empty; RECORD_NO runs on. -/
def State.writeLogClear (s : State) (v : Nat) : State :=
  if 1 < v then s.answer .valueRefused
  else (if v = 1 then { s with log := { s.log with recs := [] } } else s).answer .ok
def execLogClear (via : Via) (v : Nat) (s : State) : Res := .next (s.guard via 0x8000 4 (fun s => s.writeLogClear v))

end Sys2Proof.Machine
end

