-- ==== Sys2Proof/Machine/Values.lean ====
section
/-! DEFINITION. What every subindex of the signal book reads, and the writes of its settings (14 R524, R527 and the object
tables of each chapter). -/

namespace Sys2Proof.Machine

/-! ### Numbers of the enumerated types -/

def modStateNum (x : ModState) : Nat :=
  match x with
  | .dark => 0 | .proving => 1 | .joining => 2 | .hoisted => 3 | .halfMast => 4 | .dipping => 5 | .struck => 6
def domStateNum (x : DomState) : Nat :=
  match x with
  | .off => 0 | .on => 1 | .poweringOn => 2 | .retired => 3
def linkStateNum (x : LinkState) : Nat :=
  match x with
  | .noLight => 0 | .training => 1 | .up => 2 | .retraining => 3 | .closed => 4 | .down => 5
def mirrorStateNum (x : MirrorState) : Nat :=
  match x with
  | .notMirrored => 0 | .paired => 1 | .lone => 2 | .stale => 3 | .reloading => 4 | .rollingBack => 5
def dipCauseNum (x : DipCause) : Nat :=
  match x with
  | .none => 0 | .brownout => 1 | .overvoltage => 2 | .reset => 3 | .strike => 4

/-- An I16. -/
def i16 (x : Int) : Nat := (x % 65536).toNat
def bitmap (l : List Nat) : Nat := (l.dedup.map (fun n => 2 ^ n)).sum

/-- Active tiles (R33): 19 fewer for each retired group. -/
def State.activeTiles (s : State) : Nat := 1216 - 19 * s.spare.retired.length

/-- A record of the error log (Table 12.12). -/
def recWord (r : LogRec) : Nat :=
  let b := r.body
  r.no % 2 ^ 32 * 2 ^ 480 + b.code % 2 ^ 16 * 2 ^ 464 + handlingNum b.handling * 2 ^ 460 + b2n b.transient * 2 ^ 459
    + b.attempt % 4 * 2 ^ 457 + passKindNum b.passKind * 2 ^ 454 + b.pennant % 32 * 2 ^ 449 + b.tenant % 2 ^ 24 * 2 ^ 425
    + siteKindNum b.siteKind * 2 ^ 421 + b.site % 2 ^ 22 * 2 ^ 399 + b.block % 2 ^ 16 * 2 ^ 383 + b.mb % 2 ^ 16 * 2 ^ 367
    + b.step % 2 ^ 64 * 2 ^ 303 + b.detail0 % 2 ^ 64 * 2 ^ 192 + b.detail1 % 2 ^ 64 * 2 ^ 128 + r.ref % 2 ^ 64 * 2 ^ 64

/-! ### Values (one function a range) -/

/-- The n-th of a list of values, subindex 1 first. -/
def nth1 (l : List Nat) (sub : Nat) : Nat := l.getD (sub - 1) 0

/-- 0x1000 to 0x1FFF. -/
def State.num1 (s : State) (ix sub : Nat) : Nat :=
  match ix with
  | 0x1000 => nth1 [0, s.mod.serial.toNat, s.mod.boardRev, s.mod.stepping, s.mod.fwVersion, s.activeTiles, s.pins.slotId] sub
  | 0x1010 => nth1 [0x0301, 0x0200, 0x0102, 0x0400, 0x0502, 0x0203, Config.dictionary s.mod.fwVersion] sub
  | 0x1020 => nth1 [modStateNum s.mod.state, s.mod.nonce.toNat] sub
  | 0x1030 => nth1 s.mgmt.ctrs sub
  | _ =>
    let x := tget s.mod.ids (ix - 0x1100) {}
    nth1 [x.status, x.copy] sub

/-- 0x2000 to 0x20FF. -/
def State.num20 (s : State) (ix sub : Nat) : Nat :=
  let p := s.power
  match ix with
  | 0x2000 => nth1 [p.capW, p.targetMv] sub
  | 0x2001 => nth1 [p.vin, p.inW, p.dieW, i16 p.hottest, i16 p.inlet, i16 p.outlet, p.bankMv, p.ride] sub
  | _ => nth1 [s.mod.ref] sub

/-- 0x2100 to 0x2FFF. -/
def State.num21 (s : State) (ix sub : Nat) : Nat :=
  if ix < 0x2200 then
    let n := ix - 0x2100
    let x := tget s.oscs n {}
    nth1 [x.rate, x.count, x.mv, i16 x.junction,
      8 * b2n x.failed + 4 * b2n x.inWindow + 2 * b2n (s.regionHeld n) + b2n x.valid] sub
  else if ix < 0x2800 then
    let n := ix - 0x2200
    let d := s.dom n
    nth1 [domStateNum d.state, d.mv, 8 * b2n d.critical + 4 * b2n (s.regionHeld n) + 2 * b2n d.cap + b2n d.thermal, i16 d.junction, d.mw] sub
  else if ix = 0x2800 then
    let d := s.dip
    nth1 [d.dips, dipCauseNum d.cause, d.sections, d.energy, d.duration, d.bankEnd] sub
  else
    let b := s.bank
    nth1 [b.uF, b.mOhm, b.mJ, b.outcome, b.cycles] sub

/-- 0x3000 to 0x3FFF. -/
def State.num3 (s : State) (ix sub : Nat) : Nat :=
  if ix < 0x3010 then
    let x := s.slot (ix - 0x3000)
    let g := x.staged
    nth1 [slotStateNum x.state, g.tenant, g.granules, g.rights, b2n g.mirrored, g.span, g.vcs, g.bortis, 0, x.last] sub
  else if ix = 0x3800 then nth1 [s.fw.active, s.fw.fusedMin, s.fw.inactive] sub
  else if ix < 0x3830 then (s.slot (ix - 0x3820)).attest.done
  else if ix = 0x3830 then s.modAttest.done
  else if ix = 0x3840 then b2n s.mgmt.chassisKey.isSome
  else b2n (s.slot (ix - 0x3850)).ckptKey.isSome

/-- Cache counters with `more` after them. -/
def CacheCtrs.list (c : CacheCtrs) : List Nat := [c.hits, c.misses, c.notInstalled, c.corrected, c.refetched]

/-- Parameters a chip owns over all pennants (Table 10.9a). -/
def State.ownedOn (s : State) (n : Nat) : Nat :=
  (s.slots.map (fun x => ((tget x.chips n {}).shards.map (fun h => dLen h.desc)).sum)).sum

/-- 0x4000 to 0x4FFF. -/
def State.num4 (s : State) (ix sub : Nat) : Nat :=
  if ix = 0x4000 then nth1 [s.memSet.stackScrub, s.memSet.cartScrub, s.memSet.idle, b2n s.memSet.offAllowed] sub
  else if ix < 0x4020 then
    let x := s.stack (ix - 0x4010)
    nth1 [x.corrected, x.transients, x.poisoned, x.poisonReads, x.passes, x.overruns, (x.spareRows.map (·.2)).sum, x.pc32, x.wakes] sub
  else if ix < 0x4030 then nth1 (tget s.caches (ix - 0x4020) {}).ctrs.list sub
  else if ix < 0x4040 then
    let p := ix - 0x4030
    nth1 ((s.slot p).cacheC.list ++ [bitmap ((List.range 4).flatMap (fun q => (s.ways q p).map (fun w => 16 * q + w)))]) sub
  else if ix < 0x4820 then
    let k := ix - 0x4810
    let x := tget s.carts k {}
    if s.hasCart k then nth1 [x.corrected, x.poisoned, x.passes, (x.spareRows.map (·.2)).sum] sub else 0
  else
    let c := tget s.chips (ix - 0x4820) {}
    nth1 [c.state, s.ownedOn (ix - 0x4820), c.applied, c.high] sub

/-- 0x5000 to 0x5FFF. -/
def State.num5 (s : State) (ix sub : Nat) : Nat :=
  if ix = 0x5000 then nth1 [s.ring.ring, s.ring.pos, s.ring.bypass, s.ring.joinHold, b2n s.ring.permit, s.ring.epoch] sub
  else if ix < 0x5020 then
    let x := s.port (ix - 0x5010)
    nth1 [linkStateNum x.state, x.version, x.features, x.peerRing * 256 + x.peerPos, x.peerSerial.toNat] sub
  else if ix = 0x5020 then nth1 (s.link.credits ++ s.link.weights ++ [s.link.hold]) sub
  else
    let g := (s.slot (ix - 0x5040)).ingest
    let d := g.declared.getD 0
    nth1 [cadence d, frameBytes d, fld d 143 140, g.committed, g.discarded] sub

/-- 0x6000 to 0x6FFF. -/
def State.num6 (s : State) (ix sub : Nat) : Nat :=
  let x := s.slot (ix % 16)
  if ix = 0x6060 then nth1 [s.test.grantPeriod, b2n s.test.deepTest] sub
  else if ix < 0x6200 then nth1 [b2n x.policy.conflictHalt, x.policy.hold, x.policy.answer] sub
  else if ix < 0x6240 then
    let q := x.seq
    nth1 [q.newest, q.mbPerStep, q.pages, q.high, q.full, q.fall, q.recomputes, q.permits, q.vwaits] sub
  else if ix < 0x6300 then
    let e := x.seed
    nth1 [e.inForce.toNat, e.staged.toNat, 0, b2n e.pending, e.earlier.toNat, e.earlierLast] sub
  else if ix < 0x6400 then nth1 [x.stage, x.replica, x.stages, x.replicas, x.thin, x.satLimit] sub
  else
    match tget? s.queues (ix - 0x6400) with
    | some q => nth1 [q.bytes, q.high, q.spilled, q.partials] sub
    | none => 0

/-- 0x7000 to 0x7FFF; a schedule reads its staged values, which are those in force where no commit is pending. -/
def State.num7 (s : State) (ix sub : Nat) : Nat :=
  if ix = 0x7080 then s.exTimeout
  else
    let c := (s.slot ((ix - 0x7000) / 4)).scheds.getD (ix % 4) {}
    let x := c.staged
    nth1 [x.peak.toNat, x.warm, x.warmSteps, x.decay, x.decaySteps, x.rho.toNat, x.gamma.toNat, x.mult, 0, b2n c.pending] sub

/-- 0x8000 to 0x8FFF. -/
def State.num8 (s : State) (ix sub : Nat) : Nat :=
  if ix = 0x8000 then nth1 [s.log.recs.length, s.log.newest, s.log.lost] sub
  else if ix = 0x8010 then nth1 [s.recov.digestWait, s.recov.reloadRate, s.recov.strikeLimit, s.recov.strikeWindow] sub
  else if ix < 0x8040 then
    let m := (s.slot (ix - 0x8020)).mirror
    nth1 [mirrorStateNum m.state, m.partner.toNat, m.restart, m.target, 0, m.source] sub
  else if ix = 0x8040 then
    nth1 [bitmap (s.spare.spares.map (·.1)), bitmap s.spare.retired, bitmap s.spare.withdrawn, bitmap s.spare.chipsFailed] sub
  else nth1 (tget s.fly (ix - 0x8400) [0, 0, 0]) sub

/-- 0x9000 to 0x9FFF. -/
def State.num9 (s : State) (ix sub : Nat) : Nat :=
  match ix with
  | 0x9000 => nth1 [b2n s.prov.force, s.prov.interval, s.prov.since] sub
  | 0x9004 => nth1 [b2n s.test.mode, b2n s.test.flyOff] sub
  | 0x9008 => nth1 [s.prov.path, s.prov.lastStep, s.prov.failures, s.prov.refEnd] sub
  | 0x9030 => nth1 [s.test.selfGroups, s.test.selfChips, s.test.selfStacks, s.test.selfRef] sub
  | 0x9060 => s.test.tileSel
  | _ =>
    let l := tget s.test.loops (ix - 0x9010) {}
    nth1 [l.depth, l.duration, 0, l.status, l.units, l.errors, i16 l.power] sub

/-- A stall object (Table 17.8). -/
def Stall.num (x : Stall) (sub : Nat) : Nat := if sub = 1 then x.elapsed else tget x.cats sub 0

/-- 0xA000 to 0xAFFF. -/
def State.numA (s : State) (ix sub : Nat) : Nat :=
  let x := s.slot (ix % 16)
  if ix < 0xA010 then nth1 (x.latched.v ++ [0, x.snap, x.snapRef]) sub
  else if ix < 0xA040 then
    let r := x.release
    nth1 (r.v ++ [0, r.snap, r.ref, r.tenant, r.grant]) sub
  else if ix = 0xA040 then nth1 s.energy sub
  else if ix < 0xA140 then
    let g := s.groupC (ix - 0xA100)
    nth1 [g.sched, g.unsched, g.refusals, g.expiries, g.misuse] sub
  else if ix < 0xA150 then
    let t := tget s.pools (ix - 0xA140) {}
    nth1 [t.inUse, t.peak, t.poolWaits, t.bankWaits, t.atCap] sub
  else if ix < 0xA160 then
    let c := x.str
    nth1 [c.misses, c.refetches, c.consumed, c.partials, c.withdrawals, c.reserved, c.late] sub
  else if ix < 0xA170 then nth1 [x.red.c1, x.red.c2, x.red.c3, x.red.c4, x.red.c5, x.red.c6] sub
  else if ix < 0xA180 then nth1 [x.upd.c1, x.upd.c2, x.upd.c3, x.upd.c4, x.upd.c5, x.upd.c6] sub
  else if ix < 0xA190 then nth1 (s.port (ix - 0xA180)).ctrs sub
  else if ix < 0xA200 then
    let c := x.recC
    nth1 [c.retries, c.transients, c.compared, c.mismatches, c.rollbacks, c.lone] sub
  else if ix < 0xA240 then (tget s.test.groupStall (ix - 0xA200) {}).num sub
  else if ix < 0xA250 then (tget s.test.queueStall (ix - 0xA240) {}).num sub
  else s.test.tileStall.num sub

/-- The number a subindex of a fixed-length type holds. -/
def State.num (s : State) (ix sub : Nat) : Nat :=
  match ix / 4096 with
  | 1 => s.num1 ix sub
  | 2 => if ix < 0x2100 then s.num20 ix sub else s.num21 ix sub
  | 3 => s.num3 ix sub
  | 4 => s.num4 ix sub
  | 5 => s.num5 ix sub
  | 6 => s.num6 ix sub
  | 7 => s.num7 ix sub
  | 8 => s.num8 ix sub
  | 9 => s.num9 ix sub
  | 10 => s.numA ix sub
  | _ => 0

/-- The octets of a STR, OCT or BLOB. -/
def State.octets (s : State) (ix sub : Nat) : List Byte :=
  if ix = 0x1000 then s.mod.ordering
  else if ix < 0x2000 then (tget s.mod.ids (ix - 0x1100) {}).contents
  else if ix < 0x3100 then bytesLE 32 (s.slot (ix - 0x3040)).burgee.toNat
  else if ix = 0x3810 then
    (match sub with
     | 1 => Config.ensignChain
     | 2 => ensignPub
     | 3 => hashOctets (sha384 ensignPub)
     | 4 => s.fw.intakePub
     | _ => s.fw.intakeSig)
  else if ix < 0x3830 then (s.slot (ix - 0x3820)).attest.report
  else if ix = 0x3830 then s.modAttest.report
  else if ix = 0xF000 then (match s.keys.vendor with | some k => ecPub k | none => [])
  else match s.recordAt (ix - 0x8800) with
    | some r => bytesLE 64 (recWord r)
    | none => []

/-- An octet string made up to the length its entry states. -/
def fitTo (n : Nat) (l : List Byte) : List Byte := (l ++ List.replicate n 0#8).take n

/-- The value of a subindex as a read returns it. -/
def State.value (s : State) (ix sub : Nat) (f : Family) (e : SubEnt) : List Byte :=
  if f.record ∧ sub = 0 then bytesLE 1 e.dflt
  else if typeSize e.ty = 8 then bytesLE 8 (min (s.num ix sub) (2 ^ 64 - 1))                -- the U64 counters do not wrap
  else if typeSize e.ty ≠ 0 then bytesLE (typeSize e.ty) (s.num ix sub)
  else if e.ty = tOct then fitTo e.len (s.octets ix sub)
  else s.octets ix sub

/-! ### Settings written whole (R529, R532) -/

/-- The credits of each port keep to its 16,384 units (R431). -/
def creditsFit (l : List Nat) : Bool :=
  (List.range 6).all (fun k => decide (((List.range 8).map (fun v => if carries k v then l.getD v 0 else 0)).sum ≤ 16384))

/-- Whether a value lies in a setting's range (R69, R243, R208, R318, R382, R389, R431, R482, R581, R606, Table 17.4): a
timeout below 16 is refused, and 0 with it where no rule lets 0 disable it. -/
def State.inRange (s : State) (ix sub v : Nat) : Bool :=
  let btw := fun (a b : Nat) => decide (a ≤ v) && decide (v ≤ b)
  if ix = 0x2000 then (if sub = 1 then btw 1000 2450 else btw 600 850)
  else if ix = 0x4000 then (if sub ≤ 2 then btw 1 168 else if sub = 3 then btw 1000 10000000 else true)
  else if ix = 0x5020 then
    (if sub ≤ 8 then creditsFit (s.link.credits.set (sub - 1) v) else if sub ≤ 0x10 then btw 1 32 else btw 20 10000)
  else if ix = 0x6060 then btw 2 64
  else if 0x6180 ≤ ix ∧ ix < 0x6190 then decide (sub = 1) || decide (16 ≤ v)
  else if 0x7000 ≤ ix ∧ ix < 0x7040 then schedFieldOk sub v
  else if ix = 0x7080 then btw 100 600000
  else if ix = 0x8010 then (if sub = 1 then decide (16 ≤ v) else if sub = 2 then btw 20 157 else if sub = 3 then btw 1 16 else btw 1 8760)
  else if ix = 0x9000 then decide (sub = 1) || btw 1 1000
  else if 0x9010 ≤ ix ∧ ix < 0x9024 then (if sub = 1 then btw 0 5 else btw 100 60000000)
  else true

/-- Stores a field of the staged burgee. -/
def Staged.put (g : Staged) (sub v : Nat) : Staged :=
  match sub with
  | 2 => { g with tenant := v }
  | 3 => { g with granules := v }
  | 4 => { g with rights := v }
  | 5 => { g with mirrored := decide (v = 1) }
  | 6 => { g with span := v }
  | 7 => { g with vcs := v }
  | _ => { g with bortis := v }

/-- Stores a staged field of a schedule. -/
def schedPut (x : Sched) (sub v : Nat) : Sched :=
  match sub with
  | 1 => { x with peak := BitVec.ofNat 32 v }
  | 2 => { x with warm := v }
  | 3 => { x with warmSteps := v }
  | 4 => { x with decay := v }
  | 5 => { x with decaySteps := v }
  | 6 => { x with rho := BitVec.ofNat 32 v }
  | 7 => { x with gamma := BitVec.ofNat 32 v }
  | _ => { x with mult := v }

/-- Stores a setting. -/
def State.setting (s : State) (ix sub v : Nat) : State :=
  if ix = 0x2000 then
    { s with power := if sub = 1 then { s.power with capW := v } else { s.power with targetMv := v } }
  else if ix = 0x4000 then
    { s with memSet := match sub with
      | 1 => { s.memSet with stackScrub := v }
      | 2 => { s.memSet with cartScrub := v }
      | 3 => { s.memSet with idle := v }
      | _ => { s.memSet with offAllowed := decide (v = 1) } }
  else if ix = 0x5020 then
    { s with link := if sub ≤ 8 then { s.link with credits := s.link.credits.set (sub - 1) v }
        else if sub ≤ 0x10 then { s.link with weights := s.link.weights.set (sub - 9) v } else { s.link with hold := v } }
  else if ix = 0x6060 then { s with test := { s.test with grantPeriod := v } }
  else if ix < 0x6200 then
    s.updSlot (ix - 0x6180) (fun x => { x with policy := match sub with
      | 1 => { x.policy with conflictHalt := decide (v = 1) }
      | 2 => { x.policy with hold := v }
      | _ => { x.policy with answer := v } })
  else if ix < 0x6300 then s.updSlot (ix - 0x6240) (fun x => { x with seed := { x.seed with staged := BitVec.ofNat 64 v } })
  else if ix < 0x7040 then
    s.updSlot ((ix - 0x7000) / 4) (fun x => { x with scheds := x.scheds.modify (ix % 4) (fun c => { c with staged := schedPut c.staged sub v }) })
  else if ix = 0x7080 then { s with exTimeout := v }
  else if ix = 0x8010 then
    { s with recov := match sub with
      | 1 => { s.recov with digestWait := v }
      | 2 => { s.recov with reloadRate := v }
      | 3 => { s.recov with strikeLimit := v }
      | _ => { s.recov with strikeWindow := v } }
  else if ix = 0x9000 then
    { s with prov := if sub = 1 then { s.prov with force := decide (v = 1) } else { s.prov with interval := v } }
  else s.updLoop (ix - 0x9010) (fun l => if sub = 1 then { l with depth := v } else { l with duration := v })

end Sys2Proof.Machine
end

