-- ==== Sys2Proof/Machine/Book.lean ====
section
/-! DEFINITION. The operations of the signal book: READ, WRITE, the segment operations, DESCRIBE and NEXT (14 R523 to
R536). -/

namespace Sys2Proof.Machine

/-! ### Answers -/

/-- A response that carries data. -/
def State.reply (s : State) (data : List Byte) (ix sub : Nat) : State :=
  { s with out := { s.out with response := some { status := .ok, data := data, index := ix, sub := sub } } }

/-- The echo of INDEX and SUB (R528). -/
def State.echo (s : State) (r : Request) : State :=
  { s with out := { s.out with response := s.out.response.map (fun x => if x.index = 0 then { x with index := r.index, sub := r.sub } else x) } }

/-- Largest LENGTH of a transport (Table 14.7). -/
def dataLimit (t : Transport) : Nat :=
  match t with
  | .pf => 32768
  | .vf _ => 16384
  | .mgmt => 1024
  | .halyard _ => 1024

/-- The denial of a subindex that a principal does not reach: OBJECT_ABSENT, or ACCESS_DENIED to a peer (R525, R553). -/
def State.deny (s : State) (via : Via) : State := s.answer (if via.who = .peer then .accessDenied else .objectAbsent)

/-- An operation on a subindex the principal reaches; none in Dark, BUSY while Dipping (R531). -/
def State.opOn (s : State) (via : Via) (r : Request) (f : Family → SubEnt → Acc → State) : State :=
  match s.mod.state with
  | .dark => s
  | .dipping => s.answer .busy
  | _ =>
    match famOf r.index with
    | none => s.deny via
    | some m =>
      match m.sub r.sub with
      | none => s.deny via
      | some e => if s.accFor via r.index r.sub = .none then s.deny via else f m e (s.accFor via r.index r.sub)

/-- Whether the right a tenant needs to read an object is held: METERS for its meters, ATTEST for its reports (R526). -/
def State.mayRead (s : State) (via : Via) (ix sub : Nat) : Bool :=
  if via.who ≠ .tenant then true
  else if 0xA000 ≤ ix ∧ ix < 0xA010 then s.holds via via.slot false 3
  else if 0x3820 ≤ ix ∧ ix < 0x3830 ∧ sub ≠ 0 then s.holds via via.slot false 2
  else true

/-- A report that is being prepared (R519). -/
def State.preparing (s : State) (ix sub : Nat) : Bool :=
  decide (sub = 2) && (if ix = 0x3830 then s.modAttest.nonce.isSome
    else decide (0x3820 ≤ ix) && decide (ix < 0x3830) && (s.slot (ix - 0x3820)).attest.nonce.isSome)

/-- READ (R529): the value; a write-only subindex reads zero. -/
def State.bookRead (s : State) (via : Via) (r : Request) : State :=
  s.opOn via r (fun f e a =>
    if e.ty = tBlob then s.answer .opUndefined
    else if a = .wo then s.reply (List.replicate e.maxLen 0#8) r.index r.sub
    else if ¬ s.mayRead via r.index r.sub then s.answer .accessDenied
    else if s.preparing r.index r.sub then s.answer .busy
    else s.reply (s.value r.index r.sub f e) r.index r.sub)

/-- DESCRIBE (R523). -/
def State.bookDescribe (s : State) (via : Via) (r : Request) : State :=
  s.opOn via r (fun f e _ => s.reply (bytesLE 32 (descriptor r.index r.sub f e).toNat) r.index r.sub)

/-- Subindexes of one object of a family. -/
def keysOf (f : Family) (ix : Nat) : List (Nat × Nat) :=
  f.subs.flatMap (fun e => (List.range (e.hi + 1 - e.lo)).map (fun i => (ix, e.lo + i)))

/-- The first subindex after (ix, sub) that a principal reaches (Table 14.5). -/
def State.nextKey (s : State) (via : Via) (ix sub : Nat) : Option (Nat × Nat) :=
  fams.findSome? (fun f =>
    if f.base + f.n ≤ ix then none
    else (List.range f.n).findSome? (fun i =>
      if f.base + i < ix then none
      else (keysOf f (f.base + i)).find? (fun k =>
        (decide (ix < k.1) || decide (sub < k.2)) && decide (s.accFor via k.1 k.2 ≠ .none))))

/-- NEXT. -/
def State.bookNext (s : State) (via : Via) (r : Request) : State :=
  match s.mod.state with
  | .dark => s
  | .dipping => s.answer .busy
  | _ =>
    match s.nextKey via r.index r.sub with
    | some k => s.reply [] k.1 k.2
    | none => s.answer .objectAbsent

/-! ### WRITE (R524, R532) -/

/-- The command written to 0x3000 + p:09 (R497); a halt of R262 is lifted by the host operator alone. -/
def State.writeCommand (s : State) (via : Via) (p v : Nat) : State :=
  let may := s.mayCommand via p
  match v with
  | 1 => if may false then s.grant p else s.answer .accessDenied
  | 2 => if may false then s.release p else s.answer .accessDenied
  | 3 => if may true then s.haltCmd p else s.answer .accessDenied
  | 4 => if may (!(s.slot p).seq.byHost) then s.resumeCmd p else s.answer .accessDenied
  | _ => s.answer .valueRefused

/-- The staged fields of a burgee: while the slot is Free (R521). -/
def State.writeStaged (s : State) (p sub v : Nat) : State :=
  if (s.slot p).state ≠ .free then s.refuse p 0x3107
  else (s.updSlot p (fun x => { x with staged := x.staged.put sub v })).answer .ok

/-- A number written to a subindex: what has a row of its own goes its way, the others are settings. -/
def State.putNum (s : State) (via : Via) (r : Request) (v : Nat) : State :=
  let ix := r.index; let sub := r.sub
  if ix = 0x1020 then (if v = 1 then (s.answer .ok).resetDip r.dip else s.answer .ok)
  else if 0x3000 ≤ ix ∧ ix < 0x3010 then (if sub = 9 then s.writeCommand via (ix - 0x3000) v else s.writeStaged (ix - 0x3000) sub v)
  else if ix = 0x3800 then (if v = 0 then s.answer .ok else if sub = 5 then s.fwActivate else s.fwCommit)
  else if ix = 0x5000 then (if sub = 4 then s.writeHold v else s.writePermit v)
  else if ix = 0x6060 ∧ sub = 2 then s.writeDeep v
  else if 0x6240 ≤ ix ∧ ix < 0x6250 ∧ sub = 3 then s.writeSeedCommit (ix - 0x6240) v
  else if 0x7000 ≤ ix ∧ ix < 0x7040 ∧ sub = 9 then s.writeSchedCommit ((ix - 0x7000) / 4) (ix % 4) v
  else if ix = 0x8000 then s.writeLogClear v
  else if 0x8020 ≤ ix ∧ ix < 0x8030 then
    (if sub = 6 then s.writeSource (ix - 0x8020) v else if v = 1 then s.rbResume (ix - 0x8020) else s.answer .ok)
  else if ix = 0x9004 then (if sub = 1 then s.writeTestMode v else s.writeFlyOff v)
  else if 0x9010 ≤ ix ∧ ix < 0x9024 ∧ sub = 3 then s.writeLoopStart via (ix - 0x9010) v
  else if ix = 0x9040 then s.writeSpareReset v
  else if ix = 0x9060 then s.writeStallTile v
  else if 0xA000 ≤ ix ∧ ix < 0xA010 then s.writeSnapshot via (ix - 0xA000) v
  else if ix = 0xF000 then (if v = 1 then s.vendorEnd else s.answer .ok)
  else if s.inRange ix sub v then (s.setting ix sub v).answer .ok
  else s.answer .valueRefused

/-- An octet string written to a subindex. -/
def State.putOct (s : State) (via : Via) (r : Request) : State :=
  let ix := r.index
  if 0x3820 ≤ ix ∧ ix < 0x3830 then s.attestNonce via (some (ix - 0x3820)) r.data
  else if ix = 0x3830 then s.attestNonce via none r.data
  else if ix = 0x3840 then (if via.who = .maint ∧ s.mgmt.chassisKey = none then s.answer .accessDenied else s.chassisWrite r.data)
  else if 0x3850 ≤ ix ∧ ix < 0x3860 then s.ckptWrite (ix - 0x3850) r.data
  else s.vendorUnlock r.data

/-- WRITE: RO and RC complete and change nothing; the length and the type's values are checked first. -/
def State.bookWrite (s : State) (via : Via) (r : Request) : State :=
  s.opOn via r (fun _ e a =>
    if e.ty = tBlob then s.answer .opUndefined
    else if dataLimit via.tr < r.data.length then s.answer .lengthMismatch
    else if a = .ro ∨ a = .rc then s.answer .ok
    else if r.data.length ≠ e.maxLen then s.answer .lengthMismatch
    else if typeSize e.ty = 0 then s.putOct via r
    else if e.ty = tBool ∧ 1 < leNat r.data then s.answer .valueRefused
    else s.putNum via r (leNat r.data))

/-! ### Segments (R534 to R536) -/

/-- READ_SEGMENT: the bytes asked for, from OFFSET, within the value and the transport's limit. -/
def State.bookReadSegment (s : State) (via : Via) (r : Request) : State :=
  s.opOn via r (fun f e a =>
    if e.ty ≠ tBlob then s.answer .opUndefined
    else
      let v := if a = .wo then [] else s.value r.index r.sub f e
      s.reply ((v.drop r.offset).take (min (leNat (r.data.take 2)) (dataLimit via.tr))) r.index r.sub)

/-- A firmware image from its bytes (R516). -/
def fwOf (l : List Byte) : FwImage :=
  let h := BitVec.ofNat 512 (leNat (l.take 64))
  let n := fld h 127 96
  ⟨h, (l.drop 64).take n, (l.drop (64 + n)).take 104, (l.drop (168 + n)).take 96⟩

/-- The state of the inactive firmware slot where no image is loading. -/
def State.inactiveNow (s : State) : Nat :=
  match s.fw.slots.getD (1 - s.fw.active) none with
  | none => 0
  | some f => if s.fwOk f then 2 else 3

/-- A transfer is abandoned: what it brought and what had been accumulated go (R534, R535). -/
def State.dropXfer (s : State) (ix sub : Nat) : State :=
  let s := { s with blobs := s.blobs.filter (fun b => !(decide (b.index = ix) && decide (b.sub = sub))) }
  { s with fw := { s.fw with buf := [], inactive := s.inactiveNow } }

/-- A completed transfer of 0x3800:04: appended, and verified once the image is complete (R535, R518). -/
def State.fwSegmentDone (s : State) (bytes : List Byte) : State :=
  let all := s.fw.buf ++ bytes
  let s := { s with fw := { s.fw with buf := all } }
  if all.length < 64 ∨ all.length < 264 + fld (BitVec.ofNat 512 (leNat (all.take 64))) 127 96 then s.answer .ok
  else s.fwWrite (fwOf all)

/-- A segment of a BLOB written at OFFSET; `last` completes the transfer. -/
def State.segment (s : State) (via : Via) (r : Request) (last : Bool) : State :=
  let x := s.blobs.find? (fun b => decide (b.index = r.index) && decide (b.sub = r.sub))
  let others := match x with | some b => decide (b.via ≠ via) | none => false
  if others then s.answer (if r.offset = 0 then .busy else .segment)
  else
    let old := if r.offset = 0 then [] else match x with | some b => b.bytes | none => []
    if r.offset ≠ 0 ∧ (x = none ∨ r.offset ≠ old.length) then s.answer .segment
    else
      let s := if r.offset = 0 ∧ x.isSome then s.dropXfer r.index r.sub else s
      let bytes := old ++ r.data
      if blobMax < bytes.length then (s.dropXfer r.index r.sub).answer .lengthMismatch
      else
        let s := { s with blobs := s.blobs.filter (fun b => !(decide (b.index = r.index) && decide (b.sub = r.sub))) }
        if last then s.fwSegmentDone bytes
        else ({ s with blobs := s.blobs ++ [(⟨r.index, r.sub, via, bytes.length, bytes⟩ : BlobXfer)], fw := { s.fw with inactive := 1 } }).answer .ok

/-- WRITE_SEGMENT and WRITE_FINAL. -/
def State.bookSegment (s : State) (via : Via) (r : Request) (last : Bool) : State :=
  s.opOn via r (fun _ e a =>
    if e.ty ≠ tBlob then s.answer .opUndefined
    else if dataLimit via.tr < r.data.length then s.answer .lengthMismatch
    else if a = .ro ∨ a = .rc then s.answer .ok
    else s.segment via r last)

/-- BLOB_TRANSFER_TIMEOUT: a transfer without a segment for 10 s is abandoned. -/
def execBlobTransferTimeout (ix sub : Nat) (s : State) : Res :=
  .next (if s.blobs.any (fun b => decide (b.index = ix) && decide (b.sub = sub)) then s.dropXfer ix sub else s)

/-! ### The commands -/

def execRead (via : Via) (r : Request) (s : State) : Res := .next ((s.bookRead via r).echo r)
def execWrite (via : Via) (r : Request) (s : State) : Res := .next ((s.bookWrite via r).echo r)
def execReadSegment (via : Via) (r : Request) (s : State) : Res := .next ((s.bookReadSegment via r).echo r)
def execWriteSegment (via : Via) (r : Request) (s : State) : Res := .next ((s.bookSegment via r false).echo r)
def execWriteFinal (via : Via) (r : Request) (s : State) : Res := .next ((s.bookSegment via r true).echo r)
def execDescribe (via : Via) (r : Request) (s : State) : Res := .next ((s.bookDescribe via r).echo r)
def execNext (via : Via) (r : Request) (s : State) : Res := .next ((s.bookNext via r).echo r)

/-- A request as a transport delivers it: a reserved OP answers OP_UNDEFINED; a peer's OP other than READ, READ_SEGMENT,
DESCRIBE and NEXT is denied (R553). -/
def State.request (s : State) (via : Via) (r : Request) : State :=
  let peer := decide (via.who = .peer)
  let s' :=
    match r.op with
    | .read => s.bookRead via r
    | .write => if peer then s.answer .accessDenied else s.bookWrite via r
    | .readSegment => s.bookReadSegment via r
    | .writeSegment => if peer then s.answer .accessDenied else s.bookSegment via r false
    | .writeFinal => if peer then s.answer .accessDenied else s.bookSegment via r true
    | .describe => s.bookDescribe via r
    | .next => s.bookNext via r
    | .other _ => s.answer (if peer then .accessDenied else .opUndefined)
  s'.echo r

end Sys2Proof.Machine
end

