-- ==== Sys2Proof/Machine/Pcie.lean ====
section
/-! DEFINITION. PCIe: the mailboxes, the writes of BAR registers, the direct counter window and the queue pairs (14 R528,
R538 to R545). -/

namespace Sys2Proof.Machine

/-! ### Access headers (Table 14.4) -/

def statusNum (x : Status) : Nat :=
  match x with
  | .ok => 0 | .objectAbsent => 1 | .accessDenied => 2 | .valueRefused => 3 | .lengthMismatch => 4 | .busy => 5 | .version => 6
  | .nonce => 7 | .segment => 8 | .opUndefined => 9

def bookOpOf (n : Nat) : BookOp :=
  match n with
  | 1 => .read | 2 => .write | 3 => .readSegment | 4 => .writeSegment | 5 => .writeFinal | 6 => .describe | 7 => .next | n => .other n
def bookOpNum (x : BookOp) : Nat :=
  match x with
  | .read => 1 | .write => 2 | .readSegment => 3 | .writeSegment => 4 | .writeFinal => 5 | .describe => 6 | .next => 7 | .other n => n

/-- Data octets that follow a request's header: its LENGTH, and the U16 of a READ_SEGMENT, whose LENGTH is 0 (Table 14.5; DEDUCED,
log 22). -/
def hdrLength (h : List Byte) : Nat :=
  let n := leNat ((h.drop 18).take 2)
  if n = 0 ∧ h.getD 31 0 = 3 then 2 else n

/-- A request from its header and data. -/
def parseReq (h data : List Byte) (d : DipObs) : Request :=
  let w : BitVec 256 := BitVec.ofNat 256 (leNat (h.take 32))
  { op := bookOpOf (fld w 255 248), index := fld w 223 208, sub := fld w 207 200, offset := fld w 183 160,
    data := (data ++ List.replicate (hdrLength h) 0#8).take (hdrLength h), transId := fld w 143 128,
    bootNonce := BitVec.ofNat 64 (fld w 127 64), seq := fld w 63 0, principal := fld w 247 245, slot := fld w 244 241, dip := d }

/-- The header of a response: the request's fields are echoed but for RESPONSE, STATUS, DETAIL and LENGTH (R528); NEXT names
the subindex it found. -/
def respHeader (r : Request) (x : Response) (nonce : Word64) (sq : Nat) : List Byte :=
  bytesLE 32 (bookOpNum r.op * 2 ^ 248 + r.principal % 8 * 2 ^ 245 + r.slot % 16 * 2 ^ 241 + 2 ^ 240 + statusNum x.status * 2 ^ 224
    + x.index % 65536 * 2 ^ 208 + x.sub % 256 * 2 ^ 200 + x.detail % 65536 * 2 ^ 184 + r.offset % 2 ^ 24 * 2 ^ 160
    + x.data.length % 65536 * 2 ^ 144 + r.transId % 65536 * 2 ^ 128 + nonce.toNat * 2 ^ 64 + sq % 2 ^ 64)

/-! ### Mailboxes (R539, R540) -/

/-- The mailbox of a transport: 0 of the physical function, p + 1 of the virtual function of slot p. -/
def boxOf (t : Transport) : Option Nat :=
  match t with
  | .pf => some 0
  | .vf p => if p < 16 then some (p + 1) else none
  | _ => none

/-- Whether a function's registers answer: not in Dark, a virtual function only while its slot is not Free, and only the physical
function in limited service (R540, R592). -/
def State.barOpen (s : State) (t : Transport) : Bool :=
  decide (s.mod.state ≠ .dark) && (match t with
    | .vf p => !s.mod.limited && decide ((s.slot p).state ≠ .free)
    | _ => true)

def State.box (s : State) (i : Nat) : Mailbox := s.boxes.getD i {}
def State.updBox (s : State) (i : Nat) (f : Mailbox → Mailbox) : State := { s with boxes := s.boxes.modify i f }

/-- The request in a mailbox's area, and what its function establishes: SLOT is overwritten on a virtual function. -/
def Mailbox.request (b : Mailbox) (t : Transport) (d : DipObs) : Request :=
  let r := parseReq b.reqHdr b.reqData d
  match t with
  | .vf p => { r with slot := p }
  | _ => r

/-- Serves a mailbox's request: BUSY while Dipping (R531), else VERSION, then the principal, then the operation. -/
def State.serveBox (s : State) (t : Transport) (b : Mailbox) (r : Request) : State :=
  let via : Via := match t with | .vf p => ⟨t, .tenant, p⟩ | _ => ⟨t, .host, 0⟩
  let want := match t with | .vf _ => 1 | _ => 0
  if s.mod.state = .dipping then (s.answer .busy).echo r
  else if b.version / 256 ≠ 4 then (s.answer .version).echo r
  else if r.principal ≠ want then (s.answer .accessDenied).echo r
  else if dataLimit t < hdrLength b.reqHdr then (s.answer .lengthMismatch).echo r
  else s.request via r

/-- GO: the request is copied and served, and its response complete with DONE; ignored and counted while DONE is set. A dip
the request starts leaves no register to answer in. -/
def State.go (s : State) (t : Transport) (d : DipObs) : State :=
  match boxOf t with
  | none => s
  | some i =>
    if ¬ s.barOpen t then s
    else
      let b := s.box i
      if b.busy ∨ b.done then s.updBox i (fun b => { b with ignored := min 0xFF (b.ignored + 1) })
      else
        let r := b.request t d
        let was := s.mod.state
        let s := s.serveBox t b r
        if s.mod.state = .dipping ∧ was ≠ .dipping then s
        else
          let x := s.out.response.getD { status := .ok }
          let s := s.updBox i (fun b => { b with done := true, respHdr := respHeader r x r.bootNonce r.seq, respData := x.data })
          if b.irqEn then { s with out := { s.out with irq := s.out.irq ++ [(i, 0)] } } else s

def execGo (tr : Transport) (d : DipObs) (s : State) : Res := .next (s.go tr d)

/-- DONE_CLEAR: a write of 1 to DONE. -/
def execDoneClear (tr : Transport) (s : State) : Res :=
  .next (match boxOf tr with
    | none => s
    | some i => if s.barOpen tr ∧ (s.box i).done then s.updBox i (fun b => { b with done := false, ignored := 0 }) else s)

/-- The mailbox control register (Table 14.9). -/
def Mailbox.control (b : Mailbox) : Nat := b.ignored * 256 + 8 * b2n b.irqEn + 4 * b2n b.done + 2 * b2n b.busy

/-! ### Queue pairs (R542, Table 14.10) -/

/-- The number of a pair in State: host pairs 0 to 15, the module pair 16, tenant pairs 17 to 32. -/
def pairOf (q : QPair) : Nat :=
  match q with
  | .host p => if p < 16 then p else 33
  | .module => 16
  | .tenant p => if p < 16 then 17 + p else 33

/-- The slot of a pair (16: none). -/
def pairSlot (i : Nat) : Nat := if i < 16 then i else if i < 17 then 16 else i - 17

def State.qp (s : State) (i : Nat) : QPState := s.qps.getD i {}
def State.updQp (s : State) (i : Nat) (f : QPState → QPState) : State := { s with qps := s.qps.modify i f }

/-- The 64-byte block of a pair as reads return it. -/
def QPState.block (q : QPState) : List Byte :=
  bytesLE 64 (q.sqBase * 2 ^ 448 + q.cqBase * 2 ^ 384 + q.sqLog * 2 ^ 380 + q.cqLog * 2 ^ 376 + b2n q.enable * 2 ^ 375
    + q.sqHead % 65536 * 2 ^ 336 + q.cqTail % 65536 * 2 ^ 320 + q.held.length * 2 ^ 304 + q.dropped * 2 ^ 288)

/-- Bytes written at an offset. -/
def overlay (l : List Byte) (off : Nat) (v : List Byte) : List Byte :=
  (l.mapIdx (fun i b => if off ≤ i ∧ i < off + v.length then v.getD (i - off) 0 else b))

/-- A write of a pair's block: bases and sizes while it is disabled, and ENABLE set, which starts both rings at their first
entry with phase 1. The doorbells and a cleared ENABLE are rows of their own. -/
def QPState.write (q : QPState) (off : Nat) (v : List Byte) : QPState :=
  if q.enable then q
  else
    let w : BitVec 512 := BitVec.ofNat 512 (leNat (overlay q.block off v))
    let q := { q with
      sqBase := fld w 511 448 / 4096 * 4096, cqBase := fld w 447 384 / 4096 * 4096,
      sqLog := if fld w 383 380 ≤ 8 then fld w 383 380 else q.sqLog, cqLog := if fld w 379 376 ≤ 8 then fld w 379 376 else q.cqLog }
    if bit w 375 then { q with enable := true, sqHead := 0, cqTail := 0, sqTail := 0, cqHead := 0, phase := true, held := [], comp := none,
                               cmds := [], ring := [] }
    else q

/-- Drains a pair's waiting notifications, then its waiting completion, into free entries. -/
def State.drainPair (fuel : Nat) (s : State) (i : Nat) : State :=
  match fuel with
  | 0 => s
  | n + 1 =>
    let q := s.qp i
    if ¬ q.enable ∨ q.full then s
    else
      match q.held with
      | c :: r =>
        let w := q.put { c with head := q.sqHead }
        State.drainPair n { s with qps := s.qps.set i { w.1 with held := r }, out := s.out.entry i w.2 } i
      | [] =>
        match q.comp with
        | some c =>
          let w := q.put c
          { s with qps := s.qps.set i { w.1 with comp := none }, out := s.out.entry i w.2 }
        | none => s

/-- The current command of a pair ends: SQ_HEAD passes it and its completion is posted, or waits for ring space and for the
notifications that wait (R543 to R545). -/
def State.finish (s : State) (i code result : Nat) : State :=
  let q := s.qp i
  match q.cmds with
  | [] => s
  | e :: r =>
    let q := { q with cmds := r, sqHead := (q.sqHead + 1) % 2 ^ (q.sqLog + 4) }
    let c : Completion := ⟨code, fld e 503 488, q.sqHead, 1, true, result, 0⟩
    if ¬ q.enable then { s with qps := s.qps.set i q }
    else State.drainPair 300 { s with qps := s.qps.set i { q with comp := some c } } i

/-- Refuses the current command with a code, logged with handling REFUSED. -/
def State.refuseCmd (s : State) (i code : Nat) : State :=
  let p := pairSlot i
  let r : ErrRec := { code := code, handling := .refused }
  (if p < 16 then s.logSlot p r else s.logErr r).finish i code 0

/-- The code that refuses a command before it begins: an undefined command or one on the module pair, a tenant's without
LOAD (R543). -/
def State.cmdCode (s : State) (i : Nat) (e : BitVec 512) : Nat :=
  let p := pairSlot i
  if 16 ≤ p ∨ fld e 511 504 = 0 ∨ 3 < fld e 511 504 then 0x6100
  else if 17 ≤ i ∧ bRights (s.slot p).burgee % 2 = 0 then 0x3109
  else 0

/-- Takes commands that are refused outright; the others wait for their own row. -/
def State.pumpPair (fuel : Nat) (s : State) (i : Nat) : State :=
  match fuel with
  | 0 => s
  | n + 1 =>
    let q := s.qp i
    if ¬ q.enable ∨ q.comp.isSome then s
    else
      match q.cmds with
      | [] => s
      | e :: _ =>
        let c := s.cmdCode i e
        if c = 0 then s else State.pumpPair n (s.refuseCmd i c) i

/-- Whether a pair's function answers. -/
def State.pairOpen (s : State) (i : Nat) : Bool :=
  decide (i < 33) && decide (s.mod.state ≠ .dipping) && s.barOpen (if i < 17 then .pf else .vf (i - 17)) && !s.mod.limited

/-- SQ_TAIL: the entries from the last doorbell to this one, read from the ring, are taken in order. -/
def State.sqDoorbell (s : State) (i v : Nat) (ents : List (BitVec 512)) : State :=
  let q := s.qp i
  let size := 2 ^ (q.sqLog + 4)
  if ¬ s.pairOpen i ∨ ¬ q.enable then s
  else
    let n := (v % size + size - q.sqTail) % size
    State.pumpPair 5000 (s.updQp i (fun q => { q with sqTail := v % size, cmds := q.cmds ++ ents.take n })) i
def execSqTail (qp : QPair) (v : Nat) (ents : List (BitVec 512)) (s : State) : Res := .next (s.sqDoorbell (pairOf qp) v ents)

/-- CQ_HEAD: consumed entries leave the ring; what waits is posted, and commands go on. -/
def State.cqDoorbell (s : State) (i v : Nat) : State :=
  let q := s.qp i
  let size := q.cqSize
  if ¬ s.pairOpen i ∨ ¬ q.enable then s
  else
    let n := (v % size + size - q.cqHead) % size
    let s := s.updQp i (fun q => { q with cqHead := v % size, ring := q.ring.drop n })
    State.pumpPair 5000 (State.drainPair 300 s i) i
def execCqHead (qp : QPair) (v : Nat) (s : State) : Res := .next (s.cqDoorbell (pairOf qp) v)

/-- Whether the current command of pair i is under way: an import or an export that waits for packets. -/
def State.cmdRuns (s : State) (i : Nat) : Bool :=
  let x := s.slot (pairSlot i)
  (match x.imp with | some m => decide (m.qp = i) | none => false) || (match x.exp with | some m => decide (m.qp = i) | none => false)

/-- QUEUE_PAIR_DISABLE: the current command goes on, the others and every posting go. -/
def State.disablePair (s : State) (i : Nat) : State :=
  if ¬ s.pairOpen i then s
  else
    let keep := if s.cmdRuns i then 1 else 0
    s.updQp i (fun q => { q with enable := false, cmds := q.cmds.take keep, held := [], comp := none })
def execQueuePairDisable (qp : QPair) (s : State) : Res := .next (s.disablePair (pairOf qp))

/-! ### Register writes (R538) and the counter window (R541) -/

/-- A write into a mailbox: IRQ_EN, the requester's version, the request header and data. `hdr`, `data`: the offsets of the
request areas, `n` the length of the second. -/
def Mailbox.write (b : Mailbox) (hdr data n off : Nat) (v : List Byte) : Mailbox :=
  let fit := fun (l : List Byte) (k : Nat) => (l ++ List.replicate k 0#8).take k
  if off < 0x100 then
    let c := overlay (fit (bytesLE 4 b.control ++ [0#8, 4#8] ++ bytesLE 2 b.version) 8) off v
    { b with irqEn := decide ((c.getD 0 0).toNat / 8 % 2 = 1), version := leNat (c.drop 6) }
  else if hdr ≤ off ∧ off < hdr + 32 then { b with reqHdr := overlay (fit b.reqHdr 32) (off - hdr) v }
  else if data ≤ off ∧ off < data + n then { b with reqData := overlay (fit b.reqData n) (off - data) v }
  else b

/-- REGISTER_WRITE: bytes written at an offset of a BAR; reserved offsets ignore it. -/
def State.registerWrite (s : State) (t : Transport) (bar off : Nat) (v : List Byte) : State :=
  if ¬ s.barOpen t then s
  else
    match t with
    | .pf =>
      if bar = 0 then s.updBox 0 (fun b => b.write 0x1000 0x2000 32768 off v)
      else if bar = 2 ∧ off / 0x800 < 17 ∧ off % 0x800 < 64 ∧ ¬ s.mod.limited ∧ s.mod.state ≠ .dipping then
        s.updQp (off / 0x800) (fun q => q.write (off % 0x800) v)
      else s
    | .vf p =>
      if bar ≠ 0 ∨ 16 ≤ p then s
      else if 0x9000 ≤ off ∧ off < 0x9040 ∧ s.mod.state ≠ .dipping then s.updQp (17 + p) (fun q => q.write (off - 0x9000) v)
      else s.updBox (p + 1) (fun b => b.write 0x100 0x1000 16384 off v)
    | _ => s
def execRegisterWrite (tr : Transport) (bar off : Nat) (v : List Byte) (s : State) : Res := .next (s.registerWrite tr bar off v)

/-- The direct counter window of the physical function: an aligned 8-byte read at an offset from 0x10_0000 (R541). -/
def State.counterWindow (s : State) (off : Nat) : Nat :=
  let ix := 0xA000 + off / 2048; let sub := off / 8 % 256
  if 0x300000 ≤ off ∨ off % 8 ≠ 0 then 0
  else
    match famOf ix with
    | none => 0
    | some f =>
      match f.sub sub with
      | none => 0
      | some e => if e.ty = tU64 ∧ codeDigit e.codes 0 = 1 then s.num ix sub else 0

end Sys2Proof.Machine
end

