-- ==== Sys2Proof/Machine/Load.lean ====
section
/-! DEFINITION. The commands of a queue pair: LOAD_IMAGE with what it writes, the checkpoint export and import over port F, and
CHECKPOINT_META (10 R360, 12 R474, 13 R507, R508, 14 Tables 14.11 to 14.13). -/

namespace Sys2Proof.Machine

/-- Fields of a command entry (Table 14.11). -/
def ceOp (e : BitVec 512) : Nat := fld e 511 504
def ceAddr (e : BitVec 512) : Nat := fld e 479 416
def ceLen (e : BitVec 512) : Nat := fld e 415 384
def ceArg (e : BitVec 512) : Nat := fld e 383 320
/-- ARG of a new run. -/
def newRun : Nat := 0xFFFFFFFFFFFFFFFF

/-- Runs a command of a pair: it is the pair's oldest, no completion waits, and it is not refused before it begins. After it,
commands that are refused outright are taken. -/
def State.runCmd (s : State) (q : QPair) (op : Nat) (e : BitVec 512) (f : State → Nat → State) : State :=
  let i := pairOf q
  let x := s.qp i
  if ¬ s.pairOpen i ∨ ¬ x.enable ∨ x.comp.isSome ∨ x.cmds.head? ≠ some e ∨ ceOp e ≠ op ∨ s.cmdCode i e ≠ 0 ∨ s.cmdRuns i then s
  else State.pumpPair 5000 (f s i) i

/-! ### What a load writes (R179, R253, R338, R342, R360, R388) -/

/-- Step from which the image starts. -/
def imStart (im : Image) : Nat := (imDescs im).headD (0, 0) |>.2 |> dStart

/-- A bucket at load. -/
def bucketAtLoad (step : Nat) (d : BitVec 128) : Bucket :=
  { desc := d, base := (step : Int) - 1, lastSum := (step : Int) - 1, lastRes := (step : Int) - 1,
    scaleC := List.replicate (bkBlocks d) 0xFF, scaleR := List.replicate (bkBlocks d) 0xFF }

/-- The slot's bookkeeping of a loaded image. -/
def Slot.setImage (x : Slot) (im : Image) (place : Nat × Nat) (step : Nat) : Slot :=
  { x.withImage im with
    measure := sha384 im.bytes, stage := place.1, replica := place.2,
    stages := (im.placeHdr.map phStages).getD 1, replicas := imReplicas im, satLimit := (im.placeHdr.map phSat).getD 0,
    buckets := im.buckets.map (bucketAtLoad step),
    seq := { x.seq with step := step, mbPerStep := sdMb im.stash, start := step, issued := false, nextMb := 0, clips := 0, stopped := false, byHost := false,
                        versions := (im.wsets.filter (fun w => !wsFrozen w)).foldl (fun t w => tput t (wsTensor w) step) [] } }

/-- Loads handles into the tiles and declares the queues. -/
def State.loadTiles (s : State) (p : Nat) (im : Image) : State :=
  let s := im.tiles.foldl (fun s t => let n := s.phys t.tile; s.setTile n (s.loadHandles p (s.tile n) t).1) s
  { s with queues := (imQueues im p).foldl (fun t q => tput t q.1 q.2) s.queues }

/-- Writes the frozen working copies from the image (R250, R507). -/
def State.loadFrozen (s : State) (p : Nat) (im : Image) : State :=
  (im.wsets.filter wsFrozen).foldl (fun s w =>
    match im.frozen.find? (fun f => decide (f.1 = wsTensor w)) with
    | some f => s.putWords p ((bytesWords f.2).mapIdx (fun i c => (wsCopy w * unit64 + 16 * i, c)))
    | none => s) s

/-- Chip headers, descriptors and retention descriptors reach the chips, and the counts are set. -/
def State.loadChips (s : State) (p : Nat) (im : Image) (step : Nat) : State :=
  (im.chips.mapIdx (fun n c => (n, c))).foldl (fun s (n, c) =>
    let s := c.descs.foldl (fun s d => s.loadChip p n (.desc d)) (s.loadChip p n (.header c.header))
    (s.loadChip p n (.retention c.retention)).updChipSlot p n (fun k => { k with shards := k.shards.map (fun h => { h with count := step }) })) s

/-- Every part of a load but the trainable state. -/
def State.loadShell (s : State) (p : Nat) (im : Image) (step : Nat) : State :=
  let s := s.updSlot p (fun x => x.setImage im (s.placeOf im) step)
  ((s.loadTiles p im).loadChips p im step).loadFrozen p im

/-- Seed and schedules of the image. -/
def State.loadRates (s : State) (p : Nat) (im : Image) : State :=
  let s := s.updSlot p (fun x => { x with seed := { image := im.seed, inForce := im.seed, staged := im.seed } })
  (im.scheds.mapIdx (fun k c => (k, c))).foldl (fun s (k, c) => s.loadChip p 0 (.sched k c)) s

/-- A new run: the values the image supplies, and working copies made from the masters. -/
def State.loadState (s : State) (p : Nat) (im : Image) (step : Nat) : State :=
  let s := (im.chips.mapIdx (fun n c => (n, c))).foldl (fun s (n, c) =>
    (c.inits.mapIdx (fun i v => (i, v))).foldl (fun s (i, v) => s.loadChip p n (.init i v)) s) s
  (s.shardList p).foldl (fun s (n, i) =>
    let s := if step = 0 then s else (s.copyFromMasters p n i (step - 1)).1
    (s.copyFromMasters p n i step).1) s

/-- LOAD_IMAGE of a slot with no state to take: a new run, or an image without a shard on this module. -/
def State.loadNew (s : State) (p : Nat) (im : Image) (step : Nat) : State :=
  (((s.loadShell p im step).loadRates p im).loadState p im step).slotTo p .running

/-- LOAD_IMAGE of a Restored slot: counts, torn marks and saturation are those the dip saved; nothing trainable is written. -/
def State.loadRestored (s : State) (p : Nat) (im : Image) : State :=
  let x := s.slot p
  let s := s.loadShell p im x.seq.step
  let s := x.saved.foldl (fun s (v : ShardSave) => s.updShard p v.chip v.ix (fun h =>
    { h with count := v.count, torn := v.torn, saturated := v.saturated,
             retStep := if s.half (s.chipSlot p v.chip).retention = 0 then none
                        else if v.torn then some v.count else if v.count = 0 then none else some (v.count - 1) })) s
  s.updSlot p (fun y => { y with seq := { y.seq with versions := x.seq.versions, stopped := true } })

/-! ### The checkpoint store on port F (R474, R508) -/

/-- Whether a checkpoint store can be reached: the slot holds a checkpoint key and F is up. -/
def State.storeUp (s : State) (p : Nat) : Bool := (s.slot p).ckptKey.isSome && decide ((s.port 5).state = .up)

/-- Sends a message to the store on VC 6 of F, sealed under the checkpoint key when it leaves. -/
def State.sendStore (s : State) (p : Nat) (units : List (BitVec 256)) : State :=
  let cs := chunks 64 units
  (cs.mapIdx (fun i c => (i, c))).foldl (fun s (i, c) =>
    let n := tget s.spaces storeSpace 0
    let h := putFld (putFld (mkHdr s 9 6 (decide (i + 1 = cs.length)) false 0 0 c.length (s.slot p).tenant 0xFFFF 0 0) 214 191 n) 244 244 1
    ({ s.work p 10 3 (32 * c.length) with spaces := tput s.spaces storeSpace (n + 1) }).enqueue 5 { hdr := h, units := c }) s

/-- The digest of an exported or imported part. -/
def State.storeDigest (s : State) (p : Nat) (k : Nat × Nat × Nat) (step : Nat) (ws : List Code160) : Digest :=
  let x := s.slot p
  let kd := hkdfKey [] (bytesLE 32 (x.ckptKey.getD 0).toNat) (lblCkptDigest ++ bytesLE 3 x.tenant)
  Digest.over kd { kind := .checkpoint, tensor := k.1, chip := k.2.1, step := step } ws

/-- Parts of a set's shards but the accumulators, then its working copies: both of an OVERLAP set. -/
def imParts (im : Image) (w : BitVec 128) : List (Nat × Nat × Nat) :=
  let t := wsTensor w
  (imShards im t).flatMap (fun (n, d) =>
    ((List.range (dParts d (imThin im)).length).filter (fun k => decide (k ≠ 1))).map (fun k => (t, n, k)))
    ++ (match wsChips w with
      | [] => []
      | n :: _ => (t, n, 14) :: (if wsOverlap w then [(t, n, 15)] else []))

/-- Code words of a part, from a whole 32-byte word on. -/
def imPartLen (im : Image) (k : Nat × Nat × Nat) : Nat :=
  if 14 ≤ k.2.2 then 4096 * ((imWset im k.1).elim 0 wsSize)
  else match (imShards im k.1).find? (fun d => decide (d.1 = k.2.1)) with
    | some d => (4 * (dParts d.2 (imThin im)).getD k.2.2 0 + 31) / 32 * 2
    | none => 0

/-- Trainable sets of an image, each once. -/
def imSets (im : Image) : List (BitVec 128) :=
  ((im.wsets.filter (fun w => !wsFrozen w)).map wsTensor).dedup.filterMap (imWset im)

/-! ### Export -/

/-- Whether E is a step that may be exported: no shard has begun its update, and at most one beyond the newest forward pass. -/
def Slot.exportStep (x : Slot) (e : Nat) : Bool :=
  x.shards.all (fun h => decide (h.2.count < e) || (decide (h.2.count = e) && !h.2.updating && !h.2.torn))
    && decide (e ≤ (if x.seq.issued then x.seq.step + 1 else x.seq.start))

/-- Whether every shard of a set stands at the start of step e, its working copy written. -/
def Slot.setReady (x : Slot) (tensor e : Nat) : Bool :=
  (x.shards.filter (fun h => decide (dTensor h.2.desc = tensor))).all (fun h =>
    decide (h.2.count = e) && !h.2.updating && !h.2.wbPending && !h.2.awaitRes && !h.2.torn && !h.2.reload)

/-- Sends a part and its PART_DIGEST; answers the 64 KiB units sent. -/
def State.exportPart (s : State) (p e : Nat) (k : Nat × Nat × Nat) : State × Nat :=
  let w := s.partWords p (decide (14 ≤ k.2.2)) k
  let s := w.1.sendStore p (recUnits (recHdr 5 k.1 k.2.1 k.2.2 e 0 ((w.2.length + 1) / 2)) w.2)
  let d := s.storeDigest p k e w.2
  (s.sendStore p (recUnits (recHdr 0x15 k.1 k.2.1 k.2.2 e 0 8) (digestWords d)), (16 * w.2.length + unit64 - 1) / unit64)

/-- Marks the shards of a set. -/
def Slot.markExport (x : Slot) (tensor : Nat) (v : Option Nat) : Slot :=
  { x with chips := tmap (fun _ c => { c with shards := c.shards.map (fun h => if dTensor h.desc = tensor then { h with exported := v } else h) }) x.chips }

/-- Whether the store has acknowledged what a slot has sent: none of its packets waits on F, and F holds no codeword that awaits
its acknowledgement (R366, R398, R474; log 38). -/
def State.storeAcked (s : State) (p : Nat) : Bool :=
  decide ((s.port 5).unacked = [])
    && (s.port 5).sendQ.all (fun k => !(decide (fld k.hdr 247 245 = 6) && decide (fld k.hdr 190 167 = (s.slot p).tenant)))

/-- The export goes on with every set whose shards are all at the start of its step; a set's updates are free once the store has
acknowledged it, and the command ends after the last. -/
def State.exportPump (s : State) (p : Nat) : State :=
  let x := s.slot p
  match x.exp, x.image with
  | some ex, some im =>
    let owed := fun (s : State) => (imSets im).filter (fun w => (s.slot p).shards.any (fun h =>
      decide (dTensor h.2.desc = wsTensor w) && decide (h.2.exported = some ex.step)))
    let due := (owed s).filter (fun w => x.setReady (wsTensor w) ex.step && decide (wsTensor w ∉ ex.sent))
    let r := due.foldl (fun (r : State × Nat) w =>
      (imParts im w).foldl (fun (q : State × Nat) k => let o := q.1.exportPart p ex.step k; (o.1, q.2 + o.2)) r) (s, ex.units)
    let sent := ex.sent ++ due.map wsTensor
    let done := if r.1.storeAcked p then sent else []
    let s := done.foldl (fun s t => s.updSlot p (fun x => x.markExport t none)) r.1
    if owed s = [] then
      State.pumpPair 5000 ((s.updSlot p (fun x => { x with exp := none })).finish ex.qp 0 r.2) ex.qp
    else s.updSlot p (fun x => { x with exp := some { ex with units := r.2, sent := sent.filter (fun t => decide (t ∉ done)) } })
  | _, _ => s

/-- CHECKPOINT_EXPORT: accepted, its shards' updates of step E wait until they are sent. -/
def State.exportCmd (s : State) (e : BitVec 512) (i : Nat) : State :=
  let p := pairSlot i
  let x := s.slot p
  if x.state ≠ .running ∧ x.state ≠ .halted then s.refuseCmd i 0x3107
  else if ¬ s.storeUp p ∨ x.exp.isSome ∨ ¬ x.exportStep (ceArg e) then s.refuseCmd i 0x8332
  else
    (s.updSlot p (fun x =>
      { x with exp := some { qp := i, id := fld e 503 488, step := ceArg e },
               chips := tmap (fun _ c => { c with shards := c.shards.map (fun h => { h with exported := some (ceArg e) }) }) x.chips })).exportPump p

def execCheckpointExport (qp : QPair) (e : BitVec 512) (s : State) : Res := .next (s.runCmd qp 3 e (fun s i => s.exportCmd e i))

/-! ### Import -/

/-- The import ends without a state: the slot stays Granted. -/
def State.importFail (s : State) (p : Nat) : State :=
  match (s.slot p).imp with
  | none => s
  | some m => State.pumpPair 5000 ((s.updSlot p (fun x => { x with imp := none })).refuseCmd m.qp 0x8333) m.qp

/-- An import whose store is no longer reached can be offered no part. -/
def State.importPump (s : State) (p : Nat) : State :=
  if (s.slot p).imp.isSome ∧ ¬ s.storeUp p then s.importFail p else s

/-- Writes an imported part. -/
def State.importPart (s : State) (p : Nat) (k : Nat × Nat × Nat) (ws : List Code160) : State :=
  if 14 ≤ k.2.2 then
    let (a, _) := s.copyAt p k.1 k.2.1 k.2.2
    s.putWords p (ws.mapIdx (fun i w => (a + 16 * i, w)))
  else
    match (s.shardIx p k.2.1 k.1).bind (fun i => s.shard? p k.2.1 i) with
    | some h =>
      let a := partAt h.desc (s.slot p).thin k.2.2 / 16
      (ws.mapIdx (fun i w => (i, w))).foldl (fun s (i, w) => s.ssPut p k.2.1 (a + i) w) s
    | none => s

/-- Every part is there: the image is loaded at the step, the parts are written, touched bitmaps are cleared, an alternate copy
follows from the masters, and the slot runs. -/
def State.importDone (s : State) (p : Nat) (m : Import) : State :=
  let s := s.updSlot p (fun x => { x with imp := none })
  let s := (s.loadShell p m.image m.step).loadRates p m.image
  let alts := (s.shardList p).filter (fun (n, i) => match s.shard? p n i with | some h => decide (dAlt h.desc ≠ 0) | none => false)
  let s := (m.done.filter (fun k => decide (k.1.2.2 < 14))).foldl (fun s k => s.importPart p k.1 k.2) s
  let s := (s.shardList p).foldl (fun s (n, i) => match s.shard? p n i with | some h => (s.clearTouched p n h.desc).1 | none => s) s
  let s := alts.foldl (fun s (n, i) => (s.copyFromMasters p n i m.step).1) s
  let s := (m.done.filter (fun k => decide (14 ≤ k.1.2.2))).foldl (fun s k => s.importPart p k.1 k.2) s
  State.pumpPair 5000 ((s.slotTo p .running).finish m.qp 0 0) m.qp

/-- Asks the store for every part of the loading image's shards. -/
def State.importStart (s : State) (e : BitVec 512) (i p : Nat) (im : Image) : State :=
  let ks := (imSets im).flatMap (imParts im)
  let s := s.updSlot p (fun x => { x with imp := some ⟨i, fld e 503 488, im, ceArg e, ks.map (fun k => (k, imPartLen im k)), [], []⟩ })
  ks.foldl (fun s k => s.sendStore p [recHdr 6 k.1 k.2.1 k.2.2 (ceArg e) 0 (imPartLen im k / 2)]) s

/-- EXPORTED_PART: words of a part that the import awaits. -/
def State.exportedPart (s : State) (p : Nat) (m : RecMsg) : State :=
  match (s.slot p).imp with
  | none => s
  | some im =>
    if im.todo.any (fun t => decide (t.1 = rhKey m)) ∧ rhStep m = im.step then
      s.updSlot p (fun x => { x with imp := some { im with rx := addRx im.rx (rhKey m) m.words } })
    else s
def execExportedPart (p : Nat) (m : RecMsg) (s : State) : Res :=
  .next (if s.takes p 5 m then (s.gotMsg p m).exportedPart p m else s)

/-- PART_DIGEST over F: the part is whole and its digest agrees, or the import fails. -/
def State.importDigest (s : State) (p : Nat) (m : RecMsg) : State :=
  match (s.slot p).imp with
  | none => s
  | some im =>
    match im.todo.find? (fun t => decide (t.1 = rhKey m)) with
    | none => s
    | some t =>
      let ws := rxOf im.rx t.1
      let d := s.storeDigest p t.1 im.step ws
      if rhStep m ≠ im.step then s
      else if ws.length ≠ t.2 ∨ lanesOf m ≠ (d.lane0, d.lane1) then s.importFail p
      else
        let im := { im with todo := im.todo.erase t, rx := im.rx.filter (fun r => decide (r.1 ≠ t.1)), done := im.done ++ [(t.1, ws)] }
        if im.todo = [] then s.importDone p im else s.updSlot p (fun x => { x with imp := some im })

/-- PART_DIGEST: over F (`f`) it belongs to an import, over M to a rejoin. -/
def execPartDigest (p : Nat) (f : Bool) (m : RecMsg) (s : State) : Res :=
  .next (if s.takes p 0x15 m then (if f then (s.gotMsg p m).importDigest p m else (s.gotMsg p m).partDigestMsg p m) else s)

/-! ### LOAD_IMAGE (Table 14.12) -/

/-- The code that refuses a load, 0 where none does; `im` none: the host buffer could not be read. -/
def State.loadCode (s : State) (p : Nat) (e : BitVec 512) (im : Option Image) : Nat :=
  let x := s.slot p
  if x.state ≠ .granted ∧ x.state ≠ .restored then 0x3107
  else match im with
    | none => 0x6101
    | some im =>
      if ¬ versionOk im then 0x6102
      else if ¬ imFormed im (ceLen e) (decide (x.state = .granted) && decide (ceArg e = newRun)) then 0x6103
      else if x.state = .restored ∧ sha384 im.bytes ≠ x.measure then 0x3114
      else s.imageCheck p im

/-- LOAD_IMAGE: a new run takes the image's state. A step takes it from a checkpoint store, since a slot that was Granted holds
no state of R464 of its own; without a store, or without a shard on this module, the step has its sources or has none. -/
def State.loadImage (s : State) (e : BitVec 512) (im : Option Image) (i : Nat) : State :=
  let p := pairSlot i
  let c := s.loadCode p e im
  if c ≠ 0 then s.refuseCmd i c
  else match im with
    | none => s
    | some im =>
      if (s.slot p).state = .restored then (s.loadRestored p im).finish i 0 0
      else if ceArg e = newRun then (s.loadNew p im (imStart im)).finish i 0 0
      else if imDescs im = [] then (s.loadNew p im (ceArg e)).finish i 0 0
      else if s.storeUp p then s.importStart e i p im
      else s.refuseCmd i 0x8331

def execLoadImage (qp : QPair) (e : BitVec 512) (im : Option Image) (s : State) : Res :=
  .next (s.runCmd qp 1 e (fun s i => s.loadImage e im i))

/-! ### CHECKPOINT_META (Table 14.13) -/

/-- The entry of a shard. -/
def State.metaEntry (s : State) (p n : Nat) (h : Shard) : List Byte :=
  let d := h.desc
  bytesLE 32 (dTensor d * 2 ^ 232 + n % 4 * 2 ^ 230 + dRule d * 2 ^ 226 + s.half (s.chipSlot p n).retention * 2 ^ 224
    + h.count % 2 ^ 64 * 2 ^ 128 + dOff d * 2 ^ 88 + dLen d * 2 ^ 48)

def State.metaCmd (s : State) (e : BitVec 512) (i : Nat) : State :=
  let p := pairSlot i
  let x := s.slot p
  let ents := x.shards.map (fun h => s.metaEntry p h.1 h.2)
  if x.state ≠ .running ∧ x.state ≠ .halted ∧ x.state ≠ .restored then s.refuseCmd i 0x3107
  else if ceLen e < 32 * ents.length then s.refuseCmd i 0x6101
  else ({ s with out := { s.out with written := s.out.written ++ [(ceAddr e, ents.flatten)] } }).finish i 0 (32 * ents.length)

def execCheckpointMeta (qp : QPair) (e : BitVec 512) (s : State) : Res := .next (s.runCmd qp 2 e (fun s i => s.metaCmd e i))

end Sys2Proof.Machine
end

