-- ==== Sys2Proof/Machine/Mgmt.lean ====
section
/-! DEFINITION. The management transport and remote access over Halyard (14 R546 to R553, R556). -/

namespace Sys2Proof.Machine

/-! ### Management frames (R547 to R549) -/

/-- The key of a principal on the management transport: HKDF of the chassis key with info "CLH-MGMT" and the principal. -/
def mgmtKey (chassis : List Byte) (principal : Nat) : List Byte :=
  hkdf384 [] chassis (label [0x43, 0x4C, 0x48, 0x2D, 0x4D, 0x47, 0x4D, 0x54] ++ bytesLE 1 principal) 48

/-- The addresses of the management port by slot ID: MAC, IPv6 link-local, and the UDP port (R546). A frame of the model is the
payload behind them (log 41). -/
def State.mgmtMac (s : State) : List Nat := [0x02, 0xC9, 0x60, 0, 0, s.pins.slotId]
def State.mgmtIp (s : State) : List Nat := [0xFE, 0x80, 0, 0, 0, 0, 0, 0, 0xC9, 0x60, 0, 0, 0, 0, 0, s.pins.slotId]
def mgmtPort : Nat := 44960

/-- A payload around a header and data, tagged with a key where one is given. -/
def mgmtPayload (hdr data : List Byte) (key : Option (List Byte)) : List Byte :=
  let body := [0x53#8, 0x42#8, 0x00#8, 0x04#8, 0#8, 0#8, 0#8, 0#8] ++ hdr ++ data
  match key with
  | some k => body ++ hmac384 k body
  | none => body

/-- A frame that is discarded without a response is counted in 0x1030:01. -/
def State.dropFrame (s : State) : State := { s with mgmt := { s.mgmt with ctrs := addAt s.mgmt.ctrs 0 1 } }

/-- PRINCIPAL of a frame's header. -/
def framePrincipal (f : List Byte) : Nat := (f.getD 38 0).toNat / 32

/-- Whether a frame is well formed: MAGIC, major version 4, zero bytes, RESPONSE and STATUS zero, and the length its header
states, with a tag for every principal but anonymous. -/
def frameOk (f : List Byte) : Bool :=
  let h := (f.drop 8).take 32
  let w : BitVec 256 := BitVec.ofNat 256 (leNat h)
  decide (leNat (f.take 2) = 0x4253) && decide (leNat ((f.drop 2).take 2) / 256 = 4) && decide (leNat ((f.drop 4).take 4) = 0)
    && decide (fld w 240 224 = 0)
    && decide (f.length = 40 + hdrLength h + (if framePrincipal f = 7 then 0 else 48))

/-- Sends a response and keeps it with its frame where `keep`. -/
def State.sendFrame (s : State) (r : Request) (nonce : Word64) (sq : Nat) (key : Option (List Byte)) (keep : Option (List Byte)) : State :=
  let x := s.out.response.getD { status := .ok }
  let pay := mgmtPayload (respHeader r x nonce sq) x.data key
  let s := { s with out := { s.out with frames := s.out.frames ++ [pay] } }
  match keep with
  | some f => { s with mgmt := { s.mgmt with lastFrame := tput s.mgmt.lastFrame r.principal f, lastResp := tput s.mgmt.lastResp r.principal pay } }
  | none => s

/-- An anonymous frame: READ and NEXT of what Table 14.16 opens, with BOOT_NONCE and SEQ zero (R549). -/
def State.anonFrame (s : State) (r : Request) : State :=
  let via : Via := ⟨.mgmt, .anonymous, 0⟩
  if (r.op ≠ .read ∧ r.op ≠ .next) ∨ r.bootNonce ≠ 0 ∨ r.seq ≠ 0 ∨ s.mod.limited then s.dropFrame
  else if s.mod.state = .dipping then ((s.answer .busy).echo r).sendFrame r 0 0 none none
  else if r.op = .read ∧ s.accFor via r.index r.sub = .none then s.dropFrame
  else (s.request via r).sendFrame r 0 0 none none

/-- The principal of a number on this transport; the vendor only in a session (R550). -/
def State.mgmtWho (s : State) (n : Nat) : Option Principal :=
  match n with
  | 0 => some .host
  | 2 => some .maint
  | 3 => if s.mgmt.vendorOpen && !s.mod.limited then some .vendor else none
  | _ => none

/-- An authenticated frame: BUSY while Dipping, a repeat is answered as before, a stale nonce or SEQ with NONCE, else it is
served (R531, R533, R548). -/
def State.authFrame (s : State) (f : List Byte) (r : Request) (key : List Byte) : State :=
  let last := tget s.mgmt.lastSeq r.principal 0
  if s.mod.state = .dipping then ((s.answer .busy).echo r).sendFrame r r.bootNonce r.seq (some key) none
  else if tget? s.mgmt.lastFrame r.principal = some f then
    { s with out := { s.out with frames := s.out.frames ++ [tget s.mgmt.lastResp r.principal []] } }
  else if r.bootNonce ≠ s.mod.nonce ∨ (tget? s.mgmt.lastSeq r.principal ≠ none ∧ r.seq ≤ last) then
    ((s.answer .nonce).echo r).sendFrame r s.mod.nonce last (some key) none
  else
    let s := { s with mgmt := { s.mgmt with lastSeq := tput s.mgmt.lastSeq r.principal r.seq } }
    let s := match s.mgmtWho r.principal with
      | none => (s.answer .accessDenied).echo r
      | some who =>
        if dataLimit .mgmt < r.data.length then (s.answer .lengthMismatch).echo r else s.request ⟨.mgmt, who, 0⟩ r
    s.sendFrame r r.bootNonce r.seq (some key) (if s.mod.state = .dipping then none else some f)

/-- MANAGEMENT_FRAME: `d` is what is measured in a dip that the frame's request starts. -/
def State.mgmtFrame (s : State) (f : List Byte) (d : DipObs) : State :=
  if s.mod.state = .dark ∨ s.mgmt.silent then s
  else if ¬ frameOk f then s.dropFrame
  else
    let h := (f.drop 8).take 32
    let r := parseReq h ((f.drop 40).take (hdrLength h)) d
    if r.principal = 7 then s.anonFrame r
    else
      match s.mgmt.chassisKey with
      | none => s.dropFrame
      | some ck =>
        let key := mgmtKey ck r.principal
        if hmac384 key (f.take (f.length - 48)) ≠ f.drop (f.length - 48) then s.dropFrame else s.authFrame f r key
def execManagementFrame (f : List Byte) (d : DipObs) (s : State) : Res := .next (s.mgmtFrame f d)

/-! ### Remote access (R552, R553, R556) -/

/-- A VC 4 message that is discarded is counted in 0x1030:02. -/
def State.dropRemote (s : State) : State := { s with mgmt := { s.mgmt with ctrs := addAt s.mgmt.ctrs 1 1 } }

/-- Bytes of a message after its first data unit. -/
def remoteBytes (p : Packet) : List Byte := p.units.tail.flatMap (fun u => bytesLE 32 u.toNat)

/-- Whether a packet is a whole message of a KIND, with the rest of its first unit zero. -/
def remoteIs (p : Packet) (kind : Nat) : Bool :=
  let u := p.units.headD 0
  bit p.hdr 243 && decide (fld u 7 0 = kind) && decide (fld u 255 24 = 0) && decide (2 ≤ p.units.length)

/-- The outcome of a peer's request: VERSION, ACCESS_DENIED where PRINCIPAL is not 4, NONCE, or the operation's. -/
def State.serveRemote (s : State) (k : Nat) (p : Packet) (r : Request) : State :=
  let slot := (s.slotOfTenant (hTenantOf p)).getD 16
  if fld (p.units.headD 0) 23 16 ≠ 4 then (s.answer .version).echo r
  else if r.principal ≠ 4 then (s.answer .accessDenied).echo r
  else if r.bootNonce ≠ s.mod.nonce then (s.answer .nonce).echo r
  else if dataLimit (.halyard k) < r.data.length then (s.answer .lengthMismatch).echo r
  else s.request ⟨.halyard k, .peer, slot⟩ r

/-- Sends the response to SRC_POS and SRC_RING on VC 4 with the request's ROUTE. -/
def State.answerRemote (s : State) (p : Packet) (r : Request) : State :=
  let x := s.out.response.getD { status := .ok }
  let ring := fld p.hdr 226 226; let pos := fld p.hdr 232 227; let route := bit p.hdr 241
  let units := bookUnit 2 :: byteUnits (respHeader r x (if x.status = .nonce then s.mod.nonce else r.bootNonce) r.seq ++ x.data)
  match s.route 4 (s.encFor (hTenantOf p) 4) false ring pos route with
  | some j => s.sendUnits j 4 route ring pos (hTenantOf p) units
  | none => s

/-- A request from a peer. -/
def State.remoteRequest (s : State) (k : Nat) (p : Packet) : State :=
  let s := s.freeRx k 4 (pkUnits p)
  if ¬ remoteIs p 1 then s.dropRemote
  else
    let b := remoteBytes p
    let r := parseReq (b.take 32) (b.drop 32) {}
    (s.serveRemote k p r).answerRemote p r
def execRemoteRequest (k : Nat) (pk : Packet) (s : State) : Res :=
  .next (s.receive k pk [9] true (fun p s => if hVc p = 4 then s.remoteRequest k p else s.freeRx k (hVc p) (pkUnits p)))

/-- A response from a peer: NONCE gives its boot nonce, and the read of its chain is repeated; a segment of the chain is
appended, and the next is asked for until one comes empty (R503 step 1, R553). -/
def State.remoteResponse (s : State) (k : Nat) (p : Packet) : State :=
  let s := s.freeRx k 4 (pkUnits p)
  if ¬ remoteIs p 2 then s.dropRemote
  else
    let b := remoteBytes p
    let w : BitVec 256 := BitVec.ofNat 256 (leNat (b.take 32))
    let ring := fld p.hdr 226 226; let pos := fld p.hdr 232 227; let key := peerKey ring pos
    let st := fld w 239 224
    let mine := decide (fld w 223 208 = 0x3810) && decide (fld w 207 200 = 1) && decide (fld w 255 248 = 3) && bit w 240
    if ¬ mine then s
    else if st = 7 then
      let was := tget s.peerNonce key 0
      let s := { s with peerNonce := tput s.peerNonce key (BitVec.ofNat 64 (fld w 127 64)) }
      if was = BitVec.ofNat 64 (fld w 127 64) then s else s.fetchChain ring pos (hTenantOf p)
    else if st ≠ 0 ∨ fld w 183 160 ≠ (tget s.peerChain key []).length then s
    else
      let data := (b.drop 32).take (fld w 159 144)
      let s := { s with peerChain := tput s.peerChain key (tget s.peerChain key [] ++ data) }
      if data = [] then s else s.fetchChain ring pos (hTenantOf p)
def execRemoteResponse (k : Nat) (pk : Packet) (s : State) : Res :=
  .next (s.receive k pk [9] true (fun p s => if hVc p = 4 then s.remoteResponse k p else s.freeRx k (hVc p) (pkUnits p)))

end Sys2Proof.Machine
end

