-- ==== Sys2Proof/Machine/Report.lean ====
section
/-! DEFINITION. Attestation reports: the measurements and the signed report (R519, R520, Table 13.12). -/

namespace Sys2Proof.Machine

/-- The entries of CONFIG_MEASURE: every flash-class subindex in ascending order, with its value as a read returns it. -/
def State.configEntries (s : State) : List Byte :=
  fams.flatMap (fun f => (List.range f.n).flatMap (fun k =>
    f.subs.flatMap (fun e =>
      if e.persist ≠ 2 then []
      else (List.range (e.hi + 1 - e.lo)).flatMap (fun j =>
        let sub := e.lo + j
        let v := s.value (f.base + k) sub f e
        bytesLE 2 (f.base + k) ++ bytesLE 1 sub ++ bytesLE 2 v.length ++ v))))

/-- SEC_VERSION of the running firmware image. -/
def State.fwSecNow (s : State) : Nat := ((s.fw.slots.getD s.fw.active none).map fwSec).getD 0

/-- Bytes 0 to 271 of a report: of the module, or of slot p. -/
def State.reportBody (s : State) (p : Option Nat) (nonce : List Byte) : List Byte :=
  let x := match p with | some p => s.slot p | none => {}
  let b := match p with | some p => bytesLE 32 (s.slot p).burgee.toNat | none => []
  let program := match p with
    | some _ => if x.image.isSome ∧ x.imp = none then hashOctets x.measure else List.replicate 48 0#8
    | none => List.replicate 48 0#8
  let flags := b2n x.imp.isSome + 2 * b2n (decide (s.mod.state = .halfMast))
  bytesLE 2 1 ++ bytesLE 1 (if p.isSome then 2 else 1) ++ bytesLE 1 (p.getD 0xFF) ++ bytesLE 3 x.tenant ++ bytesLE 1 0
    ++ bytesLE 8 s.mod.serial.toNat ++ fitTo 16 s.mod.ordering ++ bytesLE 1 s.mod.boardRev ++ bytesLE 1 s.mod.stepping
    ++ bytesLE 2 0x0203 ++ bytesLE 4 s.fwSecNow ++ bytesLE 2 (if p.isSome then bGranules x.burgee else 0)
    ++ bytesLE 1 (if p.isSome then mirrorStateNum x.mirror.state else 0) ++ bytesLE 1 flags ++ bytesLE 2 s.activeTiles ++ bytesLE 2 0
    ++ fitTo 32 nonce ++ hashOctets s.fw.measure ++ hashOctets (sha384 (s.configEntries ++ b)) ++ program
    ++ hashOctets (sha384 ensignPub)

/-- The 368 bytes of a report. -/
def State.report (s : State) (p : Option Nat) (nonce : List Byte) : List Byte :=
  let b := s.reportBody p nonce
  b ++ ensignSign b

/-- The newest nonce has its report. -/
def Attest.ready (a : Attest) (r : List Byte) : Attest := { a with nonce := none, report := r, done := (a.done + 1) % 2 ^ 32 }

/-- REPORT_READY: the report of the newest nonce, of the module (none) or of a slot, is complete. -/
def State.reportReady (s : State) (p : Option Nat) : State :=
  match p with
  | none => match s.modAttest.nonce with
    | some n => { s with modAttest := s.modAttest.ready (s.report none n) }
    | none => s
  | some q => if 16 ≤ q then s else match (s.slot q).attest.nonce with
    | some n => let r := s.report p n; s.updSlot q (fun x => { x with attest := x.attest.ready r })
    | none => s

def execReportReady (p : Option Nat) (s : State) : Res := .next (s.reportReady p)

end Sys2Proof.Machine
end

