-- ==== Sys2Proof/Machine/Dispatch.lean ====
section
/-! DEFINITION. The dispatch of a command to its meaning. -/

namespace Sys2Proof.Machine

def exec (i : Instr) (s : State) : Host.Outcome State Fault Refusal :=
  match i with
  | .handshakeStep e o => Sys2Proof.Machine.execHandshakeStep e o s
  | .calibrationWindowEnd n count => Sys2Proof.Machine.execCalibrationWindowEnd n count s
  | .recalibrationDue n => Sys2Proof.Machine.execRecalibrationDue n s
  | .regionSample q xs => Sys2Proof.Machine.execRegionSample q xs s
  | .regionStep q a b count => Sys2Proof.Machine.execRegionStep q a b count s
  | .regionCapRelease q a b => Sys2Proof.Machine.execRegionCapRelease q a b s
  | .crossingFreeze x => Sys2Proof.Machine.execCrossingFreeze x s
  | .crossingResume x => Sys2Proof.Machine.execCrossingResume x s
  | .crossingFrozenTimeout a b => Sys2Proof.Machine.execCrossingFrozenTimeout a b s
  | .seedCommit via p e => Sys2Proof.Machine.execSeedCommit via p e s
  | .matrix c d plan flips => Sys2Proof.Machine.execMatrix c d plan flips s
  | .windowFwd c d plan flips => Sys2Proof.Machine.execWindowFwd c d plan flips s
  | .windowWgrad c d plan flips => Sys2Proof.Machine.execWindowWgrad c d plan flips s
  | .flyLaneCheck t => Sys2Proof.Machine.execFlyLaneCheck t s
  | .laneAdd c a => Sys2Proof.Machine.execLaneAdd c a s
  | .laneSub c a => Sys2Proof.Machine.execLaneSub c a s
  | .laneMul c a => Sys2Proof.Machine.execLaneMul c a s
  | .laneFma c a => Sys2Proof.Machine.execLaneFma c a s
  | .laneMin c a => Sys2Proof.Machine.execLaneMin c a s
  | .laneMax c a => Sys2Proof.Machine.execLaneMax c a s
  | .laneCompare c a p => Sys2Proof.Machine.execLaneCompare c a p s
  | .laneSelect c a => Sys2Proof.Machine.execLaneSelect c a s
  | .laneAbs c a => Sys2Proof.Machine.execLaneAbs c a s
  | .laneNeg c a => Sys2Proof.Machine.execLaneNeg c a s
  | .laneCopysign c a => Sys2Proof.Machine.execLaneCopysign c a s
  | .laneConvert c a v => Sys2Proof.Machine.execLaneConvert c a v s
  | .laneExp2 c a => Sys2Proof.Machine.execLaneExp2 c a s
  | .laneExp c a => Sys2Proof.Machine.execLaneExp c a s
  | .laneRcp c a => Sys2Proof.Machine.execLaneRcp c a s
  | .laneRsqrt c a => Sys2Proof.Machine.execLaneRsqrt c a s
  | .laneSqrt c a => Sys2Proof.Machine.execLaneSqrt c a s
  | .laneDiv c a => Sys2Proof.Machine.execLaneDiv c a s
  | .laneSigmoid c a => Sys2Proof.Machine.execLaneSigmoid c a s
  | .laneRowReduce c a op byCol => Sys2Proof.Machine.execLaneRowReduce c a op byCol s
  | .laneDraw c a v => Sys2Proof.Machine.execLaneDraw c a v s
  | .softMaximum c a => Sys2Proof.Machine.execSoftMaximum c a s
  | .rmsNormBwd c a => Sys2Proof.Machine.execRmsNormBwd c a s
  | .layerNormBwd c a => Sys2Proof.Machine.execLayerNormBwd c a s
  | .softmaxBwd c a => Sys2Proof.Machine.execSoftmaxBwd c a s
  | .hset c n w => Sys2Proof.Machine.execHset c n w s
  | .halloc c a => Sys2Proof.Machine.execHalloc c a s
  | .hclear c n => Sys2Proof.Machine.execHclear c n s
  | .wset c w e => Sys2Proof.Machine.execWset c w e s
  | .remoteTileRead c h off len => Sys2Proof.Machine.execRemoteTileRead c h off len s
  | .creq c h first count => Sys2Proof.Machine.execCreq c h first count s
  | .creditGrant t area => Sys2Proof.Machine.execCreditGrant t area s
  | .cdlv c h first count => Sys2Proof.Machine.execCdlv c h first count s
  | .crel c area first count => Sys2Proof.Machine.execCrel c area first count s
  | .creditHoldTimeout t area first count => Sys2Proof.Machine.execCreditHoldTimeout t area first count s
  | .hoist c d => Sys2Proof.Machine.execHoist c d s
  | .spill c d => Sys2Proof.Machine.execSpill c d s
  | .tileRead c d => Sys2Proof.Machine.execTileRead c d s
  | .tileWrite c d => Sys2Proof.Machine.execTileWrite c d s
  | .windowWrite c d => Sys2Proof.Machine.execWindowWrite c d s
  | .queuePush c d => Sys2Proof.Machine.execQueuePush c d s
  | .queuePop c d => Sys2Proof.Machine.execQueuePop c d s
  | .tierPush c d => Sys2Proof.Machine.execTierPush c d s
  | .sadv c id => Sys2Proof.Machine.execSadv c id s
  | .transferComplete t id => Sys2Proof.Machine.execTransferComplete t id s
  | .streamAnswerTimeout t id sq => Sys2Proof.Machine.execStreamAnswerTimeout t id sq s
  | .drainRateUpdate t id => Sys2Proof.Machine.execDrainRateUpdate t id s
  | .arbiterGrant x => Sys2Proof.Machine.execArbiterGrant x s
  | .staleNotice t id unit => Sys2Proof.Machine.execStaleNotice t id unit s
  | .leaseRefetchDone t id unit => Sys2Proof.Machine.execLeaseRefetchDone t id unit s
  | .leaseRelease t ev => Sys2Proof.Machine.execLeaseRelease t ev s
  | .pageMove q n d => Sys2Proof.Machine.execPageMove q n d s
  | .tailTimeout q n => Sys2Proof.Machine.execTailTimeout q n s
  | .forwardPassIssue p b => Sys2Proof.Machine.execForwardPassIssue p b s
  | .backwardPassIssue p b mb => Sys2Proof.Machine.execBackwardPassIssue p b mb s
  | .passRelease id => Sys2Proof.Machine.execPassRelease id s
  | .gatherPass p tensor mb stp => Sys2Proof.Machine.execGatherPass p tensor mb stp s
  | .retryAttempt id => Sys2Proof.Machine.execRetryAttempt id s
  | .stackWrite n a who w nz => Sys2Proof.Machine.execStackWrite n a who w nz s
  | .stackRead n a who nz => Sys2Proof.Machine.execStackRead n a who nz s
  | .cacheRead q p n a nz => Sys2Proof.Machine.execCacheRead q p n a nz s
  | .cacheFill q p n a => Sys2Proof.Machine.execCacheFill q p n a s
  | .scrubPassStart u => Sys2Proof.Machine.execScrubPassStart u s
  | .scrubUnit n noise again => Sys2Proof.Machine.execScrubUnit n noise again s
  | .pseudoChannelMoveDone n => Sys2Proof.Machine.execPseudoChannelMoveDone n s
  | .cartridgeScrubUnit n noise again => Sys2Proof.Machine.execCartridgeScrubUnit n noise again s
  | .bankIdleProposal n pc bank => Sys2Proof.Machine.execBankIdleProposal n pc bank s
  | .bankWake n pc bank => Sys2Proof.Machine.execBankWake n pc bank s
  | .push p chip m => Sys2Proof.Machine.execPush p chip m s
  | .heldPushAdd p chip ix => Sys2Proof.Machine.execHeldPushAdd p chip ix s
  | .reductionContribution p src m => Sys2Proof.Machine.execReductionContribution p src m s
  | .reductionResult p src m => Sys2Proof.Machine.execReductionResult p src m s
  | .updateStart p chip ix => Sys2Proof.Machine.execUpdateStart p chip ix s
  | .exchange p chip ix src m => Sys2Proof.Machine.execExchange p chip ix src m s
  | .ownerExchangeTimeout p chip ix => Sys2Proof.Machine.execOwnerExchangeTimeout p chip ix s
  | .permit p chip set stp => Sys2Proof.Machine.execPermit p chip set stp s
  | .writeback p chip ix => Sys2Proof.Machine.execWriteback p chip ix s
  | .done p src set stp => Sys2Proof.Machine.execDone p src set stp s
  | .load p chip m => Sys2Proof.Machine.execLoad p chip m s
  | .scheduleCommit via p k e => Sys2Proof.Machine.execScheduleCommit via p k e s
  | .lightDetected k => Sys2Proof.Machine.execLightDetected k s
  | .lossOfLight k => Sys2Proof.Machine.execLossOfLight k s
  | .trainingStepTimeout k => Sys2Proof.Machine.execTrainingStepTimeout k s
  | .codewordReceive k cw => Sys2Proof.Machine.execCodewordReceive k cw s
  | .retryRequest k sq => Sys2Proof.Machine.execRetryRequest k sq s
  | .retryRequestTimeout k => Sys2Proof.Machine.execRetryRequestTimeout k s
  | .linkHoldTimeout k => Sys2Proof.Machine.execLinkHoldTimeout k s
  | .transmitPacket k => Sys2Proof.Machine.execTransmitPacket k s
  | .queueData k pk => Sys2Proof.Machine.execQueueData k pk s
  | .windowWritePacket k pk => Sys2Proof.Machine.execWindowWritePacket k pk s
  | .windowAck k pk => Sys2Proof.Machine.execWindowAck k pk s
  | .windowRefuse k pk => Sys2Proof.Machine.execWindowRefuse k pk s
  | .frame pk => Sys2Proof.Machine.execFrame pk s
  | .streamDeclare pk => Sys2Proof.Machine.execStreamDeclare pk s
  | .credit k pk => Sys2Proof.Machine.execCredit k pk s
  | .creditReturnTimeout k => Sys2Proof.Machine.execCreditReturnTimeout k s
  | .caps k pk => Sys2Proof.Machine.execCaps k pk s
  | .topology k a => Sys2Proof.Machine.execTopology k a s
  | .insertPermit via v => Sys2Proof.Machine.execInsertPermit via v s
  | .joinHold via v => Sys2Proof.Machine.execJoinHold via v s
  | .bypassSwitchFault => Sys2Proof.Machine.execBypassSwitchFault s
  | .digestRecord p d => Sys2Proof.Machine.execDigestRecord p d s
  | .digestWaitTimeout p id => Sys2Proof.Machine.execDigestWaitTimeout p id s
  | .probe p m => Sys2Proof.Machine.execProbe p m s
  | .probeAnswer p m => Sys2Proof.Machine.execProbeAnswer p m s
  | .probeTimeout p => Sys2Proof.Machine.execProbeTimeout p s
  | .halt p m => Sys2Proof.Machine.execHalt p m s
  | .target p ring pos m => Sys2Proof.Machine.execTarget p ring pos m s
  | .retainedChunk p m => Sys2Proof.Machine.execRetainedChunk p m s
  | .selfTest p m own => Sys2Proof.Machine.execSelfTest p m own s
  | .rollbackResume via p => Sys2Proof.Machine.execRollbackResume via p s
  | .rejoinSource via p v => Sys2Proof.Machine.execRejoinSource via p v s
  | .boundary p ring m => Sys2Proof.Machine.execBoundary p ring m s
  | .workingCopyMessage p m => Sys2Proof.Machine.execWorkingCopyMessage p m s
  | .scaleTableMessage p m => Sys2Proof.Machine.execScaleTableMessage p m s
  | .stateMessage p m => Sys2Proof.Machine.execStateMessage p m s
  | .partDigest p f m => Sys2Proof.Machine.execPartDigest p f m s
  | .reloadDone p m => Sys2Proof.Machine.execReloadDone p m s
  | .exportedPart p m => Sys2Proof.Machine.execExportedPart p m s
  | .spareMapping q g t lost => Sys2Proof.Machine.execSpareMapping q g t lost s
  | .strike => Sys2Proof.Machine.execStrike s
  | .grant via p => Sys2Proof.Machine.execGrant via p s
  | .release via p => Sys2Proof.Machine.execRelease via p s
  | .haltCommand via p => Sys2Proof.Machine.execHaltCommand via p s
  | .resume via p => Sys2Proof.Machine.execResume via p s
  | .keyOffer k => Sys2Proof.Machine.execKeyOffer k s
  | .keyAgreementRetry p => Sys2Proof.Machine.execKeyAgreementRetry p s
  | .meterSnapshot via p => Sys2Proof.Machine.execMeterSnapshot via p s
  | .firmwareImageWrite via f => Sys2Proof.Machine.execFirmwareImageWrite via f s
  | .firmwareActivate via => Sys2Proof.Machine.execFirmwareActivate via s
  | .firmwareCommit via => Sys2Proof.Machine.execFirmwareCommit via s
  | .attestationNonce via p nonce => Sys2Proof.Machine.execAttestationNonce via p nonce s
  | .reportReady p => Sys2Proof.Machine.execReportReady p s
  | .checkpointKeyInstall via p v => Sys2Proof.Machine.execCheckpointKeyInstall via p v s
  | .chassisKeyWrite via v => Sys2Proof.Machine.execChassisKeyWrite via v s
  | .vendorUnlock via v => Sys2Proof.Machine.execVendorUnlock via v s
  | .vendorSessionEnd via => Sys2Proof.Machine.execVendorSessionEnd via s
  | .read via r => Sys2Proof.Machine.execRead via r s
  | .write via r => Sys2Proof.Machine.execWrite via r s
  | .readSegment via r => Sys2Proof.Machine.execReadSegment via r s
  | .writeSegment via r => Sys2Proof.Machine.execWriteSegment via r s
  | .writeFinal via r => Sys2Proof.Machine.execWriteFinal via r s
  | .describe via r => Sys2Proof.Machine.execDescribe via r s
  | .next via r => Sys2Proof.Machine.execNext via r s
  | .blobTransferTimeout ix sub => Sys2Proof.Machine.execBlobTransferTimeout ix sub s
  | .registerWrite tr bar off v => Sys2Proof.Machine.execRegisterWrite tr bar off v s
  | .go tr d => Sys2Proof.Machine.execGo tr d s
  | .doneClear tr => Sys2Proof.Machine.execDoneClear tr s
  | .sqTail qp v ents => Sys2Proof.Machine.execSqTail qp v ents s
  | .cqHead qp v => Sys2Proof.Machine.execCqHead qp v s
  | .queuePairDisable qp => Sys2Proof.Machine.execQueuePairDisable qp s
  | .loadImage qp e im => Sys2Proof.Machine.execLoadImage qp e im s
  | .checkpointExport qp e => Sys2Proof.Machine.execCheckpointExport qp e s
  | .checkpointMeta qp e => Sys2Proof.Machine.execCheckpointMeta qp e s
  | .managementFrame f d => Sys2Proof.Machine.execManagementFrame f d s
  | .remoteRequest k pk => Sys2Proof.Machine.execRemoteRequest k pk s
  | .remoteResponse k pk => Sys2Proof.Machine.execRemoteResponse k pk s
  | .turnOn => Sys2Proof.Machine.execTurnOn s
  | .powerOnStepTimeout n => Sys2Proof.Machine.execPowerOnStepTimeout n s
  | .brownout d => Sys2Proof.Machine.execBrownout d s
  | .overvoltage d => Sys2Proof.Machine.execOvervoltage d s
  | .rideThrough => Sys2Proof.Machine.execRideThrough s
  | .thermalSample js => Sys2Proof.Machine.execThermalSample js s
  | .powerCapSample vin w die mw calm => Sys2Proof.Machine.execPowerCapSample vin w die mw calm s
  | .junctionCriticalTimeout d => Sys2Proof.Machine.execJunctionCriticalTimeout d s
  | .regulatorFault d => Sys2Proof.Machine.execRegulatorFault d s
  | .coolantRiseHigh inlet outlet => Sys2Proof.Machine.execCoolantRiseHigh inlet outlet s
  | .vbankLow mv => Sys2Proof.Machine.execVbankLow mv s
  | .prsntNAsserted => Sys2Proof.Machine.execPrsntNAsserted s
  | .prsntNDeasserted d => Sys2Proof.Machine.execPrsntNDeasserted d s
  | .mrstN us d => Sys2Proof.Machine.execMrstN us d s
  | .perst => Sys2Proof.Machine.execPerst s
  | .functionLevelReset fn => Sys2Proof.Machine.execFunctionLevelReset fn s
  | .moduleReset via d => Sys2Proof.Machine.execModuleReset via d s
  | .proving x => Sys2Proof.Machine.execProving x s
  | .provingStepTimeout n => Sys2Proof.Machine.execProvingStepTimeout n s
  | .boundaryScanEntry => Sys2Proof.Machine.execBoundaryScanEntry s
  | .cartridgeRemoved k => Sys2Proof.Machine.execCartridgeRemoved k s
  | .cartridgeInserted k => Sys2Proof.Machine.execCartridgeInserted k s
  | .testMode via v => Sys2Proof.Machine.execTestMode via v s
  | .flyLaneDisabled via v => Sys2Proof.Machine.execFlyLaneDisabled via v s
  | .deepModeTestEnable via v => Sys2Proof.Machine.execDeepModeTestEnable via v s
  | .loopbackStart via k v => Sys2Proof.Machine.execLoopbackStart via k v s
  | .loopbackEnd k res => Sys2Proof.Machine.execLoopbackEnd k res s
  | .spareMapReset via v => Sys2Proof.Machine.execSpareMapReset via v s
  | .stallTileSelect via v => Sys2Proof.Machine.execStallTileSelect via v s
  | .logClear via v => Sys2Proof.Machine.execLogClear via v s
  | .deadlineMiss t id => Sys2Proof.Machine.execDeadlineMiss t id s

end Sys2Proof.Machine
end

