-- ==== Sys2Proof/Machine/Step.lean ====
section
/-! DEFINITION. One step of the module: the oldest waiting command, or, where none waits, the work the module does
unasked. -/

namespace Sys2Proof.Machine

/-- What a slot's engines do unasked (log 1): a rollback, a rejoin, an export and an import go on as far as what has
arrived lets them. -/
def State.slotIdle (s : State) (p : Nat) : State := (((s.rbPump p).rejoinPump p).exportPump p).importPump p

/-- What the module does while no command waits (log 1): a dip that has begun ends, and every slot's engines go on. -/
def State.idle (s : State) : State := (List.range 16).foldl State.slotIdle s.dipEnd

/-- One step: the command at the front of the queue, with the rest of the queue waiting. -/
def step (s : State) : Host.Outcome State Fault Refusal :=
  match s.pending with
  | [] => .next s.idle
  | c :: rest => exec c { s with pending := rest }

/-- The state with the command a table word spells put first; no row of the table has bits, so no word spells one. -/
def State.withFetchWord (s : State) (nbits w : Nat) : State :=
  match decodeTableWord nbits w with
  | some c => { s with pending := c :: s.pending }
  | none => s

end Sys2Proof.Machine
end

