-- ==== Sys2Proof/Machine/Flags.lean ====
section
/-! DEFINITION. Status outputs computed from the state. -/

namespace Sys2Proof.Machine

/-- Whether the module drives FAULT_N low: in Half-mast, Struck and boundary-scan mode (Table of R633, R588). Otherwise the
open-drain output is released; without VCTL it is high-impedance (R634). -/
def State.faultLow (s : State) : Bool :=
  s.mod.boundaryScan || decide (s.mod.state = .halfMast) || decide (s.mod.state = .struck)

end Sys2Proof.Machine
end

