-- ==== Sys2Proof/Safety.lean ====
section
/-! DEFINITION. What counts as a run that goes on, the shape every state of a run has, and when the module serves. -/

namespace Sys2Proof.Safety

open Sys2Proof.Machine

/-- A step goes on: it answers a next state. -/
def Goes (o : Host.Outcome State Fault Refusal) : Prop := ∃ t, o = .next t

/-- The fixed sizes: sixteen pennant slots, a mailbox for the PF and each VF, and the 33 queue pairs. -/
abbrev Shape (s : State) : Prop := s.slots.length = 16 ∧ s.boxes.length = 17 ∧ s.qps.length = 33

/-- The module serves its signal book: neither Dark (R586) nor Dipping (R531), and not in the limited service of R592. -/
abbrev Serves (s : State) : Prop := s.mod.state ≠ .dark ∧ s.mod.state ≠ .dipping ∧ s.mod.limited = false

/-! ### Notions the statements share -/

/-- What a lane-engine operation writes: the cells (row, column, code) of its result rows in the format of its output. -/
def laneCells (fmt : Nat) (rows : List (List Word32)) : List (Nat × Nat × Nat) :=
  (rows.mapIdx (fun i l => l.mapIdx (fun j w => (i, j, (laneCode fmt w).1)))).flatten

/-- What an operation of a pass leaves that ran on physical tile n for a slot: the tile `y`; of its own slot only the format
event meters 0x10 to 0x13 may change, other slots and tiles stay; `val` is what a program gets back; and all else of the state
stays but the count of descriptors of its pass and, where words were merged (R169), what the merge reads ask of the tile's
scratchpad slots. -/
def OpLeaves (s u : State) (n slot mg : Nat) (val : List Word32) (y : Tile) : Prop :=
  u.tile n = y ∧ (∀ m, m ≠ n → u.tile m = s.tile m) ∧ (∀ k, k ≠ slot → u.slot k = s.slot k) ∧
  (∃ v, u.slot slot = { s.slot slot with meters := v } ∧ ∀ j < 15, v.v.getD j 0 = (s.slot slot).meters.v.getD j 0) ∧
  (mg = 0 → u.arbs = s.arbs ∧ u.groups = s.groups) ∧
  u = { s with tiles := u.tiles, slots := u.slots, passes := u.passes, arbs := u.arbs, groups := u.groups,
               out := { s.out with value := val } }

/-- No two accesses of one direction of an issue step meet at a bank (R202). -/
def NoConflict (plan : List (List BankAccess)) : Prop := ∀ l ∈ plan, (stepWaits l).1 = 0

/-- A lane-engine operation runs: where its pass may issue it, its handles name regions that hold its operands `ins` and its
result of extent `ext`, no stream or waiting entry write holds them back (`Tile.ready`, R135), its operands can be read, every
word it writes can be formed and the accesses of its issue steps do not conflict, its result rows are `f` of its operand rows,
stored through its output handle. Its tile then holds the stored words, no wait of the lane engine, its accesses behind those of
the issue steps left, and for each stream what it has read or written of its buffer; the rest is as `OpLeaves` says. -/
def LaneRuns (i : OpCtx → LaneArgs → Instr) (ins : LaneArgs → List (Nat × Nat × Nat)) (ext : LaneArgs → Nat × Nat)
    (fp32 : Bool) (f : State → Pass → LaneArgs → List (List (List Word32)) → List (List Word32)) : Prop :=
  ∀ (s : State) (c : OpCtx) (a : LaneArgs) (x : Pass) (rs : List Region) (o : Region) (xs : List (List (List Word32) × Events)),
    let n := s.phys c.tile
    let t := s.tile n
    let cv := o.cover (laneCells o.fmt (f s x a (xs.map (·.1))))
    let st := storeCover t.mem cv
    let rd := (rs.zip (ins a)).map (fun r => r.1.span r.2.2.1 r.2.2.2)
    let wr := [o.span (ext a).1 (ext a).2]
    let plan := a.plan.map (fun l => l.filter (laneWord t a))
    s.opPass c = some x →
    (ins a).mapM (fun h => laneRegion t h.1 false h.2.1 h.2.2) = .ok rs → laneRegion t a.out true (ext a).1 (ext a).2 = .ok o →
    (fp32 = true → o.fmt = 0) → t.ready rd wr = .ok () →
    (rs.zip (ins a)).mapM (fun r => laneRead t.mem r.1 r.2.2.1 r.2.2.2) = .ok xs → st.2 = [] → NoConflict plan →
    ∃ u y, exec (i c a) s = .next u ∧
      y = { (({ t with mem := st.1, waits := tdel t.waits 1 } : Tile).touch rd wr) with plan := t.plan ++ plan } ∧
      OpLeaves s u n x.slot (merges cv) [] y ∧
      u.passes = (s.ranOp x c.tile (.lane none [a.in1, a.in2, a.in3, a.in4] a.out)).passes

/-- A NaN that an operation passes on is the canonical NaN (R90). -/
def quiet (x : Word32) : Word32 := if (dec32 x).isNan = true then 0x7FC00000#32 else x

/-- Operands of an element-wise operation: the first k input handles at the operation's extent. -/
def ins (k : Nat) (a : LaneArgs) : List (Nat × Nat × Nat) :=
  ([a.in1, a.in2, a.in3, a.in4].take k).map (fun h => (h, a.rows, a.cols))
/-- Element (i, j) of operand k. -/
def el (xs : List (List (List Word32))) (k i j : Nat) : Word32 := ((xs.getD k []).getD i []).getD j 0
/-- The rows of an element-wise operation. -/
def each (a : LaneArgs) (g : Nat → Nat → Word32) : List (List Word32) :=
  (List.range a.rows).map (fun i => (List.range a.cols).map (fun j => g i j))

/-- An element-wise operation of one, two or three operands runs (`LaneRuns`) with the result `g` of its elements. -/
def Unary (i : OpCtx → LaneArgs → Instr) (g : Word32 → Word32) : Prop :=
  LaneRuns i (ins 1) (fun a => (a.rows, a.cols)) false
    (fun _ _ a xs => each a (fun i j => g (el xs 0 i j)))
def Binary (i : OpCtx → LaneArgs → Instr) (fp32 : Bool) (g : Word32 → Word32 → Word32) : Prop :=
  LaneRuns i (ins 2) (fun a => (a.rows, a.cols)) fp32
    (fun _ _ a xs => each a (fun i j => g (el xs 0 i j) (el xs 1 i j)))
def Ternary (i : OpCtx → LaneArgs → Instr) (g : Word32 → Word32 → Word32 → Word32) : Prop :=
  LaneRuns i (ins 3) (fun a => (a.rows, a.cols)) false
    (fun _ _ a xs => each a (fun i j =>
      g (el xs 0 i j) (el xs 1 i j) (el xs 2 i j)))

/-- The issue-time checks of a product of a shape pass (R131 to R135, R149, R173, R182), and `g` is its regions: the descriptor's
fields are defined, the handles name regions of its formats and kinds that hold its operands, an operand read transposed is
tiled, the output meets no input, and no stream or waiting entry write holds it back. -/
def ProductReady (t : Tile) (d : BitVec 192) (z : ProdShape) (g : ProdRegs) : Prop :=
  pOp d = z.op ∧ fld d 118 96 = 0 ∧ fmtDefined (pAFmt d) = true ∧ fmtDefined (pBFmt d) = true ∧ pOutFmt d ≤ 1 ∧
  pInit d ≤ 2 ∧ (pInit d = 2 → pOutFmt d = 0 ∧ ∃ r, t.region (pOut d) false = .ok r) ∧ pM d ≠ 0 ∧ pN d ≠ 0 ∧ pK d ≠ 0 ∧
  t.region (pA d) false = .ok g.a ∧ g.a.check z.ar z.ac = .ok () ∧ g.a.fmt = pAFmt d ∧ (z.aT = true → g.a.tiled = true) ∧
  t.region (pB d) false = .ok g.b ∧ g.b.check z.br z.bc = .ok () ∧ g.b.fmt = pBFmt d ∧ (z.bT = true → g.b.tiled = true) ∧
  t.region (pOut d) true = .ok g.out ∧ g.out.check (pM d) (pN d) = .ok () ∧ g.out.fmt = pOutFmt d ∧
  (if fmtScaled (pAFmt d) then ∃ r, t.scaleRegion (pAScale d) false (pAFmt d) z.al true = .ok r ∧ g.aS = some r else g.aS = none) ∧
  (if fmtScaled (pBFmt d) then ∃ r, t.scaleRegion (pBScale d) false (pBFmt d) z.bl true = .ok r ∧ g.bS = some r else g.bS = none) ∧
  (if pInit d = 1 then ∃ r, t.region (pBias d) false = .ok r ∧ r.check 1 (pN d) = .ok () ∧ r.fmt = 0 ∧ g.bias = some r
    else g.bias = none) ∧
  (∀ r ∈ g.a :: g.b :: (g.aS.toList ++ g.bS.toList ++ g.bias.toList), overlap g.out.whole r.whole = false) ∧
  g.wr = g.out.span (pM d) (pN d) ∧
  g.rd = prodReads d z.ar z.ac z.al z.br z.bc z.bl g.a g.b g.out g.aS g.bS g.bias ∧ t.ready g.rd [g.wr] = .ok ()

/-- A product of a shape runs: where its pass may issue it, its checks pass (`ProductReady`), its window words say the shape
(`shape`), its operands and initial values can be read (`gs` holds each output element's operand pairs by rounding group, `ini`
its initial value), every word it writes can be formed and its accesses do not conflict, each output element is the product's
accumulator (the rounding groups run from the initial value, R107, with the bits that a fault flips, R156), in FP32 as it is or
rounded to BF16. Its tile then holds the stored words, the fragments' checks behind those that wait (none with the fly lane
disabled), the accumulator sets and the drain of its last fragments, its pass, no wait of the cubes and its accesses; the rest
is as `OpLeaves` says. -/
def ProductRuns (i : OpCtx → BitVec 192 → List (List BankAccess) → List Flip → Instr)
    (shape : Tile → BitVec 192 → ProdShape → Prop) : Prop :=
  ∀ (s : State) (c : OpCtx) (d : BitVec 192) (acs : List (List BankAccess)) (fs : List Flip) (x : Pass) (z : ProdShape) (g : ProdRegs)
    (gs : Nat → Nat → List (List (Val × Val))) (ini : Nat → Nat → Word32),
    let n := s.phys c.tile
    let t := s.tile n
    let w := z.walk t.mem g
    let acc := fun i j => flipAcc fs i j (runGroups (ini i j) (gs i j)).1
    let rows := (List.range (pM d)).map (fun i => (List.range (pN d)).map (fun j => (ini i j, acc i j)))
    let cv := g.out.cover ((List.range (pM d)).map (fun i => (List.range (pN d)).map (fun j =>
      (i, j, if pOutFmt d = 0 then (acc i j).toNat else (toIeee shapeBf .even (dec32 (acc i j))).1)))).flatten
    let st := storeCover t.mem cv
    let plan := acs.map (fun l => l.filter (portWord t d))
    s.opPass c = some x → shape t d z → ProductReady t d z g →
    (∀ i < pM d, ∀ j < pN d, w.elem i j = .ok (gs i j) ∧ initOf t.mem d g i j = .ok (ini i j)) → st.2 = [] → NoConflict plan →
    ∃ u y cks, exec (i c d acs fs) s = .next u ∧
      (if s.test.mode && s.test.flyOff then cks = []
        else productChecks ⟨w, g.out, initOf t.mem d g⟩ rows x d = .ok cks ∧
          cks.length = (pM d + 31) / 32 * ((pN d + 31) / 32)) ∧
      y = { (({ t with mem := st.1, checks := t.checks ++ cks, accs := accSets (rows.map (fun l => l.map (·.2))),
                       drain := drainWait d w.groups.length, cur := x.id, waits := tdel t.waits 0 } : Tile).touch g.rd [g.wr]) with
            plan := t.plan ++ plan } ∧
      OpLeaves s u n x.slot (merges cv) [] y ∧ u.passes = (s.ranOp x c.tile (.product d [])).passes

/-- A product whose check fails with a code: a PROGRAM fault, the pennant issues nothing further. -/
def ProductFaults (i : OpCtx → BitVec 192 → List (List BankAccess) → List Flip → Instr)
    (op : BitVec 192 → Bool → List Flip → Pass → Tile → Except OpErr OpDone) : Prop :=
  ∀ (s : State) (c : OpCtx) (d : BitVec 192) (plan : List (List BankAccess)) (fs : List Flip) (x : Pass) (code : Nat),
    s.opPass c = some x → op d (s.test.mode && s.test.flyOff) fs x (s.tile (s.phys c.tile)) = .error (.fault code) →
    s.slots.length = 16 → x.slot < 16 → (s.slot x.slot).mirror.rj = .idle →
    ∃ u, exec (i c d plan fs) s = .next u ∧ (u.slot x.slot).seq.stopped = true ∧ (u.slot x.slot).state = .halted ∧
      u.log.recs.head?.map (fun r => (r.body.code, r.body.handling, r.body.pennant)) = some (code, .program, x.slot) ∧
      u.tiles = s.tiles

/-- The checks of a conversion pass (R110, R115, R182), and `g` is its regions: the control word is defined, the handles name
regions that hold source and target (whole blocks where it is scaled) with their scale arrays, and no stream or waiting entry
write holds it back. -/
def ConvertReady (t : Tile) (a : LaneArgs) (v : ConvArgs) (g : ConvRegs) : Prop :=
  let sf := fld v.word 11 8; let tf := fld v.word 15 12; let n := cvLines v a * cvBlocks v a
  convOk v.word = true ∧
  (∃ r, t.region a.in1 false = .ok r ∧ g.src = { r with fmt := sf } ∧ g.src.check a.rows a.cols = .ok ()) ∧
  (∃ r, t.region a.out true = .ok r ∧ g.dst = { r with fmt := tf } ∧ g.dst.check (cvPadded v a).1 (cvPadded v a).2 = .ok ()) ∧
  (if fmtScaled sf then ∃ r, t.scaleRegion v.scaleIn false sf n false = .ok r ∧ g.srcS = some r else g.srcS = none) ∧
  (if fmtScaled tf then ∃ r, t.scaleRegion v.scaleOut true tf n false = .ok r ∧ g.dstS = some r else g.dstS = none) ∧
  t.ready (g.reads a v) (g.writes a v (cvPadded v a).1 (cvPadded v a).2) = .ok ()

/-- The converted blocks of an operand whose values are `vals` by line and position: each block of up to 32 positions of a line
is converted under the control word, its draws taken at the elements' logical indices (R113 to R118). -/
def pieces (a : LaneArgs) (v : ConvArgs) (seed : Word64) (x : Pass) (vals : Nat → Nat → Val) : List (Nat × Nat × Nat × List Nat × Events) :=
  (List.range (cvLines v a)).flatMap (fun line => (List.range (cvBlocks v a)).map (fun b =>
    convPiece a v seed x.step x.mb line b ((blockSpan (cvLen v a) b).map (vals line))))

/-- A stream issues: where its pass may issue it, its descriptor passes the checks, it converts under a defined control word
(`cv`) where CONVERT is set, a converting SPILL's words end below the stack space's end, and no issue waits on the tile. Where it
finds a place (fewer than 32 streams, its identity free, no earlier stream on its buffer) it becomes active behind the others
with nothing moved and nothing passed, and with a lease at every logic die that holds a unit of its range where it asks for one.
Where it finds none, or a logic die has no lease entry free, it waits in the tile's sequencer. A pass that runs again keeps the
input stream it has. A failed check is a PROGRAM fault. Of the rest of the state, only requests at arbiters, tags, lease entries,
accesses counted as waiting and the count of the pass's descriptors may change. -/
def StreamStarts (i : OpCtx → BitVec 256 → Instr) (op : Nat) : Prop :=
  ∀ (s : State) (c : OpCtx) (d : BitVec 256) (x : Pass) (cv : Option Word64),
    let n := s.phys c.tile
    let t := s.tile n
    let check := streamCheck t c.tile (s.slot x.slot).stackTop x.slot s.queues op d
    let str : Stream := { id := sId d, desc := d, pass := x.id, slot := x.slot }
    let again := t.streams.any (fun y => decide (y.pass = x.id) && decide (y.desc = d) && (s.slot x.slot).inputStream d t)
    s.opPass c = some x →
    (check = .ok () → again = false → t.queued = [] →
      (if sConvert d then ∃ w, convWord t d = .ok w ∧ cv = some w else cv = none) →
      (op = 0x31 → sAddr d + ({ str with conv := cv, rowLen := s.rowLenOf c.tile x.slot d (fld (cv.getD 0) 11 8) } : Stream).total
        ≤ (s.slot x.slot).stackTop) →
      (t.mayStart [] str = true →
        ((sLease d = true → ∀ k, (s.stack k).leases.length < 8192) →
          ∃ u y, exec (i c d) s = .next u ∧
            y = { str with step := x.step, mb := x.mb, drain := s.startRate c.tile x.slot d, leased := sLease d, held := s.heldOut x t d,
                           conv := cv, src := y.src, base := y.base, rowLen := y.rowLen, sent := y.sent, tags := y.tags,
                           deepTags := y.deepTags, skipped := y.skipped, stuck := y.stuck } ∧
            y.addr = (if op = 0x30 then (s.slot x.slot).versionAt x.step (sAddr d) else sAddr d) ∧
            u.tile n = { t with streams := t.streams ++ [y], waits := (u.tile n).waits } ∧ (∀ m, m ≠ n → u.tile m = s.tile m) ∧
            (∀ k, u.stack k = { s.stack k with banks := (u.stack k).banks, slotTags := (u.stack k).slotTags, leases := (u.stack k).leases }) ∧
            (sLease d = false → ∀ k, (u.stack k).leases = (s.stack k).leases) ∧
            (sLease d = true → ∀ w ∈ (s.slot x.slot).rangeUnits y.addr (sLen d), ∃ l ∈ (u.stack w.1).leases,
              l.tile = trNum c.tile ∧ l.stream = sId d ∧ w.2 ∈ l.units) ∧
            u = { s with tiles := u.tiles, arbs := u.arbs, groups := u.groups, pools := u.pools, dram := u.dram, passes := u.passes } ∧
            u.passes = (s.ranOp x c.tile (.stream d)).passes) ∧
        (sLease d = true → (∃ w ∈ (s.slot x.slot).rangeUnits (if op = 0x30 then (s.slot x.slot).versionAt x.step (sAddr d) else sAddr d) (sLen d),
            8192 ≤ (s.stack w.1).leases.length) →
          ∃ u, exec (i c d) s = .next u ∧ u.tile n = { t with queued := [(c, d)], waits := tput t.waits 2 7 } ∧
            (∀ m, m ≠ n → u.tile m = s.tile m) ∧ u = { s with tiles := u.tiles, passes := u.passes })) ∧
      (t.mayStart [] str = false →
        ∃ u, exec (i c d) s = .next u ∧ u.tile n = { t with queued := [(c, d)] } ∧ (∀ m, m ≠ n → u.tile m = s.tile m) ∧
          u = { s with tiles := u.tiles, passes := u.passes })) ∧
    (check = .ok () → again = true → ∃ u, exec (i c d) s = .next u ∧ u = { s with passes := u.passes }) ∧
    (∀ code, check = .error (.fault code) → s.slots.length = 16 → x.slot < 16 → (s.slot x.slot).mirror.rj = .idle →
      ∃ u, exec (i c d) s = .next u ∧ (u.slot x.slot).seq.stopped = true ∧ (u.slot x.slot).state = .halted ∧
        u.log.recs.head?.map (fun r => (r.body.code, r.body.handling, r.body.pennant)) = some (code, .program, x.slot) ∧
        u.tiles = s.tiles)

/-- A packet for this module arrives whole and in order on an up link, and `q` is what it carries: its type is permitted there, it
is encrypted where its pennant requires it and then its tag verifies under the key of its source, channel and epoch, and its SEQ
is the next of its sequence space. -/
def Arrives (s : State) (k : Nat) (p : Packet) (t : Nat) (q : Packet) : Prop :=
  k < 6 ∧ s.linkUp? k = true ∧ packetOk k p = true ∧ hTypeOf p = t ∧ s.mine k p = true ∧
  s.unseal k p = some q ∧ hSeq p = tget s.spaces (rxKey k p) 0 % 2 ^ 24

/-- The newest packet that waits on port M is one control message to the partner on VC 7, with this recovery header. -/
def Tells (u : State) (h : BitVec 256) : Prop :=
  (u.port 2).sendQ.getLast?.map (fun p => (p.units, hVc p)) = some ([h], 7)
/-- A record of this code stands in the log. -/
def Logged (u : State) (c : Nat) : Prop := u.log.recs.any (fun r => decide (r.body.code = c)) = true
/-- Code, handling and slot of the newest record. -/
def newest (u : State) : Option (Nat × Handling × Nat) := u.log.recs.head?.map (fun r => (r.body.code, r.body.handling, r.body.pennant))
/-- Status and detail of the response to a request of the signal book. -/
def answered (u : State) : Option (Status × Nat) := u.out.response.map (fun r => (r.status, r.detail))

end Sys2Proof.Safety
end

