-- ==== Sys2Proof/Certificates/Slice0/Obligations.lean ====
section
/-! DEFINITION. The statements for the provers. -/

open Sys2Proof Sys2Proof.Machine



/-- A step runs the command at the front of the queue. -/
def Obligations.StepRunsFront : Prop :=
  ∀ (c : Instr) (rest : List Instr) (s : State),
    step { s with pending := c :: rest } = exec c { s with pending := rest }

/-- Every command of the table answers a next state. -/
def Obligations.EveryCommandAnswersNext : Prop :=
  ∀ (c : Instr) (s : State), Safety.Goes (exec c s)

/-- With no command waiting the module idles, and a dip that has begun ends in Dark. -/
def Obligations.IdleStepEndsDip : Prop :=
  ∀ s : State, s.pending = [] →
    (∀ p < 16, (s.slot p).mirror.pending = false ∧ (s.slot p).mirror.rj = .idle ∧ (s.slot p).exp = none ∧ (s.slot p).imp = none) →
    (s.mod.state = .dipping → step s = .next { s with mod := { s.mod with state := .dark }, boxes := List.replicate 17 {} }) ∧
    (s.mod.state ≠ .dipping → step s = .next s)

/-- At first power the module is Dark with nothing waiting, and the fixed sizes hold. -/
def Obligations.ResetIsDarkAndShaped : Prop :=
  Safety.Shape State.reset ∧ State.reset.pending = [] ∧ State.reset.mod.state = .dark ∧
  (∀ p < 16, (State.reset.slot p).state = .free) ∧ State.reset.log.recs = [] ∧
  State.reset.tiles = [] ∧ State.reset.dram = [] ∧ State.reset.carts = [] ∧
  State.reset.power.capW = 2450 ∧ State.reset.power.targetMv = 720 ∧ State.reset.recov.digestWait = 0x80000000

/-- Every step keeps the queue discipline and the fixed sizes. -/
def Obligations.EveryStepKeepsShape : Prop :=
  ∀ s t : State, Safety.Shape s → step s = .next t → Safety.Shape t ∧ t.pending = s.pending.tail

/-- A unit steps when its inputs are offered and its outputs accepted; a crossing moves one value per step of its slower side. -/
def Obligations.HandshakeStepsAndMeters : Prop :=
  (∀ (s : State) (t : TileRef) (n p w i : Nat), s.slots.length = 16 → p < 16 → (s.slot p).meters.v.length = 19 →
    trOk t = true → n < 16 → s.domOn (16 * t.q + t.g) = true → s.tileSlot t = some p →
    let x := s.tile (s.phys t)
    s.pass? x.cur = none → x.drain = 0 → (x.issue % 64 ≠ 63 ∨ x.plan.headD [] = []) →
    (w, i) ∈ [(32, 0), (16, 1), (8, 2), (4, 3)] →
    ∃ u, exec (.handshakeStep (.cube t n) { inputs := true, outputs := true, width := w }) s = .next u ∧
      (u.slot p).meters.v.getD i 0 = (s.slot p).meters.v.getD i 0 + 1 ∧
      (∀ j, j ≠ i → (u.slot p).meters.v.getD j 0 = (s.slot p).meters.v.getD j 0) ∧
      (∀ k, k ≠ p → u.slot k = s.slot k) ∧ u.test = s.test ∧
      u.tile (s.phys t) = (if n = 0 ∧ x.plan ≠ [] then { x with issue := x.issue + 1, plan := x.plan.tail } else x) ∧
      (∀ m, m ≠ s.phys t → u.tile m = s.tile m)) ∧
  (∀ (s : State) (t : TileRef) (p : Nat), s.slots.length = 16 → p < 16 → (s.slot p).meters.v.length = 19 →
    trOk t = true → s.domOn (16 * t.q + t.g) = true → s.tileSlot t = some p →
    let x := s.tile (s.phys t)
    x.drain = 0 → (x.issue % 64 ≠ 63 ∨ x.plan.headD [] = []) →
    ∃ u, exec (.handshakeStep (.lane t) { inputs := true, outputs := true }) s = .next u ∧
      (u.slot p).meters.v.getD 4 0 = (s.slot p).meters.v.getD 4 0 + 1 ∧
      (∀ j, j ≠ 4 → (u.slot p).meters.v.getD j 0 = (s.slot p).meters.v.getD j 0) ∧
      (∀ k, k ≠ p → u.slot k = s.slot k) ∧ u.test = s.test ∧
      u.tile (s.phys t) = (if x.plan ≠ [] then { x with issue := x.issue + 1, plan := x.plan.tail } else x) ∧
      (∀ m, m ≠ s.phys t → u.tile m = s.tile m)) ∧
  (∀ (s : State) (t : TileRef) (o : Offer), trOk t = true → s.domOn (16 * t.q + t.g) = true →
    let x := s.tile (s.phys t)
    o.inputs = true → o.outputs = true → o.issued = true → o.gated = false → o.tick = false →
    x.issue % 64 = 63 → x.plan.headD [] ≠ [] →
    ∀ e ∈ [Engine.cube t 0, Engine.lane t], ∃ u, exec (.handshakeStep e o) s = .next u ∧ u.slots = s.slots ∧ u.passes = s.passes ∧
      u.tile (s.phys t) = { x with issue := x.issue + 1, drain := x.drain - 1 }) ∧
  (∀ (s : State) (t : TileRef) (n : Nat) (a b g : Bool), (a && b && !g) = false →
    exec (.handshakeStep (.cube t n) { inputs := a, outputs := b, gated := g }) s = .next s) ∧
  (∀ (s : State) (a b : Nat), adjacent a b = true → s.frozen a b = false →
    let c := (s.crossing? a b).getD { a := a, b := b }
    (∃ u d, exec (.handshakeStep (.crossing a b) { inputs := true, outputs := true }) s = .next u ∧ u.crossing? a b = some d ∧
      u = { s with crossings := u.crossings } ∧
      (s.widened a b = false → d.moved = c.moved + 1 ∧ d.steps = 0 ∧ d.waiting = false) ∧
      (s.widened a b = true → (c.steps = 0 → d.moved = c.moved ∧ d.steps = 1) ∧
        (c.steps = 1 → d.moved = c.moved + 1 ∧ d.steps = 0 ∧ d.waiting = false))) ∧
    (∃ u, exec (.handshakeStep (.crossing a b) { inputs := true, outputs := true, slower := false }) s = .next u ∧
      u.crossing? a b = some { c with waiting := true } ∧ u = { s with crossings := u.crossings })) ∧
  (∀ (s : State) (a b : Nat) (o : Offer), s.frozen a b = true → exec (.handshakeStep (.crossing a b) o) s = .next s)

/-- A calibration publishes the rate of its oscillator, and a recalibration starts a window. -/
def Obligations.CalibrationPublishesRate : Prop :=
  (∀ (s : State) (n c : Nat), n < 68 → s.domOn n = true → (s.osc n).inWindow = true → 81920 * 1 ≤ 2 * c → c ≤ 81920 * 3 →
    let o : Osc := { s.osc n with
      rate := (c * 65536 + 40960) / 81920, count := min 0xFFFFFFFF ((s.osc n).count + 1), mv := (s.dom n).mv,
      junction := (s.dom n).junction, inWindow := false, valid := true }
    exec (.calibrationWindowEnd n c) s = .next { s with oscs := tput s.oscs n o }) ∧
  (∀ (s : State) (n : Nat), n < 68 → s.domOn n = true →
    exec (.recalibrationDue n) s = .next { s with oscs := tput s.oscs n { s.osc n with inWindow := true } })

/-- A region controller corrects a pair past an operating limit. -/
def Obligations.RegionControllersCorrect : Prop :=
  (∀ (s : State) (q : Nat) (x : XReading), s.samples q x.a x.b = true → s.corrections.any (fun c => c.joins x.a x.b) = false →
    (120 < s.pairMv x.a x.b ∨ 240 < (x.ja - x.jb).natAbs → s.domRate x.a ≠ s.domRate x.b →
      ∃ c : Correction, exec (.regionSample q [x]) s = .next { s with corrections := s.corrections ++ [c] } ∧
        c.q = q ∧ c.a = x.a ∧ c.b = x.b ∧ c.fast = (if s.domRate x.b < s.domRate x.a then x.a else x.b) ∧
        c.tempEx = decide (240 < (x.ja - x.jb).natAbs) ∧ c.peakV = s.pairMv x.a x.b ∧ c.peakT = (x.ja - x.jb).natAbs ∧
        c.held = false ∧ c.widened = false) ∧
    (s.pairMv x.a x.b ≤ 120 → (x.ja - x.jb).natAbs ≤ 240 → exec (.regionSample q [x]) s = .next s)) ∧
  (∀ (s : State) (q : Nat) (x : XReading) (c : Correction), s.samples q x.a x.b = true → s.corrections = [c] → c.joins x.a x.b = true →
    c.held = true → c.widened = false → (120 < s.pairMv x.a x.b ∨ 240 < (x.ja - x.jb).natAbs) → s.domRate x.a ≠ s.domRate x.b →
    exec (.regionSample q [x]) s = .next { s with corrections := [{ c with
      held := false, fast := if s.domRate x.b < s.domRate x.a then x.a else x.b, tempEx := decide (240 < (x.ja - x.jb).natAbs),
      peakV := s.pairMv x.a x.b, peakT := (x.ja - x.jb).natAbs }] }) ∧
  (∀ (s : State) (q a b n : Nat) (c : Correction),
    s.corrections.find? (fun c => c.joins a b && decide (c.q = q) && !c.held) = some c → c.fast < 64 →
    (600 < (s.dom c.fast).mv → ∃ u, exec (.regionStep q a b n) s = .next u ∧ (u.dom c.fast).mv = (s.dom c.fast).mv - 10 ∧
      (∀ d, d ≠ c.fast → u.dom d = s.dom d) ∧ u.slots = s.slots ∧ u.crossings = s.crossings ∧
      (∀ slow, (c.a = c.fast ∧ c.b = slow) ∨ (c.b = c.fast ∧ c.a = slow) → c.fast ≠ slow →
        (((s.dom c.fast).mv - 10 : Nat) - ((s.dom slow).mv : Int)).natAbs ≤ 100 → (c.tempEx = false ∨ n * 65536 ≤ s.domRate slow * 1000) →
        u.regionHeld c.fast = true ∧ u.regionCap c.fast ≤ (s.dom c.fast).mv - 10 ∧
        u.log.recs.head?.map (fun r => r.body.code) = some 0x2043)) ∧
    ((s.dom c.fast).mv ≤ 600 → ∃ u, exec (.regionStep q a b n) s = .next u ∧ u.widened a b = true ∧ u.doms = s.doms ∧
      u.slots = s.slots ∧ u.crossings = s.crossings ∧ u.log.recs.head?.map (fun r => r.body.code) = some 0x2043)) ∧
  (∀ (s : State) (q a b : Nat), s.pairMv a b ≤ 80 → ∃ u, exec (.regionCapRelease q a b) s = .next u ∧
    (∀ c ∈ u.corrections, c ∈ s.corrections ∧ ¬ (c.joins a b = true ∧ c.q = q ∧ c.held = true)) ∧
    (∀ c ∈ s.corrections, ¬ (c.joins a b = true ∧ c.q = q ∧ c.held = true) → c ∈ u.corrections))

/-- A crossing at a guard limit freezes, resumes within the operating limits, and after 1 ms is a lasting fault of its faster side. -/
def Obligations.CrossingFreezesAtGuard : Prop :=
  (∀ (s : State) (x : XReading), adjacent x.a x.b = true → s.frozen x.a x.b = false →
    (160 ≤ s.pairMv x.a x.b ∨ 320 ≤ (x.ja - x.jb).natAbs) →
    ∃ u, exec (.crossingFreeze x) s = .next u ∧ u.frozen x.a x.b = true ∧
      u.log.recs.head?.map (fun r => (r.no, r.body.code)) = some (s.log.next, 0x2041) ∧ u.doms = s.doms ∧ u.slots = s.slots ∧
      (s.domRate x.a ≠ s.domRate x.b → ∃ c, u.crossing? x.a x.b = some c ∧ c.fast = if s.domRate x.b < s.domRate x.a then x.a else x.b)) ∧
  (∀ (s : State) (x : XReading), s.frozen x.a x.b = true → s.pairMv x.a x.b ≤ 120 → (x.ja - x.jb).natAbs ≤ 240 →
    ∃ u, exec (.crossingResume x) s = .next u ∧ u.frozen x.a x.b = false ∧ u = { s with crossings := u.crossings }) ∧
  (∀ (s : State) (a b : Nat) (c : Crossing), s.crossing? a b = some c → c.frozen = true →
    (c.fast < 64 → ¬ c.fast ∈ s.spare.retired → ∃ u, exec (.crossingFrozenTimeout a b) s = .next u ∧ c.fast ∈ u.spare.retired) ∧
    (64 ≤ c.fast → s.mod.state = .hoisted → ∃ u, exec (.crossingFrozenTimeout a b) s = .next u ∧ u.mod.state = .struck))

/-- An accepted commit of a seed applies from its step. -/
def Obligations.SeedCommitInForce : Prop :=
  (∀ (s : State) (v : Via) (p e : Nat), s.slots.length = 16 → p < 16 → v.who = .host → Safety.Serves s →
    (s.slot p).seed.pending = false → (s.slot p).hasIssued e = false → (s.slot p).converted e = false →
    ∃ u, exec (.seedCommit v p e) s = .next u ∧ (u.slot p).seed.pending = true ∧
      (∀ t, e ≤ t → (u.slot p).seed.at t = (s.slot p).seed.staged) ∧ (∀ t, t < e → (u.slot p).seed.at t = (s.slot p).seed.at t) ∧
      (∀ k, k ≠ p → u.slot k = s.slot k) ∧ u.out.response.map (fun r => r.status) = some .ok) ∧
  (∀ (s : State) (v : Via) (p e : Nat), p < 16 → v.who = .host → Safety.Serves s → (s.slot p).seed.pending = true →
    ∃ u, exec (.seedCommit v p e) s = .next u ∧ u.slots = s.slots ∧ u.out.response.map (fun r => r.status) = some .valueRefused)

/-- A cube product whose checks pass computes its output; one whose check fails halts its pennant. -/
def Obligations.ProductsRun : Prop :=
  Safety.ProductRuns .matrix (fun _ d z => z = matrixShape d) ∧
  Safety.ProductRuns .windowFwd (fun t d z => ∃ ws, windowsOf t d = .ok ws ∧ pM d = ws.outs ∧ z = windowFwdShape d ws) ∧
  Safety.ProductRuns .windowWgrad (fun t d z => ∃ ws, windowsOf t d = .ok ws ∧ pK d = ws.outs ∧ pM d % ws.kernels = 0 ∧
    z = windowWgradShape d ws) ∧
  Safety.ProductFaults .matrix matrixOp ∧ Safety.ProductFaults .windowFwd windowFwdOp ∧
  Safety.ProductFaults .windowWgrad windowWgradOp

/-- The fly lane counts a checked fragment and abandons the attempt on a mismatch. -/
def Obligations.FlyLaneChecks : Prop :=
  (∀ (s : State) (t : TileRef), (s.tile (s.phys t)).checks = [] → exec (.flyLaneCheck t) s = .next s) ∧
  (∀ (s : State) (t : TileRef) (k : Check) (rest : List Check) (f0 f1 f2 : Nat),
    let n := s.phys t
    (s.tile n).checks = k :: rest → tget s.fly t.q [0, 0, 0] = [f0, f1, f2] →
    let un := (k.cols.filter (fun c => !c.support)).length
    let ok := (k.cols.filter (fun c => c.support && c.pass k.groups)).length
    let bad := (k.cols.mapIdx (fun i c => (i, c))).filter (fun e => e.2.support && !e.2.pass k.groups)
    let s1 : State := { s with tiles := tput s.tiles n { s.tile n with checks := rest },
                               fly := tput s.fly t.q [f0 + ok, f1 + un, f2 + bad.length] }
    (bad = [] → exec (.flyLaneCheck t) s = .next s1) ∧
    (∀ i c more, bad = (i, c) :: more →
      let r : ErrRec := s.siteRec t { code := 0x8301, handling := .retry, block := k.block, detail0 := (k.col0 + i) % 2 ^ 24 + bad.length * 2 ^ 32, detail1 := k.row0 % 2 ^ 24 * 2 ^ 40 + k.col0 % 2 ^ 24 * 2 ^ 16 + k.product }
      (s.pass? k.pass = none → exec (.flyLaneCheck t) s = .next (s1.logErr r)) ∧
      (∀ x, s.pass? k.pass = some x → x.attempt ≠ k.attempt →
        exec (.flyLaneCheck t) s = .next (s1.logSlot x.slot { x.fill r with attempt := k.attempt })) ∧
      (∀ x, s.pass? k.pass = some x → x.attempt = 0 → k.attempt = 0 → x.abandoned = false →
        ∃ u, exec (.flyLaneCheck t) s = .next u ∧
          u.pass? k.pass = some { x with abandoned := true, faults := x.faults ++ [x.fill r] } ∧
          (u.tile n).checks = rest ∧ (u.tile n).mem = (s.tile n).mem ∧ u.fly = s1.fly ∧
          u.log.recs.head?.map (fun r => (r.body.code, r.body.handling, r.body.detail0, r.body.detail1)) =
            some (0x8301, .retry, r.detail0, r.detail1))))

/-- The element-wise operations of the lane engine. -/
def Obligations.LaneElementwise : Prop :=
  Safety.Binary .laneAdd false (fun x y => (fadd x y).1) ∧
  Safety.Binary .laneSub false (fun x y => (fsub x y).1) ∧
  Safety.Binary .laneMul false (fun x y => (fmul x y).1) ∧
  Safety.Ternary .laneFma (fun x y z => (ffma x y z).1) ∧
  Safety.Binary .laneMin false (fun x y => (fmin x y).1) ∧
  Safety.Binary .laneMax false (fun x y => (fmax x y).1) ∧
  (∀ p, Safety.Binary (fun c a => .laneCompare c a p) true (fun x y => Config.compareWord (fcmp p x y).1)) ∧
  Safety.Ternary .laneSelect (fun m x y => Safety.quiet (selectWord m x y)) ∧
  Safety.Unary .laneAbs (fun x => if (dec32 x).isNan = true then 0x7FC00000#32 else x &&& 0x7FFFFFFF#32) ∧
  Safety.Unary .laneNeg (fun x => if (dec32 x).isNan = true then 0x7FC00000#32 else x ^^^ 0x80000000#32) ∧
  Safety.Binary .laneCopysign false (fun x y =>
    if (dec32 x).isNan = true then 0x7FC00000#32 else (x &&& 0x7FFFFFFF#32) ||| (y &&& 0x80000000#32)) ∧
  Safety.Unary .laneExp2 (fun x => (fexp2 x).1) ∧
  Safety.Unary .laneExp (fun x => (fexp x).1) ∧
  Safety.Unary .laneRcp (fun x => (frcp x).1) ∧
  Safety.Unary .laneRsqrt (fun x => (frsqrt x).1) ∧
  Safety.Unary .laneSqrt (fun x => (fsqrt x).1) ∧
  Safety.Binary .laneDiv false (fun x y => (fdiv x y).1) ∧
  Safety.Unary .laneSigmoid (fun x => (fsigmoid x).1)

/-- NaN, zero and infinity in the lane engine. -/
def Obligations.LaneSpecialValues : Prop :=
  (∀ x y : Word32, (dec32 x).isNan = true ∨ (dec32 y).isNan = true →
    (fmin x y).1 = 0x7FC00000#32 ∧ (fmax x y).1 = 0x7FC00000#32 ∧ (fcmp .ne x y).1 = true ∧
    ∀ p, p ≠ .ne → (fcmp p x y).1 = false) ∧
  ((fmin 0x80000000#32 0#32).1 = 0x80000000#32 ∧ (fmin 0#32 0x80000000#32).1 = 0x80000000#32 ∧
    (fmax 0x80000000#32 0#32).1 = 0#32 ∧ (fmax 0#32 0x80000000#32).1 = 0#32 ∧ (fcmp .eq 0#32 0x80000000#32).1 = true) ∧
  (∀ x : Word32, (dec32 x).isNan = true → (fexp x).1 = 0x7FC00000#32 ∧ (fexp2 x).1 = 0x7FC00000#32 ∧ (frcp x).1 = 0x7FC00000#32 ∧
    (frsqrt x).1 = 0x7FC00000#32 ∧ (fsqrt x).1 = 0x7FC00000#32) ∧
  (∀ f ∈ [fexp, fexp2], (f 0#32).1 = 0x3F800000#32 ∧ (f 0x80000000#32).1 = 0x3F800000#32 ∧
    (f 0x7F800000#32).1 = 0x7F800000#32 ∧ (f 0xFF800000#32).1 = 0#32) ∧
  (frcp 0#32 = (0x7F800000#32, {}) ∧ frcp 0x80000000#32 = (0xFF800000#32, {}) ∧ (frcp 0x7F800000#32).1 = 0#32 ∧
    (frcp 0xFF800000#32).1 = 0x80000000#32) ∧
  ((frsqrt 0#32).1 = 0x7F800000#32 ∧ (frsqrt 0x80000000#32).1 = 0xFF800000#32 ∧ (fsqrt 0x80000000#32).1 = 0x80000000#32) ∧
  (∀ x : Word32, 0x80000000#32 < x → x ≤ 0xFF800000#32 →
    (frsqrt x).1 = 0x7FC00000#32 ∧ (frsqrt x).2.invalid = 1 ∧ (fsqrt x).1 = 0x7FC00000#32 ∧ (fsqrt x).2.invalid = 1) ∧
  (∀ x y : Word32, y &&& 0x7FFFFFFF#32 = 0#32 →
    (x &&& 0x7FFFFFFF#32 = 0#32 → (fdiv x y).1 = 0x7FC00000#32 ∧ (fdiv x y).2.invalid = 1) ∧
    (x &&& 0x7FFFFFFF#32 ≠ 0#32 → (x &&& 0x7FFFFFFF#32) < 0x7F800000#32 →
      fdiv x y = (((x ^^^ y) &&& 0x80000000#32) ||| 0x7F800000#32, {})))

/-- The row operations of the lane engine. -/
def Obligations.LaneRowOperations : Prop :=
  (∀ op, Safety.LaneRuns (fun c a => .laneRowReduce c a op false) (Safety.ins 1) (fun a => (a.rows, 1)) false
    (fun _ _ a xs => (List.range a.rows).map (fun i => [(reduceBy op 0 ((xs.getD 0 []).getD i [])).1]))) ∧
  (∀ op, Safety.LaneRuns (fun c a => .laneRowReduce c a op true) (Safety.ins 1) (fun a => (1, a.cols)) false
    (fun _ _ a xs => [(List.range a.cols).map (fun j => (reduceBy op a.token ((xs.getD 0 []).map (fun r => r.getD j 0))).1)])) ∧
  (∀ v : DrawArgs, Safety.LaneRuns (fun c a => .laneDraw c a v) (fun _ => []) (fun a => (a.rows, a.cols)) (!v.float)
    (fun s x a _ => Safety.each a (fun i j => drawWord v.float
      (srDraw ((s.slot x.slot).seedAt x.step) x.step x.mb v.tensor
        (v.first + i * (if v.rowLen = 0 then a.cols else v.rowLen) + j))))) ∧
  Safety.LaneRuns .softMaximum (Safety.ins 1) (fun a => (a.rows, a.cols)) false
    (fun _ _ a xs => (List.range a.rows).map (fun i => (softRow ((xs.getD 0 []).getD i [])).1)) ∧
  Safety.LaneRuns .rmsNormBwd
    (fun a => [(a.in1, a.rows, a.cols), (a.in2, a.rows, a.cols), (a.in3, 1, a.cols), (a.in4, a.rows, 1)]) (fun a => (a.rows, a.cols)) false
    (fun _ _ a xs => (List.range a.rows).map (fun i => (rmsBwdRow ((xs.getD 0 []).getD i []) ((xs.getD 1 []).getD i [])
      ((xs.getD 2 []).getD 0 []) (((xs.getD 3 []).getD i []).getD 0 0)).1)) ∧
  Safety.LaneRuns .layerNormBwd
    (fun a => [(a.in1, a.rows, a.cols), (a.in2, a.rows, a.cols), (a.in3, 1, a.cols), (a.in4, a.rows, 1)]) (fun a => (a.rows, a.cols)) false
    (fun _ _ a xs => (List.range a.rows).map (fun i => (layerBwdRow ((xs.getD 0 []).getD i []) ((xs.getD 1 []).getD i [])
      ((xs.getD 2 []).getD 0 []) (((xs.getD 3 []).getD i []).getD 0 0)).1)) ∧
  Safety.LaneRuns .softmaxBwd (Safety.ins 2) (fun a => (a.rows, a.cols)) false
    (fun _ _ a xs => (List.range a.rows).map (fun i => (softBwdRow ((xs.getD 0 []).getD i []) ((xs.getD 1 []).getD i [])).1))

/-- A conversion runs under its control word; an undefined word halts the pennant. -/
def Obligations.LaneConvertRuns : Prop :=
  (∀ (s : State) (c : OpCtx) (a : LaneArgs) (v : ConvArgs) (x : Pass) (g : ConvRegs) (vals : Nat → Nat → Val),
    let n := s.phys c.tile
    let t := s.tile n
    let ps := Safety.pieces a v ((s.slot x.slot).seedAt x.step) x vals
    let cv := g.dst.cover (convCells v ps)
    let cs := convScales a v g ps
    let m1 := storeCover t.mem cv
    let m2 := storeCover m1.1 cs
    let plan := a.plan.map (fun l => l.filter (laneWord t a))
    s.opPass c = some x → Safety.ConvertReady t a v g →
    (∀ line < cvLines v a, ∀ pos < cvLen v a, convVal t.mem g a v line pos = .ok (vals line pos)) →
    m1.2 = [] → m2.2 = [] → Safety.NoConflict plan →
    ∃ u y, exec (.laneConvert c a v) s = .next u ∧
      y = { (({ t with mem := m2.1, waits := tdel t.waits 1 } : Tile).touch (g.reads a v)
              (g.writes a v (cvPadded v a).1 (cvPadded v a).2)) with plan := t.plan ++ plan } ∧
      Safety.OpLeaves s u n x.slot (merges cv + merges cs) [] y ∧
      u.passes = (s.ranOp x c.tile (.lane none [a.in1, a.in2, a.in3, a.in4] a.out)).passes) ∧
  (∀ (s : State) (c : OpCtx) (a : LaneArgs) (v : ConvArgs) (x : Pass), s.opPass c = some x → convOk v.word = false →
    s.slots.length = 16 → x.slot < 16 → (s.slot x.slot).mirror.rj = .idle →
    ∃ u, exec (.laneConvert c a v) s = .next u ∧ (u.slot x.slot).seq.stopped = true ∧ (u.slot x.slot).state = .halted ∧
      u.log.recs.head?.map (fun r => (r.body.code, r.body.handling)) = some (0x6112, .program) ∧ u.tiles = s.tiles)

/-- HSET, HALLOC and HCLEAR write the handle table after the entry checks. -/
def Obligations.HandleTableWrites : Prop :=
  ∀ (s : State) (c : OpCtx) (x : Pass),
    let n := s.phys c.tile
    let t := s.tile n
    s.opPass c = some x →
    (∀ (k w : Nat) (e : BitVec 128), k < 128 → w < 81920 → t.entryFree k = .ok () → t.image w = .ok e →
      (hValid e = true → s.entryCheck x.slot c.tile t k e = none →
        ∃ u h, exec (.hset c k w) s = .next u ∧
          Safety.OpLeaves s u n x.slot 0 [] (({ t with
            handles := tput t.handles k h, waits := tdel t.waits 3,
            areas := if hRecv e = true then tput t.areas k { units := List.replicate (hLen e / 32) .free } else tdel t.areas k } : Tile).touch
              [(w / 2, 1)] []) ∧
          u.passes = (s.ranOp x c.tile (.handle k 0)).passes ∧
          fld h 127 117 = fld e 127 117 ∧ fld h 116 113 = x.slot % 16 ∧ fld h 112 24 = fld e 112 24 ∧ fld h 6 0 = fld e 6 0 ∧
          fld h 23 7 = (if hValid (t.handle k) = true ∧ hKind (t.handle k) = 1 ∧ hKind e = 1 ∧ hTile (t.handle k) = hTile e ∧
            hTarget (t.handle k) = hTarget e then fld (t.handle k) 23 7 else 0)) ∧
      (hValid e = false →
        ∃ (u : State) (y : Tile), exec (.hset c k w) s = .next u ∧ Safety.OpLeaves s u n x.slot 0 [] (y.touch [(w / 2, 1)] []) ∧
          y = { t with handles := y.handles, areas := tdel t.areas k, waits := tdel t.waits 3 } ∧
          y.handle k = putFld (t.handle k) 127 127 0 ∧ (∀ j, j ≠ k → y.handle j = t.handle j)) ∧
      (∀ code, hValid e = true → s.entryCheck x.slot c.tile t k e = some code → s.slots.length = 16 → x.slot < 16 →
        (s.slot x.slot).mirror.rj = .idle →
        ∃ u, exec (.hset c k w) s = .next u ∧ u.tiles = s.tiles ∧ (u.slot x.slot).seq.stopped = true ∧ (u.slot x.slot).state = .halted ∧
          u.log.recs.head?.map (fun r => (r.body.code, r.body.handling)) = some (code, .program)) ∧
      (hValid e = true → hKind e ≠ 3 → hFmt e < 12 → (hLen e = 0 ∨ 40960 < hBase e + hLen e) → s.slots.length = 16 → x.slot < 16 →
        (s.slot x.slot).mirror.rj = .idle →
        ∃ u, exec (.hset c k w) s = .next u ∧ u.tiles = s.tiles ∧ (u.slot x.slot).state = .halted ∧
          u.log.recs.head?.map (fun r => (r.body.code, r.body.handling)) = some (0x6133, .program))) ∧
    (∀ k, k < 128 → t.entryFree k = .ok () →
      ∃ (u : State) (y : Tile), exec (.hclear c k) s = .next u ∧ Safety.OpLeaves s u n x.slot 0 [] (y.touch [] []) ∧
        y = { t with handles := y.handles, areas := tdel t.areas k, waits := tdel t.waits 3 } ∧
        y.handle k = putFld (t.handle k) 127 127 0 ∧ (∀ j, j ≠ k → y.handle j = t.handle j) ∧
        u.passes = (s.ranOp x c.tile (.handle k 0)).passes) ∧
    (∀ (k w : Nat), k < 128 → w < 81920 → (t.named k = true ∨ t.anyHeld k = true) →
      let cause := if t.named k = true ∨ t.hwaits.any (fun q => decide (q.n = k) || decide (q.n = 128)) = true then 0xE else 0x7
      ∀ i ∈ [(Instr.hset c k w, some w), (Instr.hclear c k, none)], ∃ u, exec i.1 s = .next u ∧
        u.tile n = { t with waits := tput t.waits 3 cause, hwaits := t.hwaits ++ [⟨x.id, k, i.2, 0⟩] } ∧
        (∀ m, m ≠ n → u.tile m = s.tile m) ∧ u = { s with tiles := u.tiles, passes := u.passes }) ∧
    (∀ (w r : Nat) (e : BitVec 128), w < 81920 → r < 81920 → t.entryFree 128 = .ok () → t.image w = .ok e →
      (∀ k, t.lowFree = some k → t.ready [] [(r / 2, 1)] = .ok () → hValid e = true → s.entryCheck x.slot c.tile t k e = none →
        ∃ (u : State) (y : Tile), exec (.halloc c ⟨w, r⟩) s = .next u ∧ Safety.OpLeaves s u n x.slot 0 [BitVec.ofNat 32 k] (y.touch [(w / 2, 1)] [(r / 2, 1)]) ∧
          y = { t with mem := y.mem, handles := y.handles, waits := tdel t.waits 3,
                       areas := if hRecv e = true then tput t.areas k { units := List.replicate (hLen e / 32) .free } else tdel t.areas k } ∧
          Memory.readWord y.mem r = encodeWord (BitVec.ofNat 128 k) ∧ (∀ a, a ≠ r → Memory.readWord y.mem a = Memory.readWord t.mem a) ∧
          hValid (y.handle k) = true ∧ fld (y.handle k) 126 117 = fld e 126 117 ∧ fld (y.handle k) 116 113 = x.slot % 16 ∧
          fld (y.handle k) 112 24 = fld e 112 24 ∧ (∀ j, j ≠ k → y.handle j = t.handle j) ∧
          u.passes = (s.ranOp x c.tile (.handle 128 0)).passes) ∧
      (t.lowFree = none → s.slots.length = 16 → x.slot < 16 → (s.slot x.slot).mirror.rj = .idle →
        ∃ u, exec (.halloc c ⟨w, r⟩) s = .next u ∧ u.tiles = s.tiles ∧ (u.slot x.slot).state = .halted ∧
          u.log.recs.head?.map (fun r => (r.body.code, r.body.handling)) = some (0x6136, .program)))

/-- WSET opens and closes a window register. -/
def Obligations.WindowRegisterWrites : Prop :=
  ∀ (s : State) (c : OpCtx) (x : Pass) (w : Nat) (e : BitVec 128),
    let n := s.phys c.tile
    let t := s.tile n
    let stored := fun (u : State) (v : BitVec 128) =>
      Safety.OpLeaves s u n x.slot 0 [] (({ t with windows := tput t.windows w v, waits := tdel t.waits 3 } : Tile).touch [] []) ∧
      u.passes = s.passes ∧ fld v 127 117 = fld e 127 117 ∧ fld v 116 113 = x.slot % 16 ∧ fld v 112 64 = fld e 112 64 ∧
      fld v 15 0 = fld e 15 0
    let refused := fun (u : State) (code : Nat) => u.tiles = s.tiles ∧ (u.slot x.slot).seq.stopped = true ∧ (u.slot x.slot).state = .halted ∧
      u.log.recs.head?.map (fun r => (r.body.code, r.body.handling)) = some (code, .program)
    s.opPass c = some x → w < 8 →
    (wOpen e = false → ∃ u v, exec (.wset c w e) s = .next u ∧ stored u v ∧ fld v 63 16 = fld (t.window w) 63 16) ∧
    (wOpen e = true → wPeer e ≤ 1 → fld e 112 104 = 0 → fld e 15 0 = 0 → 0 < wLen e → wLen e ≤ 40960 →
      t.writable (wBase e) (wLen e) = true → ∃ u v, exec (.wset c w e) s = .next u ∧ stored u v ∧ fld v 63 16 = 0) ∧
    (wOpen e = true → s.slots.length = 16 → x.slot < 16 → (s.slot x.slot).mirror.rj = .idle →
      ((1 < wPeer e ∨ fld e 112 104 ≠ 0 ∨ fld e 15 0 ≠ 0) → ∃ u, exec (.wset c w e) s = .next u ∧ refused u 0x6132) ∧
      (wPeer e ≤ 1 → fld e 112 104 = 0 → fld e 15 0 = 0 →
        (wLen e = 0 ∨ 40960 < wLen e ∨ t.writable (wBase e) (wLen e) = false) →
        ∃ u, exec (.wset c w e) s = .next u ∧ refused u 0x6133))

/-- Credit requests, grants, deliveries, releases and the hold timeout of a receive area. -/
def Obligations.CreditsOfReceiveAreas : Prop :=
  (∀ (s : State) (c : OpCtx) (x : Pass) (h f k : Nat) (a : Area),
    let e := (s.tile (s.phys c.tile)).handle h
    let q : CreditReq := ⟨trNum c.tile, h, x.id, f, k⟩
    s.livePass c = some x → hValid e = true → hKind e = 1 → hWr e = true → s.area (hTile e) (hTarget e) = some a →
    1 ≤ k → k ≤ 256 → f + k ≤ a.units.length → s.pathFrozen c.tile (hTile e) = false →
    ∃ u, exec (.creq c h f k) s = .next u ∧ u = { s with tiles := u.tiles } ∧ tget? (u.tile (s.phys c.tile)).waits 2 = some 7 ∧
      u.area (hTile e) (hTarget e) =
        some (if a.queue.length < 16 then { a with queue := a.queue ++ [q] } else { a with late := a.late ++ [q] }) ∧
      (∀ m, (u.tile m).mem = (s.tile m).mem ∧ (u.tile m).handles = (s.tile m).handles) ∧
      (∀ m, m ≠ s.phys c.tile → m ≠ s.phys (hTile e) → u.tile m = s.tile m)) ∧
  (∀ (s : State) (t : TileRef) (n : Nat) (a : Area) (q : CreditReq) (rest : List CreditReq),
    s.area t n = some a → a.queue = q :: rest →
    (s.pathFrozen t (refOf q.tile) = false → (∀ i, q.first ≤ i → i < q.first + q.count → a.units.getD i .free = .free) →
      ∃ u b, exec (.creditGrant t n) s = .next u ∧ u = { s with tiles := u.tiles } ∧ u.area t n = some b ∧
        b.queue = rest ++ a.late.take 1 ∧ b.late = a.late.drop 1 ∧ b.src = a.src ∧ b.units.length = a.units.length ∧
        (∀ i, q.first ≤ i → i < q.first + q.count → i < a.units.length → b.units.getD i .free = .held q.tile q.handle q.pass) ∧
        (∀ i, (i < q.first ∨ q.first + q.count ≤ i) → b.units.getD i .free = a.units.getD i .free) ∧
        hHeld ((u.tile (s.phys (refOf q.tile))).handle q.handle) = (b.units.filter (heldBy q.tile q.handle)).length % 2 ^ 9 ∧
        tget? (u.tile (s.phys (refOf q.tile))).waits 2 = none ∧ (∀ m, (u.tile m).mem = (s.tile m).mem)) ∧
    ((s.pathFrozen t (refOf q.tile) = true ∨ ∃ i, q.first ≤ i ∧ i < q.first + q.count ∧ i < a.units.length ∧ a.units.getD i .free ≠ .free) →
      exec (.creditGrant t n) s = .next s)) ∧
  (∀ (s : State) (c : OpCtx) (x : Pass) (h f k : Nat) (a : Area),
    let e := (s.tile (s.phys c.tile)).handle h
    s.livePass c = some x → hValid e = true → hKind e = 1 → hWr e = true → s.area (hTile e) (hTarget e) = some a →
    1 ≤ k → f + k ≤ a.units.length → (∀ i, f ≤ i → i < f + k → heldBy (trNum c.tile) h (a.units.getD i .free) = true) →
    (s.tile (s.phys c.tile)).writing h f k = false → s.pathFrozen c.tile (hTile e) = false →
    ∃ (u : State) (b : Area), exec (.cdlv c h f k) s = .next (u.entryTurn 129 (hTile e)) ∧ u = { s with tiles := u.tiles } ∧
      u.area (hTile e) (hTarget e) = some b ∧ b.queue = a.queue ∧
      (∀ i, f ≤ i → i < f + k → b.units.getD i .free = .full) ∧
      (∀ i, (i < f ∨ f + k ≤ i) → b.units.getD i .free = a.units.getD i .free) ∧
      (u.tile (s.phys (hTile e))).events = (s.tile (s.phys (hTile e))).events ++
        [hEvent ((s.tile (s.phys (hTile e))).handle (hTarget e))] ∧
      (∀ m, (u.tile m).mem = (s.tile m).mem) ∧
      ((u.tile (s.phys (hTile e))).hwaits = [] → u.entryTurn 129 (hTile e) = u)) ∧
  (∀ (s : State) (c : OpCtx) (x : Pass) (n f k : Nat) (a : Area), s.livePass c = some x → s.area c.tile n = some a → f + k ≤ a.units.length →
    let own := fun i => (s.slot x.slot).inBlock x (refOf (tget a.src i (trNum c.tile + 1) - 1))
    ((∀ i, f ≤ i → i < f + k → a.units.getD i .free = .full) →
      ((∀ i, f ≤ i → i < f + k → own i = true) →
        ∃ u b, exec (.crel c n f k) s = .next u ∧ u = { s with tiles := u.tiles } ∧ u.area c.tile n = some b ∧ b.queue = a.queue ∧
          (∀ i, f ≤ i → i < f + k → b.units.getD i .free = .free) ∧
          (∀ i, (i < f ∨ f + k ≤ i) → b.units.getD i .free = a.units.getD i .free) ∧
          (∀ m, (u.tile m).mem = (s.tile m).mem ∧ (u.tile m).handles = (s.tile m).handles)) ∧
      ((∃ i, f ≤ i ∧ i < f + k ∧ own i = false) →
        ∃ u, exec (.crel c n f k) s = .next u ∧ u = { s with passes := u.passes } ∧
          u.pass? x.id = some { x with rels := x.rels ++ [(c.tile, n, f, k)] })) ∧
    ((∃ i, f ≤ i ∧ i < f + k ∧ a.units.getD i .free ≠ .full) →
      ∃ u, exec (.crel c n f k) s = .next u ∧ u = { s with groups := u.groups } ∧
        (u.groupC (16 * c.tile.q + c.tile.g)).misuse = (s.groupC (16 * c.tile.q + c.tile.g)).misuse + 1)) ∧
  (∀ (s : State) (t : TileRef) (n f k : Nat) (a : Area) (w h m : Nat), s.area t n = some a → 1 ≤ k → f < a.units.length →
    a.units.getD f .free = .held w h m →
    ∃ (u : State) (b : Area), exec (.creditHoldTimeout t n f k) s = .next (u.entryTurn 129 t) ∧ u.area t n = some b ∧ b.queue = a.queue ∧
      (∀ i, f ≤ i → i < f + k → b.units.getD i .free = (if heldBy w h (a.units.getD i .free) = true then .free else a.units.getD i .free)) ∧
      (∀ i, (i < f ∨ f + k ≤ i) → b.units.getD i .free = a.units.getD i .free) ∧
      (u.groupC (16 * t.q + t.g)).expiries = (s.groupC (16 * t.q + t.g)).expiries + 1 ∧ u.passes = s.passes ∧
      (∀ m, (u.tile m).mem = (s.tile m).mem) ∧
      u.log.recs.head?.map (fun r => (r.body.code, r.body.detail0, r.body.detail1)) = some (0x613A, n, f) ∧
      ((u.tile (s.phys t)).hwaits = [] → u.entryTurn 129 t = u))

/-- A read through a handle to another tile is served or refused by its target, and waits at a frozen crossing. -/
def Obligations.RemoteReadsServe : Prop :=
  ∀ (s : State) (c : OpCtx) (h off len : Nat) (x : Pass),
    let n := s.phys c.tile
    let e := (s.tile n).handle h
    let m := s.phys (hTile e)
    s.livePass c = some x →
    (s.pathFrozen c.tile (hTile e) = true → ∃ u, exec (.remoteTileRead c h off len) s = .next u ∧ u = { s with tiles := u.tiles } ∧
      u.tile n = { s.tile n with waits := tput (s.tile n).waits 2 0xC } ∧ (∀ k, k ≠ n → u.tile k = s.tile k)) ∧
    (s.pathFrozen c.tile (hTile e) = false →
      (∀ r, hValid e = true → hKind e = 1 → hRd e = true → off + len ≤ hLen e →
        (s.tile m).region (hTarget e) false = .ok r → hBase e + off + len ≤ r.len →
        ∃ u, exec (.remoteTileRead c h off len) s = .next u ∧
          u = { s with tiles := u.tiles, arbs := u.arbs, groups := u.groups,
                       out := { s.out with words := (s.tile m).words (r.base + hBase e + off) len } } ∧
          u.tile n = { s.tile n with waits := tdel (s.tile n).waits 2 } ∧ (∀ k, k ≠ n → u.tile k = s.tile k) ∧
          (u.arb (resKey (.scratchSlots (hTile e)))).count = (s.arb (resKey (.scratchSlots (hTile e)))).count + len ∧
          (u.arb (resKey (.scratchSlots (hTile e)))).reqs = (s.arb (resKey (.scratchSlots (hTile e)))).reqs ∧
          (∀ k, k ≠ resKey (.scratchSlots (hTile e)) → u.arb k = s.arb k) ∧
          (∀ g, u.groupC g = { s.groupC g with unsched := (u.groupC g).unsched })) ∧
      (∀ code,
        ((hValid e = false ∧ code = 0x6132) ∨
         (hValid e = true ∧ (hKind e ≠ 1 ∨ hRd e = false) ∧ code = 0x6134) ∨
         (hValid e = true ∧ hKind e = 1 ∧ hRd e = true ∧ hLen e < off + len ∧ code = 0x6133) ∨
         (hValid e = true ∧ hKind e = 1 ∧ hRd e = true ∧ off + len ≤ hLen e ∧
            (s.tile m).region (hTarget e) false = .error (.fault code)) ∨
         (∃ r, hValid e = true ∧ hKind e = 1 ∧ hRd e = true ∧ off + len ≤ hLen e ∧ (s.tile m).region (hTarget e) false = .ok r ∧
            r.len < hBase e + off + len ∧ code = 0x6133)) →
        s.slots.length = 16 → x.slot < 16 → (s.slot x.slot).mirror.rj = .idle →
        ∃ u, exec (.remoteTileRead c h off len) s = .next u ∧ (u.slot x.slot).state = .halted ∧ u.tiles = s.tiles ∧
          u.log.recs.head?.map (fun r => (r.body.code, r.body.handling)) = some (code, .program)))

/-- The eight stream operations issue a stream, wait for a place, or fault. -/
def Obligations.StreamsIssue : Prop :=
  Safety.StreamStarts .hoist 0x30 ∧ Safety.StreamStarts .spill 0x31 ∧ Safety.StreamStarts .tileRead 0x32 ∧
  Safety.StreamStarts .tileWrite 0x33 ∧ Safety.StreamStarts .windowWrite 0x34 ∧ Safety.StreamStarts .queuePush 0x35 ∧
  Safety.StreamStarts .queuePop 0x36 ∧ Safety.StreamStarts .tierPush 0x37

/-- A completed HOIST, TILE_READ, TILE_WRITE, QUEUE_PUSH, QUEUE_POP or TIER_PUSH transfer moves the words of its stream. -/
def Obligations.TransfersMoveWords : Prop :=
  ∀ (s : State) (t : TileRef) (id : Nat) (x : Stream),
    let n := s.phys t
    let tl := s.tile n
    let c := s.chunkOf tl x x.done
    let hd := (s.slot x.slot).header? t (sLocal x.desc)
    let goes := fun (u : State) => x.done + c < sLen x.desc → ∃ y, (u.tile n).stream? id = some y ∧ y.done = x.done + c ∧ y.desc = x.desc
    trOk t = true → tl.stream? id = some x → x.held = false → x.conv = none → x.answers = [] → x.skipped = [] → 0 < c →
    x.room tl x.done = true → 0 < x.granted → tl.queued = [] → tl.hwaits = [] →
    (sOp x.desc = 0x30 → ∀ a ws, s.place x x.done = .stack a →
      (s.readUnit x.slot ((s.slot x.slot).unitAt a).1 ((s.slot x.slot).unitAt a).2).2 = some ws →
      ∃ u, exec (.transferComplete t id) s = .next u ∧ (u.tile n).mem = x.place tl hd x.done ((ws.drop (a % 256 / 16)).take (c / 16)) ∧
        goes u ∧ (∀ k, k ≠ n → (u.tile k).mem = (s.tile k).mem) ∧ u.queues = s.queues) ∧
    (sOp x.desc = 0x32 → ∀ m a, s.remoteBase (tl.handle (sRemote x.desc)) (x.done / 32) (c / 32) false = .ok (m, a) →
      ∃ u, exec (.transferComplete t id) s = .next u ∧ (u.tile n).mem = x.place tl hd x.done ((s.tile m).words a (c / 32)) ∧ goes u ∧
        (∀ k, k ≠ n → u.tile k = s.tile k) ∧ u = { s with tiles := u.tiles, arbs := u.arbs, groups := u.groups }) ∧
    (sOp x.desc = 0x33 → ∀ a,
      let h := tl.handle (sRemote x.desc)
      let m := s.phys (hTile h)
      let off := hBase h + x.done / 32
      let b := 2 * (hBase ((s.tile m).handle (hTarget h)) + off)
      s.area (hTile h) (hTarget h) = some a → trOk (hTile h) = true → m ≠ n →
      ((∀ i < c / 16 / 2, heldBy (trNum t) (sRemote x.desc) (a.units.getD ((off + i) / 32) .free) = true) →
        ∃ u, exec (.transferComplete t id) s = .next u ∧
          (u.tile m).mem = ((x.fetch tl x.done c).mapIdx (fun i w => (i, w))).foldl (fun y iw => Memory.writeWord y (b + iw.1) iw.2) (s.tile m).mem ∧
          goes u ∧ (∀ k, k ≠ m → (u.tile k).mem = (s.tile k).mem) ∧ u = { s with tiles := u.tiles, arbs := u.arbs, groups := u.groups }) ∧
      ((∃ i < c / 16 / 2, heldBy (trNum t) (sRemote x.desc) (a.units.getD ((off + i) / 32) .free) = false) →
        (∃ r ∈ a.queue ++ a.late, r.tile = trNum t ∧ r.handle = sRemote x.desc) →
        ∃ u, exec (.transferComplete t id) s = .next u ∧ u = { s with tiles := u.tiles } ∧ (∀ k, k ≠ n → u.tile k = s.tile k) ∧
          u.tile n = { tl with waits := tput tl.waits 2 7 })) ∧
    (∀ q, sOp x.desc = 0x35 → s.queue? (sAddr x.desc) = some q →
      let words := 2 * qMsg q.desc
      let ws := x.part ++ x.fetch tl x.done c
      let k := ws.length / words
      (0 < k → 32 * qMsg q.desc * k ≤ q.credit → q.tail.length + k ≤ qPage q.desc →
        ∃ u r, exec (.transferComplete t id) s = .next u ∧ u.queue? (sAddr x.desc) = some r ∧
          r = { q with tail := q.tail ++ chunks words (ws.take (k * words)), mbs := q.mbs ++ List.replicate k x.mb,
                       credit := q.credit - 32 * qMsg q.desc * k,
                       armed := q.armed || (decide (q.tail = []) && decide (qTimeout q.desc ≠ 0)), high := max q.high r.bytes } ∧
          (∀ j, j ≠ sAddr x.desc → u.queue? j = s.queue? j) ∧ (∀ k, (u.tile k).mem = (s.tile k).mem) ∧ goes u ∧
          u = { s with tiles := u.tiles, queues := u.queues, arbs := u.arbs, groups := u.groups }) ∧
      (0 < k → q.credit < 32 * qMsg q.desc * k → ∃ u, exec (.transferComplete t id) s = .next u ∧ u = { s with tiles := u.tiles } ∧
        u.tile n = { tl with waits := tput tl.waits 2 7 } ∧ (∀ k, k ≠ n → u.tile k = s.tile k)) ∧
      (0 < k → 32 * qMsg q.desc * k ≤ q.credit → qPage q.desc < q.tail.length + k →
        ∃ u, exec (.transferComplete t id) s = .next u ∧ u = { s with tiles := u.tiles } ∧
        u.tile n = { tl with waits := tput tl.waits 2 4 } ∧ (∀ k, k ≠ n → u.tile k = s.tile k))) ∧
    (∀ q, sOp x.desc = 0x36 → s.queue? (sAddr x.desc) = some q → x.part = [] → (∀ k < 6, (s.port k).heldRx = []) →
      (∀ m r, q.pop = some (m, r) → 0 < m.length →
        ∃ u, exec (.transferComplete t id) s = .next u ∧ (u.tile n).mem = x.place tl hd x.done (m.take (c / 16)) ∧
          u.queue? (sAddr x.desc) = some { r with credit := if m.length ≤ c / 16 then r.credit + 32 * qMsg q.desc else r.credit } ∧
          (∀ j, j ≠ sAddr x.desc → u.queue? j = s.queue? j) ∧ goes u ∧ (∀ k, k ≠ n → u.tile k = s.tile k) ∧
          u = { s with tiles := u.tiles, queues := u.queues, arbs := u.arbs, groups := u.groups }) ∧
      (q.pop = none → ∃ u, exec (.transferComplete t id) s = .next u ∧ u = { s with tiles := u.tiles } ∧
        u.tile n = { tl with waits := tput tl.waits 2 3 } ∧ (∀ k, k ≠ n → u.tile k = s.tile k))) ∧
    (sOp x.desc = 0x37 → sLen x.desc ≤ x.done + c →
      let ws := x.part ++ x.fetch tl x.done c
      let hdr := pushHeader ws
      ((s.slot x.slot).pushWaits hdr x.step = false →
        ∃ u, exec (.transferComplete t id) s = .next u ∧ u.out = { s.out with tier := s.out.tier ++ [(x.slot, phChip hdr, ⟨hdr, ws.drop 2, x.step, x.mb⟩)] } ∧
          (∀ k, (u.tile k).mem = (s.tile k).mem) ∧ u.queues = s.queues ∧ u.dram = s.dram ∧ u.log = s.log) ∧
      ((s.slot x.slot).pushWaits hdr x.step = true →
        ∃ u, exec (.transferComplete t id) s = .next u ∧ u = { s with tiles := u.tiles } ∧
          u.tile n = { tl with waits := tput tl.waits 2 7 } ∧ (∀ k, k ≠ n → u.tile k = s.tile k)))

/-- Sections pass, drain rates follow the tick rate, deadline misses are counted once, and an unanswered window write rolls back. -/
def Obligations.StreamSectionsAndDeadlines : Prop :=
  (∀ (s : State) (c : OpCtx) (id : Nat) (p : Pass) (x : Stream),
    let n := s.phys c.tile
    let tl := s.tile n
    let total := (sLen x.desc + x.secBytes tl - 1) / max 1 (x.secBytes tl)
    s.livePass c = some p → tl.stream? id = some x → tl.queued = [] → tl.hwaits = [] → x.pass = p.id → x.conv = none → x.cout = [] →
    x.passed + x.due < total →
    (sInbound x.desc = true → x.secDone tl ≤ x.passed + x.due →
      ∃ u, exec (.sadv c id) s = .next u ∧ u = { s with tiles := u.tiles } ∧ u.tile n = { tl with waits := tput tl.waits 2 3 } ∧
        (∀ k, k ≠ n → u.tile k = s.tile k)) ∧
    ((sInbound x.desc = true → x.passed + x.due < x.secDone tl) → (s.slot x.slot).inputStream x.desc tl = true →
      ∃ u, exec (.sadv c id) s = .next u ∧ u = { s with tiles := u.tiles } ∧ (u.tile n).stream? id = some { x with due := x.due + 1 } ∧
        u.tile n = { tl with streams := (u.tile n).streams, waits := tdel tl.waits 2 } ∧ (∀ k, k ≠ n → u.tile k = s.tile k)) ∧
    ((sInbound x.desc = true → x.passed + x.due < x.secDone tl) → (s.slot x.slot).inputStream x.desc tl = false →
      ∃ u, exec (.sadv c id) s = .next u ∧
        ((x.done < sLen x.desc ∨ (sInbound x.desc = true ∧ x.passed + 1 < total)) →
          ∃ y, (u.tile n).stream? id = some y ∧ y.passed = x.passed + 1 ∧ y.done = x.done ∧ y.desc = x.desc ∧ y.due = x.due) ∧
        (x.passed + 1 = total → sLen x.desc ≤ x.done → x.leased = false →
          x.answers = [] → (∀ y ∈ tl.streams, y.id = id → y = x) → (u.tile n).stream? id = none) ∧
        (∀ k, (u.tile k).mem = (s.tile k).mem ∧ (u.tile k).handles = (s.tile k).handles) ∧
        u = { s with tiles := u.tiles, arbs := u.arbs, groups := u.groups, pools := u.pools, dram := u.dram })) ∧
  (∀ (s : State) (t : TileRef) (id : Nat) (x : Stream) (d : BitVec 256), (s.tile (s.phys t)).stream? id = some x →
    (s.slot x.slot).ingest.declared = some d → sOp x.desc = 0x36 → sAddr x.desc ∈ s.ingestQueue x.slot →
    0 < s.rate (groupNum t.q t.g) →
    let r := 10 ^ 12 * s.rate (groupNum t.q t.g)
    exec (.drainRateUpdate t id) s = .next (s.updStream (s.phys t) id (fun y =>
      { y with drain := (1024 * frameBytes d * cadence d * 65536 + r - 1) / r }))) ∧
  (∀ (s : State) (t : TileRef) (id : Nat) (x : Stream), (s.tile (s.phys t)).stream? id = some x → x.slot < s.slots.length →
    x.slack (s.tile (s.phys t)) = some 0 → s.waiting (trNum t) id = true →
    (x.missed = false → ∃ u y, exec (.deadlineMiss t id) s = .next u ∧ (u.slot x.slot).str.misses = (s.slot x.slot).str.misses + 1 ∧
      (u.tile (s.phys t)).stream? id = some y ∧ y.missed = true ∧ (∀ k, k ≠ x.slot → u.slot k = s.slot k) ∧ u.log = s.log) ∧
    (x.missed = true → exec (.deadlineMiss t id) s = .next s)) ∧
  (∀ (s : State) (t : TileRef) (id sq : Nat) (x : Stream), (s.tile (s.phys t)).stream? id = some x →
    x.answers.any (fun a => decide (a.1 = sq)) = true → s.slots.length = 16 → x.slot < 16 →
    ∃ u, exec (.streamAnswerTimeout t id sq) s = .next u ∧ (u.slot x.slot).mirror.pending = true ∧ (u.slot x.slot).seq.stopped = true ∧
      u.log.recs.any (fun r => decide (r.body.code = 0x6147 ∧ r.body.pennant = x.slot ∧ r.body.handling = .rollback)) = true)

/-- An arbiter grants by rotation between the slots, and every reserved grant to the oldest request. -/
def Obligations.ArbitersRotate : Prop :=
  ∀ (s : State) (x : Resource),
    let key := resKey x
    let a := s.arb key
    (a.reqs = [] → exec (.arbiterGrant x) s = .next s) ∧
    (∀ o rest, a.reqs = o :: rest →
      (∀ r ∈ a.reqs, s.frozenAt key r = false ∧ r.slot < 17 ∧ s.bankBusy ((r.paths.headD []).headD 0) = false) →
      (∀ p k, k < 17 → p = (a.last + 1 + k) % 17 → (∃ r ∈ a.reqs, r.slot = p) → (∀ j < k, ∀ r ∈ a.reqs, r.slot ≠ (a.last + 1 + j) % 17) →
        (a.count + 1) % max 1 s.test.grantPeriod ≠ 0 →
        ∃ u, exec (.arbiterGrant x) s = .next u ∧ (u.arb key).last = p ∧ (u.arb key).count = a.count + 1 ∧
          (∀ n, (u.tile n).mem = (s.tile n).mem ∧ (u.tile n).handles = (s.tile n).handles) ∧
          (∀ i, u.slot i = { s.slot i with str := (u.slot i).str }) ∧
          u = { s with tiles := u.tiles, slots := u.slots, arbs := u.arbs, groups := u.groups, queues := u.queues }) ∧
      ((a.count + 1) % max 1 s.test.grantPeriod = 0 →
        ∃ u, exec (.arbiterGrant x) s = .next u ∧ (u.arb key).last = o.slot ∧ (u.arb key).count = a.count + 1 ∧
          (o.slot < s.slots.length → o.slot < 16 → (u.slot o.slot).str.reserved = (s.slot o.slot).str.reserved + 1) ∧
          (∀ n, (u.tile n).mem = (s.tile n).mem ∧ (u.tile n).handles = (s.tile n).handles) ∧
          (∀ i, u.slot i = { s.slot i with str := (u.slot i).str }) ∧
          u = { s with tiles := u.tiles, slots := u.slots, arbs := u.arbs, groups := u.groups, queues := u.queues }) ∧
      (rest = [] → ∀ j, o.paths = [[j]] →
        (∀ y, o.tile < 10000 → (s.tile (s.phys (refOf o.tile))).stream? o.stream = some y →
          ∃ u z, exec (.arbiterGrant x) s = .next u ∧ (u.arb key).reqs = [] ∧
            (u.tile (s.phys (refOf o.tile))).stream? o.stream = some z ∧ z.granted = y.granted + 1 ∧ z.done = y.done) ∧
        (∀ n q, o.tile = queueTile n → s.queue? n = some q →
          ∃ u, exec (.arbiterGrant x) s = .next u ∧ (u.arb key).reqs = [] ∧
            u.queue? n = some (if q.engine then { q with granted := q.granted + 1 } else { q with engine := true }) ∧
            (∀ m, m ≠ n → u.queue? m = s.queue? m))))

/-- A write into a leased unit makes it stale until refetched, and its release event frees the lease everywhere. -/
def Obligations.HoistLeases : Prop :=
  (∀ (s : State) (t : TileRef) (id unit i : Nat) (x : Stream),
    let n := s.phys t
    let tl := s.tile n
    let lo := x.loc (x.unitStart i)
    let hi := x.loc (x.unitEnd i)
    let used := lo < (x.passed + x.due) * x.secBytes tl ∨ ∃ r ∈ x.seen, r.1 < hi ∧ lo < r.2
    (trNum t, id, unit % 2 ^ 30) ∈ (s.stack (unit / 2 ^ 30)).notices → tl.stream? id = some x → s.unitIndex x unit = some i →
    ∃ u y, exec (.staleNotice t id unit) s = .next u ∧ (u.tile n).stream? id = some y ∧ i ∈ y.stale ∧ (∀ j ∈ x.stale, j ∈ y.stale) ∧
      (u.stack (unit / 2 ^ 30)) = { s.stack (unit / 2 ^ 30) with
        notices := (s.stack (unit / 2 ^ 30)).notices.erase (trNum t, id, unit % 2 ^ 30) } ∧
      (∀ k, k ≠ unit / 2 ^ 30 → u.stack k = s.stack k) ∧
      u.tile n = { tl with streams := (u.tile n).streams } ∧ (∀ k, k ≠ n → u.tile k = s.tile k) ∧
      (¬ used → y.wrote = x.wrote ∧ u = { s with tiles := u.tiles, dram := u.dram }) ∧
      (used → y.wrote = true ∧ (x.slot < s.slots.length → (u.slot x.slot).str.consumed = (s.slot x.slot).str.consumed + 1)) ∧
      (used → x.wrote = false →
        u.log.recs.head?.map (fun r => (r.body.code, r.body.handling, r.body.pennant, r.body.detail0)) = some (0x6144, .event, x.slot, unit)) ∧
      (used → x.wrote = true → u = { s with tiles := u.tiles, dram := u.dram, slots := u.slots })) ∧
  (∀ (s : State) (t : TileRef) (id unit i : Nat) (x : Stream) (ws : List Code160),
    let n := s.phys t
    let r := s.readUnit x.slot (unit / 2 ^ 30) (unit % 2 ^ 30)
    let tl := r.1.tile n
    let hi := min (sLen x.desc) (256 * (i + 1) - sAddr x.desc % 256)
    (s.tile n).stream? id = some x → x.conv = none → s.unitIndex x unit = some i → i ∈ x.stale → r.2 = some ws → x.slot < r.1.slots.length →
    ∃ u, exec (.leaseRefetchDone t id unit) s = .next u ∧ (∀ y, (u.tile n).stream? id = some y → i ∉ y.stale) ∧
      (u.slot x.slot).str.refetches = (r.1.slot x.slot).str.refetches + 1 ∧ u.log = r.1.log ∧
      (hi ≤ x.done → x.done ≤ x.unitStart i + x.bufBytes tl →
        (u.tile n).mem = x.place tl ((s.slot x.slot).header? t (sLocal x.desc)) (x.unitStart i)
          ((ws.drop (if i = 0 then sAddr x.desc % 256 / 16 else 0)).take ((hi - x.unitStart i) / 16))) ∧
      (¬ (hi ≤ x.done ∧ x.done ≤ x.unitStart i + x.bufBytes tl) → (u.tile n).mem = tl.mem)) ∧
  (∀ (s : State) (t : TileRef) (ev : Nat),
    let tl := s.tile (s.phys t)
    let ids := (tl.streams.filter (fun x => x.leased && decide (sRelease x.desc = ev))).map Stream.id
    trOk t = true → (∀ k, (s.tile k).queued = []) → tl.hwaits = [] →
    ∃ u, exec (.leaseRelease t ev) s = .next u ∧ (u.tile (s.phys t)).events = tl.events ++ [ev] ∧
      (∀ k, (u.stack k).leases = (s.stack k).leases.filter (fun l => !(decide (l.tile = trNum t) && decide (l.stream ∈ ids)))) ∧
      (∀ k, (u.stack k).notices = (s.stack k).notices.filter (fun l => !(decide (l.1 = trNum t) && decide (l.2.1 ∈ ids)))) ∧
      (∀ k, u.stack k = { s.stack k with leases := (u.stack k).leases, notices := (u.stack k).notices }) ∧
      u.tile (s.phys t) = { tl with streams := (u.tile (s.phys t)).streams, events := tl.events ++ [ev] } ∧
      (∀ k, k ≠ s.phys t → u.tile k = s.tile k) ∧ u = { s with tiles := u.tiles, dram := u.dram })

/-- A queue engine moves pages from tail to head or middle and from middle to head, and a tail timer emits a short page. -/
def Obligations.BuntingPages : Prop :=
  ∀ (s : State) (n : Nat) (q : Queue), n < 1024 → s.queue? n = some q → qConsumer q.desc / 2 ^ 12 = 0 → (∀ k < 6, (s.port k).heldRx = []) →
    let len := if qPage q.desc ≤ q.tail.length then qPage q.desc else q.short
    let page := q.tail.take len
    let rest := q.tail.drop len
    let straight := q.head = [] ∧ q.middle = []
    let room := q.midBytes + 32 * qMsg q.desc * min (qPage q.desc) q.tail.length ≤ 65536 * qMiddle q.desc
    let due := fun (d : PageDir) => match d with
      | .tailToHead => 0 < len ∧ straight
      | .tailToMiddle => 0 < len ∧ ¬ straight ∧ room
      | .middleToHead => q.head = [] ∧ q.middle ≠ []
    let key := resKey (.queueEngine (n / 256) (n % 4))
    let back := q.flying.foldl (fun s e => s.giveTag (n / 256) q.slot e.1 e.2 false) s
    let idle : Queue := { q with move := none, engine := false, flying := [], granted := 0 }
    let left : Queue := { idle with tail := rest, armed := decide (rest ≠ []) && decide (qTimeout q.desc ≠ 0), short := 0 }
    let others := fun (u : State) => ∀ k, k ≠ n → u.queue? k = s.queue? k
    (∀ d, q.move = none → ¬ due d → exec (.pageMove (n / 256) n d) s = .next s) ∧
    (∀ d, q.move = none → due d → (∀ r ∈ (s.arb key).reqs, r.tile ≠ queueTile n) →
      ∃ u, exec (.pageMove (n / 256) n d) s = .next u ∧
        u.queue? n = some { q with move := some d, engine := false, granted := 0, flying := [], counted := false,
                                   todo := q.pageUnits (s.slot q.slot) d } ∧ others u ∧
        u.arb key = { s.arb key with reqs := (s.arb key).reqs ++ [{ slot := q.slot, tile := queueTile n, stream := 0, paths := [[key]] }] } ∧
        (∀ k, k ≠ key → u.arb k = s.arb k) ∧ u = { s with queues := u.queues, arbs := u.arbs }) ∧
    (∀ d e s1, q.move = some d → q.engine = true → q.todo = [e] → s.engineTags n < 256 →
      s.takeTag (n / 256) q.slot e.1 e.2 false = .ok s1 →
      ∃ u, exec (.pageMove (n / 256) n d) s = .next u ∧
        u.queue? n = some { q with flying := q.flying ++ [e], todo := [], counted := false } ∧ others u ∧
        (tget u.pools (n / 256) {}).inUse = (tget s.pools (n / 256) {}).inUse + 1 ∧
        u = { s with queues := u.queues, arbs := u.arbs, pools := u.pools, dram := u.dram }) ∧
    (∀ d, q.move = some d → q.engine = true → q.todo = [] → q.flying.length ≤ q.granted →
      (d = .tailToHead → due d →
        ∃ u, exec (.pageMove (n / 256) n d) s = .next u ∧ u.queue? n = some { left with head := page } ∧ others u ∧
          u = { s with queues := u.queues, pools := back.pools, dram := back.dram }) ∧
      (d = .tailToMiddle → due d →
        ∃ u, exec (.pageMove (n / 256) n d) s = .next u ∧
          u.queue? n = some { left with middle := q.middle ++ [page.length], spilled := q.spilled + 1 } ∧ others u ∧
          u.dram = (back.putWords q.slot (page.flatten.mapIdx (fun i v => (q.midAt (q.midBytes + 16 * i), v)))).dram) ∧
      (∀ k more ws, d = .middleToHead → q.head = [] → q.middle = k :: more →
        (back.stackWords q.slot ((List.range (2 * qMsg q.desc * k)).map (fun i => q.midAt (16 * i) / 16))).2 = some ws →
        ∃ u, exec (.pageMove (n / 256) n d) s = .next u ∧
          u.queue? n = some { idle with head := chunks (2 * qMsg q.desc) (ws.map checkedWord), middle := more,
                                        start := (q.start + 16 * (2 * qMsg q.desc * k)) % max 1 (65536 * qMiddle q.desc) } ∧ others u) ∧
      (¬ due d → ∃ u, exec (.pageMove (n / 256) n d) s = .next u ∧ u.queue? n = some idle ∧ others u ∧
        u = { s with queues := u.queues, pools := back.pools, dram := back.dram })) ∧
    (q.armed = true → q.tail ≠ [] →
      ∃ u, exec (.tailTimeout (n / 256) n) s = .next u ∧
        u.queue? n = some { q with partials := q.partials + 1, short := q.tail.length, armed := false } ∧ others u ∧
        (q.slot < s.slots.length → (u.slot q.slot).str.partials = (s.slot q.slot).str.partials + 1) ∧
        (∀ p, u.slot p = { s.slot p with str := (u.slot p).str }) ∧ (∀ p, p ≠ q.slot → u.slot p = s.slot p) ∧
        u = { s with queues := u.queues, slots := u.slots }) ∧
    ((q.armed = false ∨ q.tail = []) → exec (.tailTimeout (n / 256) n) s = .next s)

/-- A forward pass issues once its version is released, a context is free and its stash is reserved. -/
def Obligations.ForwardPassesIssue : Prop :=
  ∀ (s : State) (p b : Nat) (bd : BitVec 256) (mb t : Nat),
    let x := s.slot p
    let free := sdPages x.stashDesc - x.seq.pages
    let anyFb := x.blocks.any (fun d => decide (bdFb d ≠ 0))
    s.seqRuns p = true → x.block? b = some bd → s.nextForward p bd = some (mb, t) → s.live p .forward b mb t = false → s.slots.length = 16 →
    ((x.rejoinHolds t = true ∨ s.spareHolds bd = true) → exec (.forwardPassIssue p b) s = .next s) ∧
    (x.rejoinHolds t = false → s.spareHolds bd = false →
      (x.versionsReady bd t = true → s.contexts (bdHome bd) < 256 →
        (bdFirst bd = true → x.fullNeed ≤ free ∨ (anyFb = true ∧ x.keptNeed ≤ free)) →
        ∃ u, exec (.forwardPassIssue p b) s = .next u ∧
          u.passes = s.passes ++ [{ id := s.nextPass, slot := p, kind := .forward, block := b, mb := mb, step := t, homeQ := bdHome bd }] ∧
          u.nextPass = s.nextPass + 1 ∧ (u.slot p).seq.step = max x.seq.step t ∧ (u.slot p).seq.newest = max x.seq.step t ∧
          (u.slot p).seq.nextMb = x.seq.nextMb + (if bdFirst bd then 1 else 0) ∧ (u.slot p).seed.inForce = x.seed.at (max x.seq.step t) ∧
          (bdFirst bd = true → x.fullNeed ≤ free → (u.slot p).seq.full = x.seq.full + 1 ∧
            ∃ r ∈ (u.slot p).seq.resv, r.mb = mb ∧ r.step = t ∧ r.fallback = false) ∧
          (bdFirst bd = true → free < x.fullNeed → (u.slot p).seq.fall = x.seq.fall + 1 ∧
            ∃ r ∈ (u.slot p).seq.resv, r.mb = mb ∧ r.step = t ∧ r.fallback = true) ∧
          (bdFb bd = 0 → ∃ e ∈ (u.slot p).seq.stash, e.block = bdIndex bd ∧ e.mb = mb ∧ e.step = t) ∧
          u.slot p = { x with seq := (u.slot p).seq, seed := (u.slot p).seed, redoTo := (u.slot p).redoTo } ∧
          (∀ k, k ≠ p → u.slot k = s.slot k) ∧ u = { s with slots := u.slots, passes := u.passes, nextPass := u.nextPass }) ∧
      (x.versionsReady bd t = true → 256 ≤ s.contexts (bdHome bd) →
        ∃ u, exec (.forwardPassIssue p b) s = .next u ∧ (b, .forward) ∈ (u.slot p).seq.cwait ∧
          u.slot p = { x with seq := { x.seq with cwait := (u.slot p).seq.cwait } } ∧ (∀ k, k ≠ p → u.slot k = s.slot k) ∧
          u = { s with slots := u.slots }) ∧
      (x.versionsReady bd t = false →
        ((b, mb, t) ∉ x.seq.vwait → ∃ u, exec (.forwardPassIssue p b) s = .next u ∧
          u.slot p = { x with seq := { x.seq with vwaits := x.seq.vwaits + 1, vwait := x.seq.vwait ++ [(b, mb, t)] } } ∧
          (∀ k, k ≠ p → u.slot k = s.slot k) ∧ u = { s with slots := u.slots }) ∧
        ((b, mb, t) ∈ x.seq.vwait → exec (.forwardPassIssue p b) s = .next s)) ∧
      (x.versionsReady bd t = true → s.contexts (bdHome bd) < 256 → bdFirst bd = true → free < x.fullNeed →
        (anyFb = false ∨ free < x.keptNeed) → x.mirror.rj = .idle →
        ∃ u, exec (.forwardPassIssue p b) s = .next u ∧ u.passes = s.passes ∧ (u.slot p).seq.stopped = true ∧ (u.slot p).state = .halted ∧
          u.log.recs.head?.map (fun r => (r.body.code, r.body.handling, r.body.pennant)) = some (0x6152, .program, p)))

/-- Backward passes issue in block order, and a released pass leaves and is recorded. -/
def Obligations.BackwardPassesAndRelease : Prop :=
  (∀ (s : State) (p b mb t : Nat) (bd : BitVec 256),
    let x := s.slot p
    let fb := x.inFallback mb t && decide (bdFb bd ≠ 0)
    let turn := if bdLast bd then s.awaits p 0 bd mb = false else (b + 1, mb, t) ∈ x.seq.bwd
    let free := s.spareHolds bd = false ∧ ∀ w ∈ x.blockSets bd, s.gatherHeld p b mb t w = false
    s.seqRuns p = true → x.block? b = some bd → s.slots.length = 16 →
    x.seq.fwd.find? (fun e => decide (e.1 = b) && decide (e.2.1 = mb) && !s.live p .backward b mb e.2.2) = some (b, mb, t) →
    (turn → free → s.contexts (bdHome bd) < 256 → (fb = true → x.seq.reserveBy = 0) →
      ∃ u, exec (.backwardPassIssue p b mb) s = .next u ∧
        u.passes = s.passes ++ [{ id := s.nextPass, slot := p, kind := .backward, block := b, mb := mb, step := t, homeQ := bdHome bd, reserve := fb }] ∧
        u.nextPass = s.nextPass + 1 ∧
        u.slot p = { x with seq := { x.seq with cwait := x.seq.cwait.erase (b, .backward),
                                                reserveBy := if fb then s.nextPass else x.seq.reserveBy,
                                                recomputes := x.seq.recomputes + (if fb then 1 else 0) } } ∧
        (∀ k, k ≠ p → u.slot k = s.slot k) ∧ u = { s with slots := u.slots, passes := u.passes, nextPass := u.nextPass }) ∧
    (turn → free → (256 ≤ s.contexts (bdHome bd) ∨ (fb = true ∧ x.seq.reserveBy ≠ 0)) →
      ∃ u, exec (.backwardPassIssue p b mb) s = .next u ∧ (b, .backward) ∈ (u.slot p).seq.cwait ∧
        u.slot p = { x with seq := { x.seq with cwait := (u.slot p).seq.cwait } } ∧ (∀ k, k ≠ p → u.slot k = s.slot k) ∧
        u = { s with slots := u.slots }) ∧
    ((¬ turn ∨ ¬ free) → exec (.backwardPassIssue p b mb) s = .next s)) ∧
  (∀ (s : State) (id : Nat) (x : Pass), s.pass? id = some x →
    ((x.abandoned = true ∨ s.passDone x = false ∨ (s.slot x.slot).mirror.pending = true ∨ (s.slot x.slot).seq.byHost = true) →
      exec (.passRelease id) s = .next s) ∧
    (x.abandoned = false → s.passDone x = true → x.attempt = 0 →
      x.slot < s.slots.length → (s.slot x.slot).mirror.pending = false → (s.slot x.slot).seq.byHost = false →
      (s.slot x.slot).compares x.step = false → (∀ n, (s.tile n).queued = [] ∧ (s.tile n).hwaits = []) →
      let q := (s.slot x.slot).seq
      let mine := fun (e : StashEnt) => decide (e.block = x.block) && decide (e.mb = x.mb) && decide (e.step = x.step)
      let n := ((q.retired.find? (fun e => decide (e.1 = x.block) && decide (e.2.1 = x.step))).map (fun e => e.2.2)).getD 0
      ∃ u, exec (.passRelease id) s = .next u ∧ u.pass? id = none ∧ u.log = s.log ∧
        (∀ y, y.id ≠ id → (y ∈ u.passes ↔ y ∈ s.passes)) ∧
        (x.kind = .forward → (u.slot x.slot).seq = { q with fwd := q.fwd ++ [(x.block, x.mb, x.step)] }) ∧
        (x.kind = .backward → (u.slot x.slot).seq.bwd = q.bwd ++ [(x.block, x.mb, x.step)] ∧
          (u.slot x.slot).seq.fwd = q.fwd.erase (x.block, x.mb, x.step) ∧
          (u.slot x.slot).seq.stash = q.stash.filter (fun e => !mine e) ∧
          (u.slot x.slot).seq.retired = q.retired.erase (x.block, x.step, n) ++ [(x.block, x.step, n + 1)] ∧
          (u.slot x.slot).seq.reserveBy = (if q.reserveBy = id then 0 else q.reserveBy)) ∧
        u.out.tier = s.out.tier ++ x.outs.map (fun (o : Nat × PushMsg) => (x.slot, o.1, o.2)) ∧
        (∀ k, k ≠ x.slot → u.slot k = s.slot k) ∧ (∀ k, (u.tile k).mem = (s.tile k).mem ∧ (u.tile k).handles = (s.tile k).handles)))

/-- A gather pass pushes the sums of its tie group, and an abandoned attempt issues again. -/
def Obligations.GatherAndRetryPasses : Prop :=
  (∀ (s : State) (p tensor mb t : Nat),
    let x := s.slot p
    let home := ((x.blocks.find? (fun b => decide (bdIndex b ∈ x.setBlocks tensor))).map bdHome).getD 0
    let first := (x.setBlocks tensor).headD 0
    let y : Pass := { id := s.nextPass, slot := p, kind := .gather, tensor := tensor, mb := mb, step := t, homeQ := home }
    let s1 := s.updSeq p (fun q => { q with cwait := q.cwait.erase (first, .gather) })
    let r := { s1 with passes := s.passes ++ [y], nextPass := s.nextPass + 1 }.gatherSum p tensor t mb
    s.seqRuns p = true → x.wsets.any (fun w => decide (wsTensor w = tensor) && decide (wsTie w ≠ 63)) = true →
    ((tensor, mb, t) ∉ x.seq.gathered → (∀ z ∈ s.passes, z.slot = p → z.kind ≠ .gather) → (∀ z ∈ s.passes, z.id ≠ s.nextPass) →
      (∀ b ∈ x.setBlocks tensor, (b, mb, t) ∈ x.seq.bwd) →
      (256 ≤ s.contexts home → s.slots.length = 16 → ∃ u, exec (.gatherPass p tensor mb t) s = .next u ∧ (first, .gather) ∈ (u.slot p).seq.cwait ∧
        u.slot p = { x with seq := { x.seq with cwait := (u.slot p).seq.cwait } } ∧ u = { s with slots := u.slots }) ∧
      (s.contexts home < 256 → s.passDone y = true → (∀ n, (s.tile n).queued = [] ∧ (s.tile n).hwaits = []) →
        ∀ ps, r.2 = .ok ps → r.1.passes = s.passes ++ [y] → r.1.tiles = s.tiles → r.1.slots.length = 16 →
          (r.1.slot p).mirror.pending = false → (r.1.slot p).seq.byHost = false → (r.1.slot p).compares t = false →
          ∃ u, exec (.gatherPass p tensor mb t) s = .next u ∧ u.pass? y.id = none ∧
            u.out.tier = r.1.out.tier ++ ps.map (fun (o : Nat × PushMsg) => (p, o.1, o.2)) ∧
            (u.slot p).seq.gathered = (r.1.slot p).seq.gathered ++ [(tensor, mb, t)])) ∧
    ((∃ b ∈ x.setBlocks tensor, (b, mb, t) ∉ x.seq.bwd) → exec (.gatherPass p tensor mb t) s = .next s)) ∧
  (∀ (s : State) (id : Nat) (x : Pass), s.pass? id = some x → x.abandoned = true →
    (x.replayDue = true ∨ x.attempt = 0 ∨ (x.attempt = 1 ∧ x.spared = true)) → x.kind ≠ .gather →
    s.seqRuns x.slot = true → s.slots.length = 16 → (∀ e ∈ s.passStreams id, e.2.tags = 0) →
    (∀ e ∈ s.tiles, ∀ c ∈ e.2.checks, ¬ (c.pass = id ∧ c.attempt = x.attempt)) →
    (∀ bd, (s.slot x.slot).block? x.block = some bd → s.spareHolds bd = false) →
    (∀ n, (s.tile n).queued = [] ∧ (s.tile n).hwaits = []) →
    ∃ u, exec (.retryAttempt id) s = .next u ∧
      u.pass? id = some { x with abandoned := false, attempt := if x.replayDue then 0 else x.attempt + 1, replayDue := false, stashed := [],
                                 outs := [], digest := none, matched := false, cubes := 0, ran := [], rels := [] } ∧
      u.slot x.slot = { s.slot x.slot with recC := { (s.slot x.slot).recC with
        retries := (s.slot x.slot).recC.retries + (if x.replayDue then 0 else 1) } } ∧
      (∀ n, (u.tile n).mem = (s.tile n).mem ∧ (u.tile n).handles = (s.tile n).handles ∧ (∀ c ∈ (u.tile n).checks, c.pass ≠ id) ∧
        ∀ y ∈ (u.tile n).streams, y.pass = id → (s.slot x.slot).inputStream y.desc (s.tile n) = true ∧ y.due = 0 ∧ y.seen = []) ∧
      (∀ k, k ≠ x.slot → u.slot k = s.slot k) ∧
      u = { s with tiles := u.tiles, arbs := u.arbs, dram := u.dram, slots := u.slots, passes := u.passes })

/-- The end-to-end code finds code words clean and corrects any error of one symbol. -/
def Obligations.CodeCorrectsOneSymbol : Prop :=
  (∀ d : Data128, rsDecide (encodeWord d) = .clean) ∧
  (∀ (d : Data128) (k e : Nat), k < 20 → 0 < e → e < 256 → ¬ (d = 0 ∧ ((k = 16 ∧ e = 0x50) ∨ (k = 19 ∧ e = 0x4E))) →
    rsDecide (encodeWord d ^^^ BitVec.ofNat 160 (e * 256 ^ k)) = .corrected (encodeWord d) k) ∧
  rsDecide (encodeWord 0 ^^^ BitVec.ofNat 160 (0x50 * 256 ^ 16)) = .poisoned ∧
  rsDecide (encodeWord 0 ^^^ BitVec.ofNat 160 (0x4E * 256 ^ 19)) = .poisoned ∧
  rsDecide poison = .poisoned ∧
  (∀ k e : Nat, k < 20 → e < 256 → rsDecide (poison ^^^ BitVec.ofNat 160 (e * 256 ^ k)) ≠ .clean ∧
    ∀ w b, rsDecide (poison ^^^ BitVec.ofNat 160 (e * 256 ^ k)) ≠ .corrected w b)

/-- A stack word is stored enciphered, corrected and delivered deciphered, and a fresh unit reads zeros. -/
def Obligations.StackWordsUnderTheCipher : Prop :=
  ∀ (s : State) (n who : Nat) (a : StackAddr),
    let x := s.stack n
    let at_ := 16 * a.unit + a.word
    let cell := Memory.readWord x.mem at_
    let tweak := n * 2 ^ 30 + a.unit
    let k := bankOf a.unit
    addrOk n a who = true →
    ((x.bank k).state = .active →
      (∀ (key : BitVec 512) (w p : Code160), tget? x.keys who = some key → (rsDecide w = .clean ∧ p = w ∨ ∃ b, rsDecide w = .corrected p b) →
        (x.written a.unit = true → ∃ u, exec (.stackWrite n a who w {}) s = .next u ∧
          Memory.readWord (u.stack n).mem at_ = encipher key tweak a.word p ∧
          (∀ k, k ≠ at_ → Memory.readWord (u.stack n).mem k = Memory.readWord x.mem k) ∧
          (∀ m, m ≠ n → u.stack m = s.stack m) ∧ (u.stack n).used = x.used ∧
          (u.stack n).corrected = x.corrected + (if rsDecide w = .clean then 0 else 1) ∧ u = { s with dram := u.dram, caches := u.caches }) ∧
        (x.written a.unit = false → ∃ u, exec (.stackWrite n a who w {}) s = .next u ∧ (u.stack n).written a.unit = true ∧
          Memory.readWord (u.stack n).mem at_ = encipher key tweak a.word p ∧
          (∀ i, i < 256 → a.unit / 16 * 256 + i ≠ at_ → Memory.readWord (u.stack n).mem (a.unit / 16 * 256 + i) =
            encipher key (n * 2 ^ 30 + (a.unit / 16 * 16 + i / 16)) (i % 16) 0) ∧
          (∀ j, j / 256 ≠ a.unit / 16 → Memory.readWord (u.stack n).mem j = Memory.readWord x.mem j) ∧
          u = { s with dram := u.dram, caches := u.caches })) ∧
      (∀ (key : BitVec 512) (w : Code160) (nz : Noise), tget? x.keys who = some key → unusable w = true →
        ∃ u, exec (.stackWrite n a who w nz) s = .next u ∧ Memory.readWord (u.stack n).mem at_ = poison ∧
          (rsDecide w = .poisoned → u.log = s.log) ∧
          (rsDecide w = .uncorrectable → u.log.recs.head?.map (fun r => (r.body.code, r.body.detail0, r.body.detail1)) = some (0x4106, tweak, a.word))) ∧
      (∀ (key : BitVec 512) (w : Code160) (nz : Noise), tget? x.keys who = some key → rsDecide w = .clean → nz.cipher ≠ 0 →
        ∃ u, exec (.stackWrite n a who w nz) s = .next u ∧
          Memory.readWord (u.stack n).mem at_ = (if nz.cipher = 1 then encipher key tweak a.word w else poison) ∧
          u.log.recs.head?.map (fun r => (r.body.code, r.body.transient)) = some (0x4107, decide (nz.cipher = 1))) ∧
      (∀ (key : BitVec 512) (nz : Noise), tget? x.keys who = some key → nz.cipher = 0 →
        (x.written a.unit = false → exec (.stackRead n a who nz) s = .next { s with out := { s.out with words := [0] } }) ∧
        (x.written a.unit = true → rsDecide (cell ^^^ nz.first) = .clean →
          exec (.stackRead n a who nz) s = .next { s with out := { s.out with words := [decipher key tweak a.word (cell ^^^ nz.first)] } }) ∧
        (∀ c b, x.written a.unit = true → rsDecide (cell ^^^ nz.first) = .corrected c b →
          ∃ u, exec (.stackRead n a who nz) s = .next u ∧ u.out.words = [decipher key tweak a.word c] ∧ (u.stack n).corrected = x.corrected + 1 ∧
            Memory.readWord (u.stack n).mem at_ = c ∧ (∀ k, k ≠ at_ → Memory.readWord (u.stack n).mem k = Memory.readWord x.mem k)) ∧
        (x.written a.unit = true → rsDecide (cell ^^^ nz.first) = .poisoned →
          ∃ u, exec (.stackRead n a who nz) s = .next u ∧ u.out.words = [poison] ∧ u.log = s.log ∧ (u.stack n).mem = x.mem) ∧
        (x.written a.unit = true → rsDecide (cell ^^^ nz.first) = .uncorrectable → unusable (cell ^^^ nz.again) = false →
          ∃ u, exec (.stackRead n a who nz) s = .next u ∧ u.out.words = [decipher key tweak a.word (checkedWord (cell ^^^ nz.again))] ∧
            u.log.recs.any (fun r => decide (r.body.code = 0x4102 ∧ r.body.detail0 = tweak ∧ r.body.detail1 = a.word) && r.body.transient) = true) ∧
        (x.written a.unit = true → rsDecide (cell ^^^ nz.first) = .uncorrectable → unusable (cell ^^^ nz.again) = true →
          ∃ u, exec (.stackRead n a who nz) s = .next u ∧ u.out.words = [poison] ∧ Memory.readWord (u.stack n).mem at_ = poison ∧
            u.log.recs.any (fun r => decide (r.body.code = 0x4103 ∧ r.body.detail0 = tweak ∧ r.body.detail1 = a.word)) = true))) ∧
    (∀ (key : BitVec 512) (w : Code160) (nz : Noise), tget? x.keys who = some key →
      exec (.stackWrite n a who w nz) s = exec (.stackWrite n a who w nz) (s.wake n k) ∧
      ((x.written a.unit = true ∨ (x.bank k).state ≠ .off) → exec (.stackRead n a who nz) s = exec (.stackRead n a who nz) (s.wake n k)) ∧
      (x.written a.unit = false → (x.bank k).state = .off →
        exec (.stackRead n a who nz) s = .next { s with out := { s.out with words := [0] } })) ∧
    (∀ (w : Code160) (nz : Noise), tget? x.keys who = none → who < 16 → s.slots.length = 16 → (s.slot who).mirror.rj = .idle →
      (s.slot who).state = .running →
      (∃ u, exec (.stackWrite n a who w nz) s = .next u ∧ u.dram = s.dram ∧ u.out.refusal = 0x4105 ∧ (u.slot who).state = .halted) ∧
      (∃ u, exec (.stackRead n a who nz) s = .next u ∧ u.dram = s.dram ∧ u.out.words = [] ∧ u.out.refusal = 0x4105 ∧ (u.slot who).state = .halted))

/-- A quarter cache serves hits from the pennant's ways and fills misses in order with writes. -/
def Obligations.QuarterCachesServe : Prop :=
  ∀ (s : State) (q p n : Nat) (a : StackAddr),
    let c := tget s.caches q {}
    addrOk n a p = true → n / 2 = q → p < 16 → s.slots.length = 16 →
    let here := c.lines.find? (fun l => decide (l.stack = n) && decide (l.unit = a.unit) && decide (l.way ∈ s.ways q p) && bit l.sectors (a.word / 2))
    let pend := c.fills.find? (fun f => decide (f.slot = p) && decide (f.stack = n) && decide (f.unit = a.unit) && decide (f.word = a.word))
    let counts := fun (u : State) (f : CacheCtrs → CacheCtrs) => (tget u.caches q {}).ctrs = f c.ctrs ∧
      u.slot p = { s.slot p with cacheC := f (s.slot p).cacheC } ∧ (∀ k, k ≠ p → u.slot k = s.slot k) ∧
      (∀ k, k ≠ q → tget u.caches k {} = tget s.caches k {}) ∧ u = { s with caches := u.caches, slots := u.slots, out := u.out }
    (∀ l, here = some l → rsDecide (l.words.getD a.word 0) = .clean →
      ∃ u, exec (.cacheRead q p n a {}) s = .next u ∧ u.out.words = [l.words.getD a.word 0] ∧
        (tget u.caches q {}).lines = c.lines ∧ (tget u.caches q {}).fills = c.fills ∧ counts u (fun k => { k with hits := k.hits + 1 })) ∧
    (∀ l w b, here = some l → rsDecide (l.words.getD a.word 0) = .corrected w b →
      ∃ u, exec (.cacheRead q p n a {}) s = .next u ∧ u.out.words = [w] ∧
        (tget u.caches q {}).lines = c.lines.filter (fun l => !(decide (l.stack = n) && decide (l.unit = a.unit))) ∧
        counts u (fun k => { k with hits := k.hits + 1, corrected := k.corrected + 1 })) ∧
    (∀ key, here = none → tget? (s.stack n).keys p = some key → ((s.stack n).bank (bankOf a.unit)).state = .active →
      ((s.stack n).written a.unit = false ∨ ∀ i < 16, rsDecide (Memory.readWord (s.stack n).mem (16 * a.unit + i)) = .clean) →
      ∃ u, exec (.cacheRead q p n a {}) s = .next u ∧ u.out.words = [] ∧ (tget u.caches q {}).lines = c.lines ∧
        (tget u.caches q {}).fills = c.fills ++ [⟨p, n, a.unit, a.word, (List.range 16).map (fun i =>
          if (s.stack n).written a.unit then decipher key (n * 2 ^ 30 + a.unit) i (Memory.readWord (s.stack n).mem (16 * a.unit + i)) else 0), false⟩] ∧
        counts u id) ∧
    (∀ f, pend = some f →
      ∃ u, exec (.cacheFill q p n a) s = .next u ∧ u.out.words = [f.words.getD a.word 0] ∧ (tget u.caches q {}).fills = c.fills.erase f ∧
        (f.met = false → (s.ways q p ≠ [] → ∃ l ∈ (tget u.caches q {}).lines, l.stack = n ∧ l.unit = a.unit ∧ l.words = f.words ∧ l.way < 16) ∧
          counts u (fun k => { k with misses := k.misses + 1 })) ∧
        (f.met = true → (tget u.caches q {}).lines = c.lines ∧ counts u (fun k => { k with notInstalled := k.notInstalled + 1 }))) ∧
    (pend = none → exec (.cacheFill q p n a) s = .next s)

/-- Scrub passes, the spare pseudo-channel and bank power gates. -/
def Obligations.ScrubAndBankPower : Prop :=
  (∀ (s : State) (n : Nat),
    (n < 8 → ∃ u, exec (.scrubPassStart (.stack n)) s = .next u ∧ (u.stack n).scrubOn = true ∧ (u.stack n).mem = (s.stack n).mem ∧
      (u.stack n).rowCorr = [] ∧ (u.stack n).laneCorr = [] ∧
      ((s.stack n).scrubOn = false → (u.stack n).scrubAt = 0 ∧ (u.stack n).overruns = (s.stack n).overruns) ∧
      ((s.stack n).scrubOn = true → (u.stack n).scrubAt = (s.stack n).scrubAt ∧ (u.stack n).overruns = (s.stack n).overruns + 1) ∧
      (∀ m, m ≠ n → u.stack m = s.stack m) ∧ u = { s with dram := u.dram }) ∧
    (n < 4 → ∃ u, exec (.scrubPassStart (.cartridge n)) s = .next u ∧ (u.cart n).scrubOn = true ∧ (u.cart n).mem = (s.cart n).mem ∧
      ((s.cart n).scrubOn = false → (u.cart n).scrubAt = 0) ∧
      ((s.cart n).scrubOn = true → (u.cart n).overruns = (s.cart n).overruns + 1) ∧
      (∀ m, m ≠ n → u.cart m = s.cart m) ∧ u = { s with carts := u.carts })) ∧
  (∀ (s : State) (n : Nat) (f g : List Code160), n < 8 → (s.stack n).scrubOn = true →
    let x := s.stack n
    let left := x.used.filter (fun t => !(x.bank (t / 2 ^ 14)).scrubbed)
    (nextUnit left 16 x.scrubAt = none → exec (.scrubUnit n f g) s = .next (s.setStack n { x with scrubOn := false, passes := x.passes + 1 })) ∧
    (∀ v, nextUnit left 16 x.scrubAt = some v →
      let r := fun w => scrubWord (Memory.readWord x.mem (16 * v + w)) (f.getD w 0) (g.getD w 0)
      ∃ u, exec (.scrubUnit n f g) s = .next u ∧ (u.stack n).scrubAt = v + 1 ∧ ((u.stack n).bank (bankOf v)).state = .active ∧
        (∀ w < 16, Memory.readWord (u.stack n).mem (16 * v + w) = (r w).1) ∧
        (∀ k, (k < 16 * v ∨ 16 * v + 16 ≤ k) → Memory.readWord (u.stack n).mem k = Memory.readWord x.mem k) ∧
        (∀ m, m ≠ n → (u.stack m).mem = (s.stack m).mem) ∧
        (∀ w < 16, (r w).2.2 ≠ 0 → u.log.recs.any (fun e => decide (e.body.code = (r w).2.2 ∧ e.body.detail1 = w)) = true))) ∧
  (∀ (s : State) (k : Nat) (f g : List Code160), k < 4 → (s.cart k).scrubOn = true →
    let x := s.cart k
    (x.next x.scrubAt = none → exec (.cartridgeScrubUnit k f g) s = .next (s.updCart k (fun x => { x with scrubOn := false, passes := x.passes + 1 }))) ∧
    (∀ v, x.next x.scrubAt = some v →
      let r := fun w => scrubWord (Memory.readWord x.mem (16 * v + w)) (f.getD w 0) (g.getD w 0)
      ∃ u, exec (.cartridgeScrubUnit k f g) s = .next u ∧ (u.cart k).scrubAt = v + 1 ∧
        (∀ w < 16, Memory.readWord (u.cart k).mem (16 * v + w) = (r w).1) ∧
        (∀ j, (j < 16 * v ∨ 16 * v + 16 ≤ j) → Memory.readWord (u.cart k).mem j = Memory.readWord x.mem j) ∧
        (∀ m, m ≠ k → (u.cart m).mem = (s.cart m).mem) ∧
        (∀ w < 16, (r w).2.2 ≠ 0 → u.log.recs.any (fun e => decide (e.body.code = (if (r w).2.2 = 0x4103 then 0x4108 else 0x4102) ∧
          e.body.detail1 = w)) = true))) ∧
  (∀ (s : State) (n pc : Nat), (s.stack n).moving = some pc →
    exec (.pseudoChannelMoveDone n) s = .next (s.setStack n { s.stack n with moving := none, pc32 := pc + 1 })) ∧
  (∀ (s : State) (n pc b : Nat), n < 8 → pc < 32 → b < 64 →
    let x := s.stack n
    let k := 64 * pc + b
    let late := (x.bank k).state = .retention ∧ x.scrubOn = true ∧ (x.bank k).scrubbed = false ∧ x.scrubAt / 2 ^ 18 ≤ k
    ((x.bank k).state = .active → (x.bank k).tags = 0 → ∃ u, exec (.bankIdleProposal n pc b) s = .next u ∧
      ((u.stack n).bank k).state = (if s.memSet.offAllowed = true ∧ (∀ t ∈ x.used, t / 2 ^ 14 ≠ k) then .off else .retention) ∧
      (∀ j, j ≠ k → (u.stack n).bank j = x.bank j) ∧ u.stack n = { x with banks := (u.stack n).banks } ∧
      (∀ m, m ≠ n → u.stack m = s.stack m) ∧ u = { s with dram := u.dram }) ∧
    ((x.bank k).state = .active → (x.bank k).tags ≠ 0 → ∃ u, exec (.bankIdleProposal n pc b) s = .next u ∧
      (u.stack n).bank k = { x.bank k with proposed := true, offOk := s.memSet.offAllowed } ∧
      (∀ j, j ≠ k → (u.stack n).bank j = x.bank j) ∧ u.stack n = { x with banks := (u.stack n).banks } ∧ u = { s with dram := u.dram }) ∧
    ((x.bank k).state = .active → exec (.bankWake n pc b) s = .next s) ∧
    ((x.bank k).state ≠ .active → exec (.bankIdleProposal n pc b) s = .next s ∧
      (¬ late → ∃ u, exec (.bankWake n pc b) s = .next u ∧ ((u.stack n).bank k).state = .active ∧
        (∀ j, j ≠ k → (u.stack n).bank j = x.bank j) ∧ u.stack n = { x with banks := (u.stack n).banks, wakes := x.wakes + 1 } ∧
        (∀ m, m ≠ n → u.stack m = s.stack m) ∧ u = { s with dram := u.dram }) ∧
      (late → ∃ u, exec (.bankWake n pc b) s = .next u ∧ ((u.stack n).bank k).state = .active ∧ ((u.stack n).bank k).scrubbed = true ∧
        (u.stack n).wakes = x.wakes + 1 ∧
        (∀ t ∈ x.used, t / 2 ^ 14 = k → ∀ i < 16, x.scrubAt ≤ 16 * t + i → ∀ w < 16,
          Memory.readWord (u.stack n).mem (16 * (16 * t + i) + w) = (scrubWord (Memory.readWord x.mem (16 * (16 * t + i) + w)) 0 0).1))))

/-- A gradient push is checked, then added, held or left waiting, and a held push is added when its micro-batch is due. -/
def Obligations.PushesAccumulate : Prop :=
  ∀ (s : State) (p n : Nat) (m : PushMsg), p < 16 → n < 4 → s.slots.length = 16 → s.chipsRun p = true →
    let x := s.slot p
    let c := s.chipSlot p n
    let off := { s with out := { s.out with tier := s.out.tier.erase (p, n, m) } }
    let refused := fun (u : State) => u.out.tier = s.out.tier.erase (p, n, m) ∧ (u.slot p).seq.stopped = true ∧ (u.slot p).seq.byHost = true ∧
      u.carts = s.carts ∧ u.dram = s.dram ∧ u.log.recs.head?.map (fun r => (r.body.code, r.body.handling, r.body.pennant)) = some (0x7105, .program, p)
    let gone := fun (u : State) (code : Nat) => u.out.tier = s.out.tier.erase (p, n, m) ∧ (u.slot p).mirror.pending = true ∧
      u.log.recs.any (fun r => decide (r.body.code = code ∧ r.body.step = m.step ∧ r.body.mb = m.mb)) = true
    (s.shardIx p n (phTensor m.hdr) = none → x.mirror.rj = .idle → ∃ u, exec (.push p n m) s = .next u ∧ refused u) ∧
    (∀ i h, s.shardIx p n (phTensor m.hdr) = some i → s.shard? p n i = some h →
      let lap := (x.wset? (dTensor h.desc)).any wsOverlap
      let ok := pushOk h.desc (chMb c.header) n m
      let at_ := partAt h.desc x.thin 1 + 4 * (phOffset m.hdr - dOff h.desc)
      let es := pushDecode (phFmt m.hdr) (phCount m.hdr) (pushBytes m)
      let added := fun (u : State) => ∃ g, u.shard? p n i = some g ∧ g.count = h.count ∧ g.desc = h.desc ∧
        (u.slot p).upd.c1 = x.upd.c1 + 1 ∧ u.out.tier = s.out.tier.erase (p, n, m) ∧
        (h.added + phCount m.hdr < dLen h.desc → g.mb = h.mb ∧ g.added = h.added + phCount m.hdr) ∧
        (h.added + phCount m.hdr = dLen h.desc → g.mb = h.mb + 1 ∧ g.added = 0)
      (m.words.any unusable = true → ∃ u, exec (.push p n m) s = .next u ∧ gone u 0x4108 ∧ u.dram = s.dram) ∧
      ((∀ w ∈ m.words, unusable w = false) →
        (ok = false → x.mirror.rj = .idle → ∃ u, exec (.push p n m) s = .next u ∧ refused u) ∧
        (ok = true → m.step ≠ h.count → ¬ (lap = true ∧ m.step = h.count + 1) →
          ∃ u, exec (.push p n m) s = .next u ∧ gone u 0x7101 ∧ u.carts = s.carts ∧ u.dram = s.dram) ∧
        (ok = true → (m.step = h.count ∨ (lap = true ∧ m.step = h.count + 1)) →
          (h.accStep < m.step → exec (.push p n m) s = .next s) ∧
          ((m.step < h.accStep ∨ (m.step = h.accStep ∧ m.mb < h.mb)) → x.mirror.rj = .idle → ∃ u, exec (.push p n m) s = .next u ∧ refused u) ∧
          (h.accStep = m.step → h.mb < m.mb →
            (holdPlace (chHoldSize c.header * 65536) (pushSize m) c.hold = none → exec (.push p n m) s = .next s) ∧
            (∀ a, holdPlace (chHoldSize c.header * 65536) (pushSize m) c.hold = some a →
              let r := off.putRun p n (chHold c.header * 65536 + a) (hdrWords m.hdr ++ m.words)
              ∃ u, exec (.push p n m) s = .next u ∧ (u.chipSlot p n).hold = c.hold ++ [⟨a, m.hdr, m.words.length, m.step, m.mb⟩] ∧
                (u.slot p).upd.c2 = x.upd.c2 + 1 ∧ u.out.tier = s.out.tier.erase (p, n, m) ∧ u.carts = r.carts ∧ u.dram = r.dram ∧
                ∃ g, u.shard? p n i = some g ∧ g.desc = h.desc ∧ g.count = h.count ∧ g.mb = h.mb ∧ g.added = h.added)) ∧
          (h.accStep = m.step → h.mb = m.mb → dSparse h.desc = false → h.added + phCount m.hdr ≤ dLen h.desc → x.replicas < 2 →
            let r := off.events p (sumEv (es.map (·.2)))
            (m.mb = 0 → ∃ u, exec (.push p n m) s = .next u ∧ added u ∧ u.carts = (r.putVec p n at_ (es.map (·.1))).carts ∧
              u.dram = (r.putVec p n at_ (es.map (·.1))).dram) ∧
            (∀ l, m.mb ≠ 0 → (r.getVec p n at_ es.length).2 = some l → ∃ u, exec (.push p n m) s = .next u ∧ added u ∧
              let a := (r.getVec p n at_ es.length).1
              let sum := (l.zip es).map (fun (w, e) => fadd w e.1)
              let z := (a.events p (sumEv (sum.map (·.2)))).putVec p n at_ (sum.map (·.1))
              u.carts = z.carts ∧ u.dram = z.dram))))) ∧
    (∀ (k i : Nat) (q : HeldPush) (h : Shard), c.hold[k]? = some q → s.shardIx p n (phTensor q.hdr) = some i → s.shard? p n i = some h →
      let f := s.heldRead p n q
      ((q.step ≠ h.accStep ∨ h.mb < q.mb) → exec (.heldPushAdd p n k) s = .next s) ∧
      (∀ l, q.step = h.accStep → h.mb = q.mb → q.mb ≠ 0 → dSparse h.desc = false → h.added + phCount q.hdr ≤ dLen h.desc → x.replicas < 2 →
        f.2 = some { m with hdr := q.hdr, step := q.step, mb := q.mb } →
        let at_ := partAt h.desc x.thin 1 + 4 * (phOffset q.hdr - dOff h.desc)
        let es := pushDecode (phFmt q.hdr) (phCount q.hdr) (pushBytes m)
        let r := (f.1.updChipSlot p n (fun c => { c with hold := c.hold.eraseIdx k })).events p (sumEv (es.map (·.2)))
        (r.getVec p n at_ es.length).2 = some l →
        let a := (r.getVec p n at_ es.length).1
        let sum := (l.zip es).map (fun (w, e) => fadd w e.1)
        let z := (a.events p (sumEv (sum.map (·.2)))).putVec p n at_ (sum.map (·.1))
        ∃ u g, exec (.heldPushAdd p n k) s = .next u ∧ (u.chipSlot p n).hold = (z.chipSlot p n).hold ∧ u.carts = z.carts ∧ u.dram = z.dram ∧
          u.shard? p n i = some g ∧ (u.slot p).upd.c1 = x.upd.c1 + 1 ∧
          (h.added + phCount q.hdr < dLen h.desc → g.mb = h.mb ∧ g.added = h.added + phCount q.hdr) ∧
          (h.added + phCount q.hdr = dLen h.desc → g.mb = h.mb + 1 ∧ g.added = 0)))

/-- The owner of a bucket adds contributions in ascending position, and a result is applied once, in step order. -/
def Obligations.ReductionOfBuckets : Prop :=
  (∀ (s : State) (p src : Nat) (m : RedMsg), p < 16 → s.slots.length = 16 → s.chipsRun p = true →
    let refused := fun (code : Nat) => ∃ u, exec (.reductionContribution p src m) s = .next u ∧ (u.slot p).mirror.pending = true ∧
      u.log.recs.any (fun r => decide (r.body.code = code ∧ r.body.step = rmStep m ∧ r.body.detail0 = rmBucket m ∧ r.body.detail1 = src)) = true
    (s.redCheck p src m false = none → refused 0x6173) ∧
    (∀ i, s.redCheck p src m false = some i →
      let b := s.bucket p i
      let x := s.slot p
      let ps := x.stagePositions.map (·.1)
      let ok := redComplete x.satLimit m
      let next := nextEx x.thin b.lastSum
      let one := decide ((rmStep m : Int) = next)
      let here := fun (h : Nat × Nat × RedMsg) => decide (h.1 = rmStep m) && decide (h.2.1 = src)
      let whole := b.held.any here
      let part := b.pending.any here
      let first := !ok && !rmResend m && decide ((rmStep m, src) ∈ b.resent)
      let got := s.gotUnits p (redUnits m).length
      let kept := fun (u : State) => (u.bucket p i).pending = b.pending.filter (fun h => !here h) ∧
        (u.bucket p i).resent = b.resent ++ (if rmResend m && !part then [(rmStep m, src)] else [])
      ((rmStep m : Int) ≤ b.lastSum → first = true →
        ∃ u, exec (.reductionContribution p src m) s = .next u ∧ u.bucket p i = { b with resent := b.resent.erase (rmStep m, src) } ∧ u.log = s.log) ∧
      (inWindow x.thin b.lastSum (rmStep m) = false → ¬ ((rmStep m : Int) ≤ b.lastSum ∧ first = true) → refused 0x6172) ∧
      (inWindow x.thin b.lastSum (rmStep m) = true → b.lastSum < rmStep m → rmStep m ∈ b.withheld →
        exec (.reductionContribution p src m) s = .next got) ∧
      (inWindow x.thin b.lastSum (rmStep m) = true → b.lastSum < rmStep m → rmStep m ∉ b.withheld →
        (whole = true → first = true → ∃ u, exec (.reductionContribution p src m) s = .next u ∧
          u.bucket p i = { b with resent := b.resent.erase (rmStep m, src) } ∧ u.log = s.log) ∧
        (whole = true → first = false → refused 0x6171) ∧
        (whole = false → part = true → rmResend m = false → refused 0x6171) ∧
        (whole = false → (part = false ∨ rmResend m = true) →
          (ok = false → ∃ u, exec (.reductionContribution p src m) s = .next u ∧
            u.bucket p i = { b with pending := b.pending ++ [(rmStep m, src, m)] } ∧ u.log = s.log) ∧
          (∀ q, ok = true → ps.find? (fun q => !(q ∈ b.summed)) = some q → (one = true → q ≠ src) →
            b.held.find? (fun h => decide (h.1 = next.toNat) && decide (h.2.1 = q)) = none → -1 ≤ b.lastSum →
            let own := decide (src = s.ring.pos)
            let r := if own then got else got.putRun p (bkChip b.desc) (s.redPlace p i (rmStep m) src) ((redUnits m).flatMap hdrWords)
            ∃ u, exec (.reductionContribution p src m) s = .next u ∧
              (u.bucket p i).held = b.held ++ [(rmStep m, src, if own then m else { m with blocks := [] })] ∧ kept u ∧
              (u.bucket p i).acc = b.acc ∧ (u.bucket p i).summed = b.summed ∧ (u.bucket p i).lastSum = b.lastSum ∧
              (u.slot p).red.c5 = x.red.c5 + 1 ∧ u.carts = r.carts ∧ u.dram = r.dram ∧ u.log = r.log) ∧
          (ok = true → one = true → ps.find? (fun q => !(q ∈ b.summed)) = some src → -1 ≤ b.lastSum →
            (scalesAgree m b.scaleC = false →
              ∃ u, exec (.reductionContribution p src m) s = .next u ∧ (u.slot p).mirror.pending = true ∧ rmStep m ∈ (u.bucket p i).withheld ∧
                u.log.recs.any (fun r => decide (r.body.code = 0x6170 ∧ r.body.step = rmStep m)) = true) ∧
            (scalesAgree m b.scaleC = true →
              (∀ q, ps.find? (fun q => !(q ∈ b.summed ++ [src])) = some q →
                b.held.find? (fun h => decide (h.1 = rmStep m) && decide (h.2.1 = q)) = none →
                ∃ u, exec (.reductionContribution p src m) s = .next u ∧ (u.bucket p i).summed = b.summed ++ [src] ∧ kept u ∧
                  (u.bucket p i).acc = ((if b.summed = [] then List.replicate (bkElems b.desc) 0 else b.acc).zip
                    ((redVals m).take (bkElems b.desc))).map (fun (a, v) => (addV (dec32 a) v).1) ∧
                  (u.bucket p i).amax = b.amax ++ [m.trailer.map teAmax] ∧
                  (u.bucket p i).lastSum = b.lastSum ∧ (u.slot p).red.c5 = x.red.c5 ∧ u.log = s.log ∧ u.carts = s.carts ∧ u.dram = s.dram) ∧
              (ps.find? (fun q => !(q ∈ b.summed ++ [src])) = none →
                ∃ u, exec (.reductionContribution p src m) s = .next u ∧ (u.bucket p i).lastSum = (rmStep m : Int) ∧
                  (u.bucket p i).summed = [] ∧ (u.bucket p i).acc = [] ∧ (u.slot p).red.c2 = x.red.c2 + 1))))))) ∧
  (∀ (s : State) (p src : Nat) (m : RedMsg), p < 16 → s.slots.length = 16 → s.chipsRun p = true →
    let refused := fun (code : Nat) => ∃ u, exec (.reductionResult p src m) s = .next u ∧ (u.slot p).mirror.pending = true ∧
      u.log.recs.any (fun r => decide (r.body.code = code ∧ r.body.step = rmStep m ∧ r.body.detail0 = rmBucket m ∧ r.body.detail1 = src)) = true
    (s.redCheck p src m true = none → refused 0x6173) ∧
    (∀ i, s.redCheck p src m true = some i →
      let b := s.bucket p i
      let x := s.slot p
      let next := nextEx x.thin b.lastRes
      let ok := redComplete x.satLimit m
      let held := b.resHeld.any (fun h => decide (h.1 = rmStep m))
      let part := b.resPending.any (fun h => decide (h.1 = rmStep m))
      let first := !ok && !rmResend m && decide (rmStep m ∈ b.resentRes)
      let got := s.gotUnits p (redUnits m).length
      (first = true → ∃ u, exec (.reductionResult p src m) s = .next u ∧
        u.bucket p i = { b with resentRes := b.resentRes.erase (rmStep m) } ∧ u.log = s.log) ∧
      (first = false → inWindow x.thin b.lastRes (rmStep m) = false →
        let again := decide ((rmStep m : Int) ≤ b.lastRes) && decide (b.base < rmStep m) && ok && (decide (x.thin < 2) || decide ((rmStep m + 1) % x.thin = 0))
        (again = true → refused 0x6171) ∧ (again = false → refused 0x6172)) ∧
      (first = false → inWindow x.thin b.lastRes (rmStep m) = true → b.lastRes < rmStep m →
        (rmStep m ∈ b.withheld → exec (.reductionResult p src m) s = .next got) ∧
        (rmStep m ∉ b.withheld →
          (held = true ∨ (part = true ∧ rmResend m = false) → refused 0x6171) ∧
          (held = false → (part = false ∨ rmResend m = true) →
            (ok = false → ∃ u, exec (.reductionResult p src m) s = .next u ∧
              u.bucket p i = { b with resPending := b.resPending ++ [(rmStep m, m)] } ∧ u.log = s.log) ∧
            (ok = true → (rmStep m : Int) = next → scalesAgree m b.scaleR = true →
              b.resHeld.any (fun h => decide ((h.1 : Int) = nextEx x.thin next)) = false →
              ∃ u, exec (.reductionResult p src m) s = .next u ∧ (u.bucket p i).lastRes = (rmStep m : Int) ∧
                (u.bucket p i).scaleC = m.trailer.map teNextC ∧ (u.bucket p i).scaleR = m.trailer.map teNextR ∧
                ∀ j h, s.shardIx p (bkChip b.desc) (bkTensor b.desc) = some j → s.shard? p (bkChip b.desc) j = some h →
                  x.thin < 2 → dSparse h.desc = false →
                  let vals := ((redVals m).take (bkElems b.desc)).map decoded
                  let z := (got.events p (sumEv (vals.map (·.2)))).putVec p (bkChip b.desc) (bucketAt h.desc x.thin 1 b.desc) (vals.map (·.1))
                  u.carts = z.carts ∧ u.dram = z.dram) ∧
            (ok = true → (rmStep m : Int) = next → scalesAgree m b.scaleR = false →
              ∃ u, exec (.reductionResult p src m) s = .next u ∧ rmStep m ∈ (u.bucket p i).withheld ∧ (u.slot p).mirror.pending = true ∧
                (u.bucket p i).lastRes = b.lastRes ∧ u.log.recs.any (fun r => decide (r.body.code = 0x6170 ∧ r.body.step = rmStep m)) = true) ∧
            (ok = true → (rmStep m : Int) = nextEx x.thin next → (rmStep m : Int) ≠ next →
              ∃ u, exec (.reductionResult p src m) s = .next u ∧ (u.bucket p i).resHeld = b.resHeld ++ [(rmStep m, m)] ∧
                (u.bucket p i).lastRes = b.lastRes ∧ u.log = s.log))))))

/-- An update starts with round 0, completes with every owner's message, and is withheld where the owners disagree or one does not answer. -/
def Obligations.OwnersUpdateShards : Prop :=
  ∀ (s : State) (p n i : Nat) (h : Shard), p < 16 → n < 4 → s.slots.length = 16 → s.chipsRun p = true → s.shard? p n i = some h →
    let x := s.slot p
    let owners := s.owners p (dTensor h.desc)
    let may := !h.updating && !h.withheld && !h.accRead && !h.wbPending && !h.awaitRes && h.digest.isNone && !h.reload
      && !(h.owed && decide (x.mirror.boundary ≤ h.count)) && !h.torn && decide (h.mb = chMb (s.chipSlot p n).header)
      && (decide (x.replicas < 2) || decide (2 ≤ x.thin) || s.resultsIn p n i h.count) && decide (h.exported ≠ some h.count)
    (∀ fin, may = true → (s.accFinite p n h.desc).2 = some fin → n ∈ owners →
      let m : ExMsg := { round := 0, count := h.count, finite := fin }
      ∃ u g, exec (.updateStart p n i) s = .next u ∧ u.shard? p n i = some g ∧ g.updating = true ∧ g.round = 0 ∧ g.count = h.count ∧
        g.sentEx = h.sentEx ++ (if owners = [n] then [n] else owners.filter (fun k => decide (k ≠ n))).map (fun k => (k, m)) ∧
        g.inbox = (if owners = [n] then [] else [(n, m)]) ∧ g.begun = max h.begun (h.count + 1) ∧
        (u.slot p).scheds = ((s.accFinite p n h.desc).1.slot p).scheds.modify (dSched h.desc) (fun c => c.reach h.count)) ∧
    (may = true → (s.accFinite p n h.desc).2 = none → ∃ u g, exec (.updateStart p n i) s = .next u ∧ u.shard? p n i = some g ∧
      g.updating = false ∧ g.count = h.count ∧ (u.slot p).mirror.pending = true ∧
      u.log.recs.any (fun r => decide (r.body.code = 0x4108 ∧ r.body.step = h.count)) = true) ∧
    (may = false → exec (.updateStart p n i) s = .next s) ∧
    (∀ (src k : Nat) (m : ExMsg) (g : Shard), s.shardIx p src (dTensor h.desc) = some k → s.shard? p src k = some g →
      s.shardIx p n (dTensor h.desc) = some i →
      let arrives := h.updating && decide (g.sentEx.find? (fun e => decide (e.1 = n)) = some (n, m)) && decide (h.round ≤ m.round)
        && (decide (src ≠ n) || decide (owners = [n])) && !h.inbox.any (fun e => decide (e.1 = src) && decide (e.2.round = m.round))
      let ms := owners.filterMap (fun o => (h.inbox ++ [(src, m)]).find? (fun e => decide (e.1 = o) && decide (e.2.round = h.round)))
      (arrives = false → exec (.exchange p n i src m) s = .next s) ∧
      (arrives = true → ms.length ≠ owners.length →
        ∃ u r, exec (.exchange p n i src m) s = .next u ∧ u.shard? p n i = some r ∧ r.inbox = h.inbox ++ [(src, m)] ∧ r.count = h.count ∧
          r.updating = true ∧ u.log = s.log ∧
          (src ≠ n → ∃ r', u.shard? p src k = some r' ∧ r' = { g with sentEx := g.sentEx.erase (n, m) })) ∧
      (arrives = true → ms.length = owners.length → h.round = 0 →
        (ms.any (fun e => decide (e.2.count ≠ h.count)) = true →
          ∃ u, exec (.exchange p n i src m) s = .next u ∧ (u.slot p).mirror.pending = true ∧
            ∀ o ∈ owners, ∃ j r, s.shardIx p o (dTensor h.desc) = some j ∧ u.shard? p o j = some r ∧ r.withheld = true ∧ r.updating = false ∧
              u.log.recs.any (fun e => decide (e.body.code = 0x7101 ∧ e.body.site = siteNum o ∧ e.body.step = r.count)) = true) ∧
        (ms.any (fun e => decide (e.2.count ≠ h.count)) = false → dSkip h.desc = true → ms.any (fun e => !e.2.finite) = true → x.thin < 2 →
          ∃ u r, exec (.exchange p n i src m) s = .next u ∧ u.shard? p n i = some r ∧ r.count = h.count + 1 ∧ r.updating = false ∧
            r.wbPending = true ∧ (u.slot p).upd.c3 = x.upd.c3 + 1 ∧ (u.slot p).upd.c4 = x.upd.c4 + 1 ∧
            (owners.head? = some n → u.log.recs.any (fun e => decide (e.body.code = 0x7104 ∧ e.body.detail0 = dTensor h.desc)) = true)) ∧
        (ms.any (fun e => decide (e.2.count ≠ h.count)) = false → ms.any (fun e => !e.2.finite) = false → dRule h.desc ≠ 3 → dRule h.desc ≠ 4 →
          ∃ u r, exec (.exchange p n i src m) s = .next u ∧ u.shard? p n i = some r ∧
            ((r.count = h.count + 1 ∧ r.updating = false ∧ (u.slot p).upd.c3 = x.upd.c3 + 1) ∨ (r.count = h.count ∧ (u.slot p).mirror.pending = true))))) ∧
    (h.updating = true → ∃ u g, exec (.ownerExchangeTimeout p n i) s = .next u ∧ u.shard? p n i = some g ∧ g.withheld = true ∧
      g.count = h.count ∧ (u.slot p).mirror.pending = true ∧
      u.log.recs.any (fun r => decide (r.body.code = 0x7106 ∧ r.body.step = h.count ∧ r.body.detail0 = dTensor h.desc ∧ r.body.detail1 = h.round)) = true) ∧
    (h.updating = false → exec (.ownerExchangeTimeout p n i) s = .next s)

/-- A permit is accepted for its update, the write-back stores the converted masters, and the version is released once every owner is done. -/
def Obligations.WriteBackAndVersions : Prop :=
  (∀ (s : State) (p n tensor t i : Nat) (w : BitVec 128) (h : Shard), p < 16 → n < 4 → s.slots.length = 16 → s.chipsRun p = true →
    s.shardIx p n tensor = some i → (s.slot p).wset? tensor = some w → s.shard? p n i = some h →
    ((t = h.count ∨ (t + 1 = h.count ∧ (h.wbPending = true ∨ h.awaitRes = true))) →
      ∃ u, exec (.permit p n tensor t) s = .next u ∧
        u.shard? p n i = some { h with permits := tput h.permits t ((if wsOverlap w = true ∧ (t + 1) % 2 = 1 then wsShadow w else wsCopy w) * 65536) } ∧
        (∀ k, k ≠ i → u.shard? p n k = s.shard? p n k) ∧ (∀ k, k ≠ n → u.chipSlot p k = s.chipSlot p k) ∧
        (∀ k, k ≠ p → u.slot k = s.slot k) ∧ u = { s with slots := u.slots }) ∧
    (¬ (t = h.count ∨ (t + 1 = h.count ∧ (h.wbPending = true ∨ h.awaitRes = true))) →
      ∃ u, exec (.permit p n tensor t) s = .next u ∧ (u.slot p).mirror.pending = true ∧
        u.log.recs.any (fun r => decide (r.body.code = 0x7101 ∧ r.body.step = t ∧ r.body.detail0 = tensor ∧ r.body.detail1 = h.count)) = true)) ∧
  (∀ (s : State) (p n i base : Nat) (h : Shard), p < 16 → n < 4 → s.slots.length = 16 → s.chipsRun p = true → s.shard? p n i = some h →
    let t := h.count - 1
    let x := s.slot p
    let r := s.getVec p n (partAt h.desc x.thin 0) (dLen h.desc)
    (tget? h.permits t = some base → h.wbPending = true → h.count ≠ 0 →
      (∀ ms, r.2 = some ms → x.compares t = false →
        let rows := if dSparse h.desc then some h.wbRows else none
        let c := wcConvert x h.desc (dConv h.desc) base h.count rows ms
        let c' := wcConvert x h.desc (altConv (dConv h.desc)) (dAlt h.desc * 65536) h.count rows ms
        let v := r.1.mergeCover p c.1
        let v' := v.1.mergeCover p (if dAlt h.desc = 0 then [] else c'.1)
        ∃ u g, exec (.writeback p n i) s = .next u ∧ u.shard? p n i = some g ∧ g.wbPending = false ∧ g.permits = tdel h.permits t ∧
          g.doneStep = some h.count ∧ g.count = h.count ∧ u.dram = (v'.1.putWords p (v.2 ++ v'.2)).dram ∧
          u.carts = (v'.1.putWords p (v.2 ++ v'.2)).carts) ∧
      (r.2 = none → ∃ u g, exec (.writeback p n i) s = .next u ∧ u.shard? p n i = some g ∧ g.count = h.count ∧ g.wbPending = true ∧
        (u.slot p).mirror.pending = true ∧ u.log.recs.any (fun r => decide (r.body.code = 0x4108 ∧ r.body.step = t)) = true)) ∧
    (tget? h.permits t = none ∨ h.wbPending = false ∨ h.count = 0 → exec (.writeback p n i) s = .next s)) ∧
  (∀ (s : State) (p src tensor v i : Nat) (h : Shard) (w : BitVec 128), p < 16 → s.slots.length = 16 → s.shardIx p src tensor = some i →
    s.shard? p src i = some h → (s.slot p).wset? tensor = some w →
    (h.doneStep = some v →
      ((wsChips w).all (fun k => decide (k = src) || decide ((tensor, v, k) ∈ (s.slot p).seq.doneFrom)) = true →
        ∃ u, exec (.done p src tensor v) s = .next u ∧ tget (u.slot p).seq.versions tensor 0 = v ∧
          (∀ k, k ≠ tensor → tget (u.slot p).seq.versions k 0 = tget (s.slot p).seq.versions k 0) ∧
          u.shard? p src i = some { h with doneStep := none } ∧ u = { s with slots := u.slots } ∧ (∀ k, k ≠ p → u.slot k = s.slot k)) ∧
      ((wsChips w).all (fun k => decide (k = src) || decide ((tensor, v, k) ∈ (s.slot p).seq.doneFrom)) = false →
        ∃ u, exec (.done p src tensor v) s = .next u ∧ (u.slot p).seq.versions = (s.slot p).seq.versions ∧
          (u.slot p).seq.doneFrom = (s.slot p).seq.doneFrom ++ [(tensor, v, src)] ∧ u.shard? p src i = some { h with doneStep := none } ∧
          u = { s with slots := u.slots } ∧ (∀ k, k ≠ p → u.slot k = s.slot k))) ∧
    (h.doneStep ≠ some v → exec (.done p src tensor v) s = .next s))

/-- A chip takes what it loads, and a schedule commit takes force from its step. -/
def Obligations.LoadsAndSchedules : Prop :=
  (∀ (s : State) (p n : Nat), p < 16 → n < 4 → s.slots.length = 16 → (s.slot p).state ≠ .free →
    (∀ h, ∃ u, exec (.load p n (.header h)) s = .next u ∧ u.chipSlot p n = { s.chipSlot p n with header := h, shards := [], hold := [] } ∧
      (∀ k, k ≠ n → u.chipSlot p k = s.chipSlot p k) ∧ (∀ k, k ≠ p → u.slot k = s.slot k) ∧ u = { s with slots := u.slots }) ∧
    (∀ d, ∃ u, exec (.load p n (.desc d)) s = .next u ∧
      u.chipSlot p n = { s.chipSlot p n with shards := (s.chipSlot p n).shards ++ [{ desc := d, count := dStart d }] } ∧
      (∀ k, k ≠ n → u.chipSlot p k = s.chipSlot p k) ∧ (∀ k, k ≠ p → u.slot k = s.slot k) ∧ u = { s with slots := u.slots }) ∧
    (∀ d, ∃ u, exec (.load p n (.retention d)) s = .next u ∧ u.chipSlot p n = { s.chipSlot p n with retention := d } ∧
      (∀ k, k ≠ n → u.chipSlot p k = s.chipSlot p k) ∧ (∀ k, k ≠ p → u.slot k = s.slot k) ∧ u = { s with slots := u.slots }) ∧
    (∀ i h x, s.shard? p n i = some h → dSparse h.desc = false →
      let thin := (s.slot p).thin
      let a := s.putVec p n (partAt h.desc thin 0) x.master
      let b := (x.state.mapIdx (fun k v => (k, v))).foldl (fun (s : State) e => s.putVec p n (partAt h.desc thin (2 + e.1)) e.2) a
      exec (.load p n (.init i x)) s = .next (if 2 ≤ thin then b.putVec p n (partAt h.desc thin (pAnchor h.desc)) x.master else b)) ∧
    (∀ k x, k < (s.slot p).scheds.length → ∃ u, exec (.load p n (.sched k x)) s = .next u ∧
      (∀ t, ((u.slot p).scheds.getD k {}).at t = x) ∧ ((u.slot p).scheds.getD k {}).staged = x ∧
      (∀ j, j ≠ k → (u.slot p).scheds.getD j {} = (s.slot p).scheds.getD j {}) ∧ (u.slot p).chips = (s.slot p).chips ∧
      (∀ k, k ≠ p → u.slot k = s.slot k) ∧ u = { s with slots := u.slots })) ∧
  (∀ (s : State) (v : Via) (p k e : Nat), s.slots.length = 16 → p < 16 → k < 4 → v.who = .host → Safety.Serves s →
    (s.slot p).scheds.length = 4 →
    let c := (s.slot p).scheds.getD k {}
    let begun := (s.slot p).shards.any (fun h => decide (dSched h.2.desc = k) && decide (e < h.2.begun))
    (schedOk c.staged = true → begun = false →
      ∃ u, exec (.scheduleCommit v p k e) s = .next u ∧
        (u.slot p).scheds.getD k {} = { c with committed := c.staged, commitStep := e, pending := true } ∧
        (∀ t, e ≤ t → ((u.slot p).scheds.getD k {}).at t = c.staged) ∧
        (c.pending = false → ∀ t, t < e → ((u.slot p).scheds.getD k {}).at t = c.at t) ∧
        (∀ j, j ≠ k → (u.slot p).scheds.getD j {} = (s.slot p).scheds.getD j {}) ∧
        (∀ j, j ≠ p → u.slot j = s.slot j) ∧ u.out.response.map (fun r => r.status) = some .ok) ∧
    (schedOk c.staged = false ∨ begun = true → ∃ u, exec (.scheduleCommit v p k e) s = .next u ∧ u.slots = s.slots ∧
      u.out.response.map (fun r => r.status) = some .valueRefused))

/-- Light starts training, loss of light retrains an up link, a failed series takes the link down, and CAPS brings it up or closes it. -/
def Obligations.LinksTrainAndFail : Prop :=
  ∀ (s : State) (k : Nat), k < 6 →
    let x := s.port k
    -- no slot is in use: the link's end reaches no pennant
    let quiet := ∀ p, p < 16 → (s.slot p).state = .free
    -- E or W in a join, or with the other of the two already gone: the switch returns to through, or the module Strikes
    let other := decide ((s.port (1 - k)).state = .down) || decide ((s.port (1 - k)).state = .closed)
    let stays := k < 2 → s.ring.bypass ≠ 1 ∧ (s.ring.bypass = 2 → other = false)
    let logs := fun (u : State) (c : Nat) => u.log.recs.any (fun r => decide (r.body.code = c ∧ r.body.siteKind = .port ∧ r.body.site = siteNum k)) = true
    (s.linksRun = true → x.light = false → (k < 2 → s.ring.bypass = 1 ∨ s.ring.bypass = 2) →
      ∃ u, exec (.lightDetected k) s = .next u ∧ (u.port k).light = true ∧ (u.port k).step = 1 ∧ (u.port k).tries = 1 ∧
        (u.port k).state = (if x.state = .retraining then .retraining else .training) ∧ (∀ j, j ≠ k → u.port j = s.port j) ∧ u.log = s.log) ∧
    (x.light = true → s.looping k = false →
      (x.state = .up → ∃ u, exec (.lossOfLight k) s = .next u ∧ (u.port k).light = false ∧ (u.port k).state = .retraining ∧
        (u.port k).step = 1 ∧ (u.port k).ctrs = addAt x.ctrs 2 1 ∧ (u.port k).credits = x.credits ∧ (u.port k).unacked = x.unacked ∧
        (∀ j, j ≠ k → u.port j = s.port j)) ∧
      (x.state = .training → ∃ u, exec (.lossOfLight k) s = .next u ∧ (u.port k).light = false ∧ (u.port k).state = .noLight)) ∧
    (s.linksRun = true → x.light = true → s.looping k = false → (x.state = .training ∨ x.state = .retraining) →
      (x.tries < 3 → ∃ u, exec (.trainingStepTimeout k) s = .next u ∧ (u.port k).step = 1 ∧ (u.port k).tries = x.tries + 1 ∧
        (u.port k).state = x.state ∧ u.log = s.log) ∧
      (3 ≤ x.tries → ∃ u, exec (.trainingStepTimeout k) s = .next u ∧ (quiet → logs u 0x510E) ∧
        (stays → (k = 2 → quiet) → (u.port k).state = .down ∧ (u.port k).downs = x.downs + 1) ∧
        (k < 2 → s.ring.bypass = 1 → u.ring.bypass = 0 ∧ u.ring.permit = false)) ∧
      (∀ pk, x.step ≠ 4 → exec (.caps k pk) s = .next s) ∧
      (∀ pk, x.step = 4 → packetOk k pk = true → hTypeOf pk = 8 →
        let l := tlvs 2200 (pkBytes pk)
        let place := (tlv l 4).getD []
        let ver := (tlv l 1).getD []
        let join := decide (k < 2) && decide (s.mod.state = .joining) && decide (s.ring.bypass = 1) && decide ((s.port (1 - k)).state = .up)
        let told := fun (y : Port) => y.peerRing = (place.getD 0 0xFF#8).toNat ∧ y.peerPos = (place.getD 1 0xFF#8).toNat ∧
          y.peerSerial = BitVec.ofNat 64 (leNat ((((tlv l 3).getD []).drop 16).take 8))
        (∀ v, (peerVersions l).find? (fun v => decide (v.1 = 3)) = some v →
          (join = false → ∃ u, exec (.caps k pk) s = .next u ∧ (u.port k).state = .up ∧ (u.port k).features = peerFeatures l % 8 ∧
            (u.port k).version = 3 * 256 + min 1 v.2 ∧ (u.port k).weights = s.link.weights ∧ told (u.port k) ∧
            (x.state = .retraining → (u.port k).credits = x.credits) ∧
            (∀ b, x.state = .training → tlv l 6 = some b → (u.port k).credits = (((chunks 2 b).map leNat) ++ List.replicate 8 0).take 8) ∧
            u.out.sent = s.out.sent ++ [⟨k, s.capsPacket k⟩] ∧ u.log = s.log) ∧
          (∀ z : State, join = true → s.mod.causes = [] → (∀ j, j ≠ k → z.port j = s.port j) → told (z.port k) → z = { s with ports := z.ports } →
            (∀ q, z.positionOf = .ok q → ∃ u, exec (.caps k pk) s = .next u ∧ u.mod.state = .hoisted ∧ u.ring.pos = q ∧ u.ring.bypass = 2 ∧
              u.ring.epoch = (s.ring.epoch + 1) % 2 ^ 32 ∧ (u.port k).state = .up) ∧
            (∀ c, z.positionOf = .error c → ∃ u, exec (.caps k pk) s = .next u ∧ u.mod.state = .joining ∧ u.ring.bypass = 0 ∧ u.ring.permit = false ∧
              u.log.recs.head?.map (fun r => (r.body.code, r.body.detail0, r.body.detail1)) = some (c, s.ring.hint, (z.port 1).peerPos)))) ∧
        ((peerVersions l).find? (fun v => decide (v.1 = 3)) = none → stays → (k = 2 → quiet) →
          ∃ u, exec (.caps k pk) s = .next u ∧ (u.port k).state = .closed ∧ u.out.sent = s.out.sent ++ [⟨k, s.capsPacket k⟩] ∧
            (quiet → u.log.recs.any (fun r => decide (r.body.code = 0x5103 ∧ r.body.site = siteNum k ∧
              r.body.detail0 = leNat (ver.take 8) ∧ r.body.detail1 = leNat ((ver.drop 8).take 8))) = true)))) ∧
    (x.state = .retraining → s.looping k = false → stays → (k = 2 → quiet) →
      ∃ u, exec (.linkHoldTimeout k) s = .next u ∧ (u.port k).state = .down ∧ (u.port k).downs = x.downs + 1 ∧ (u.port k).unacked = [] ∧
        (quiet → logs u 0x5101)) ∧
    (x.state = .retraining → s.looping k = false → k < 2 → s.ring.bypass = 2 → other = true → s.mod.state = .hoisted →
      ∃ u, exec (.linkHoldTimeout k) s = .next u ∧ u.mod.state = .struck ∧ u.ring.bypass = 0)

/-- Codewords are accepted in sequence or asked again, packets leave under credit, and credits return. -/
def Obligations.LinkRetryAndCredits : Prop :=
  ∀ (s : State) (k : Nat), k < 6 → s.linkUp? k = true →
    let x := s.port k
    let ask := { s.out with requests := s.out.requests ++ [(k, (x.expect + 511) % 512)] }
    (∀ (cw : Codeword) (h d left : Nat), s.looping k = false → cw.kind = 0 → scanUnits x.rxLeft (chunks 2 cw.slots) = (h, d, left) →
      let y := { x with ctrs := addAt x.ctrs 0 cw.corrected }
      let z := if cw.fecOk = true then y.acked cw.ack else y
      (x.retryReq = false → cw.fecOk = true → cw.sq = x.expect → h + d = 0 →
        ∃ u, exec (.codewordReceive k cw) s = .next u ∧ u.port k = { z with expect := (x.expect + 1) % 512, rxLeft := left, ctrs := addAt z.ctrs 7 0 } ∧
          (∀ j, j ≠ k → u.port j = s.port j) ∧ u = { s with ports := u.ports }) ∧
      (x.retryReq = false → (cw.fecOk = false ∨ cw.sq ≠ x.expect ∨ h + d ≠ 0) →
        ∃ u, exec (.codewordReceive k cw) s = .next u ∧ u.port k = { z with retryReq := true } ∧
          (∀ j, j ≠ k → u.port j = s.port j) ∧ u = { s with ports := u.ports, out := ask }) ∧
      (x.retryReq = true → cw.sq ≠ x.expect →
        ∃ u, exec (.codewordReceive k cw) s = .next u ∧ u.port k = z ∧ (∀ j, j ≠ k → u.port j = s.port j) ∧ u = { s with ports := u.ports }) ∧
      (x.retryReq = true → cw.sq = x.expect → (cw.fecOk = false ∨ h ≠ 0) →
        ∃ u, exec (.codewordReceive k cw) s = .next u ∧
          u.port k = { z with state := .retraining, step := 2, run := 0, tries := 1, retryReq := false, ctrs := addAt z.ctrs 2 1 } ∧
          (∀ j, j ≠ k → u.port j = s.port j) ∧ u = { s with ports := u.ports }) ∧
      (x.retryReq = true → cw.sq = x.expect → cw.fecOk = true → h = 0 →
        ∃ u, exec (.codewordReceive k cw) s = .next u ∧
          u.port k = { z with expect := (x.expect + 1) % 512, rxLeft := left, ctrs := addAt (addAt z.ctrs 1 1) 7 d, retryReq := false } ∧
          (∀ j, j ≠ k → u.port j = s.port j) ∧ (d = 0 → u.log = s.log) ∧
          (d ≠ 0 → u.log.recs.head?.map (fun r => (r.body.code, r.body.siteKind, r.body.site)) = some (0x4106, .port, siteNum k)))) ∧
    (∀ sq, ∃ u, exec (.retryRequest k sq) s = .next u ∧ u.port k = x.acked (sq % 512) ∧ (∀ j, j ≠ k → u.port j = s.port j) ∧
      u = { s with ports := u.ports, out := u.out } ∧
      u.out = { s.out with resends := s.out.resends ++ ((x.acked (sq % 512)).unacked.take 1).map (fun e => (k, e.1)) }) ∧
    (exec (.retryRequestTimeout k) s = .next (if x.retryReq = true then { s with out := ask } else s)) ∧
    ((k < 2 ∧ s.ring.joinHold = 1) ∨ s.pick k = none → exec (.transmitPacket k) s = .next s) ∧
    (∀ v y p w, ¬ (k < 2 ∧ s.ring.joinHold = 1) → s.pick k = some (v, y) → s.readyOn k v = some p → s.seal k p = some w →
      let cws := chunks 16 (pkWire w)
      (y.window < y.unacked.length + cws.length → exec (.transmitPacket k) s = .next s) ∧
      (y.unacked.length + cws.length ≤ y.window →
        ∃ u, exec (.transmitPacket k) s = .next u ∧ u.out = { s.out with sent := s.out.sent ++ [⟨k, w⟩] } ∧
          u.port k = { y with
            sendQ := y.sendQ.erase p, credits := if v = 8 then y.credits else y.credits.modify v (fun c => c - pkUnits p),
            unacked := y.unacked ++ cws.mapIdx (fun i c => ((y.nextSeq + i) % 512, c)), nextSeq := (y.nextSeq + cws.length) % 512 } ∧
          (∀ j, j ≠ k → u.port j = s.port j) ∧ u = { s with ports := u.ports, out := u.out })) ∧
    (∀ pk, packetOk k pk = true → hTypeOf pk = 7 → ∃ u, exec (.credit k pk) s = .next u ∧
      u.port k = { x with credits := x.credits.mapIdx (fun v c => c + fld pk.hdr (110 - 12 * v) (99 - 12 * v)) } ∧
      (∀ j, j ≠ k → u.port j = s.port j) ∧ u = { s with ports := u.ports }) ∧
    (x.free.any (fun n => decide (n ≠ 0)) = true → ∃ u c, exec (.creditReturnTimeout k) s = .next u ∧
      u.port k = { x with sendQ := x.sendQ ++ [c], free := x.free.map (fun n => n - min 4095 n) } ∧ hTypeOf c = 7 ∧ c.units = [] ∧
      (∀ v, v < 8 → fld c.hdr (110 - 12 * v) (99 - 12 * v) = min 4095 (x.free.getD v 0)) ∧
      (∀ j, j ≠ k → u.port j = s.port j) ∧ u = { s with ports := u.ports }) ∧
    (x.free.any (fun n => decide (n ≠ 0)) = false → exec (.creditReturnTimeout k) s = .next s)

/-- QUEUE_DATA enters its queue under credit, and a window write is stored or refused and answered. -/
def Obligations.PacketsReachQueuesAndWindows : Prop :=
  (∀ (s : State) (k : Nat) (pk pl : Packet), Safety.Arrives s k pk 1 pl →
    let n := fld pl.hdr 150 141
    ((∀ q, s.queue? n = some q → qProducer q.desc ≠ 2 ^ 12 + k * 2 ^ 8 ∨ s.slotOfTenant (hTenantOf pl) ≠ some q.slot) →
      ∃ u, exec (.queueData k pk) s = .next u ∧ u.queues = s.queues ∧ (u.port k).ctrs = addAt (s.port k).ctrs 3 1 ∧ u.slots = s.slots) ∧
    (∀ q, s.queue? n = some q → qProducer q.desc = 2 ^ 12 + k * 2 ^ 8 → s.slotOfTenant (hTenantOf pl) = some q.slot →
      let held := (s.port k).heldRx.any (fun h => decide (fld h.hdr 150 141 = n))
      let words := 2 * qMsg q.desc
      let ws := q.part ++ pkWords pl
      let m := ws.length / words
      let room := decide (16 * ws.length ≤ q.credit) && decide (q.tail.length + m ≤ qPage q.desc)
      (held = false → room = true →
        ∃ u r, exec (.queueData k pk) s = .next u ∧ u.queue? n = some r ∧ r.head = q.head ∧ r.middle = q.middle ∧
          r.tail = q.tail ++ chunks words (ws.take (m * words)) ∧ r.part = ws.drop (m * words) ∧
          r.mbs = q.mbs ++ List.replicate (chunks words (ws.take (m * words))).length (fld pl.hdr 166 151) ∧
          r.credit = q.credit - 32 * qMsg q.desc * (chunks words (ws.take (m * words))).length ∧ (∀ j, j ≠ n → u.queue? j = s.queue? j) ∧
          (u.port k).heldRx = (s.port k).heldRx ∧ u.log = s.log ∧ (∀ p, p ≠ q.slot → u.slot p = s.slot p)) ∧
      (held = true ∨ room = false → ∃ u, exec (.queueData k pk) s = .next u ∧ u.queues = s.queues ∧
        u.port k = { s.port k with heldRx := (s.port k).heldRx ++ [pl], ctrs := addAt (s.port k).ctrs 6 1 } ∧
        (∀ j, j ≠ k → u.port j = s.port j) ∧ u = { s with ports := u.ports, spaces := u.spaces }))) ∧
  (∀ (s : State) (k : Nat) (pk pl : Packet), Safety.Arrives s k pk 2 pl →
    let t : TileRef := ⟨fld pl.hdr 140 139, fld pl.hdr 138 135, fld pl.hdr 134 130⟩
    let n := s.phys t
    let i := fld pl.hdr 129 127
    let w := (s.tile n).window i
    let got := min 0xFFFFFFFF (wReceived w + pl.units.length)
    let full := wOnce w && decide (wLen w ≤ got)
    let way := s.route 0 (s.encFor (hTenantOf pl) 0) false (fld pl.hdr 226 226) (fld pl.hdr 232 227) (decide (fld pl.hdr 241 241 = 1))
    let answered := fun (u : State) (ty reason : Nat) => ∀ j, way = some j →
      ∃ a, (u.port j).sendQ.getLast? = some a ∧ hTypeOf a = ty ∧ hSeq a = hSeq pl ∧ fld a.hdr 110 103 = reason
    (s.windowReason pl = 0 → ∃ u, exec (.windowWritePacket k pk) s = .next u ∧ answered u 3 0 ∧
      (u.tile n).mem = ((pkWords pl).mapIdx (fun i c => (i, c))).foldl
        (fun m e => Memory.writeWord m (2 * (wBase w + fld pl.hdr 126 111) + e.1) e.2) (s.tile n).mem ∧
      wReceived ((u.tile n).window i) = got ∧ wOpen ((u.tile n).window i) = !full ∧
      (u.tile n).events = (s.tile n).events ++ (if full = true ∧ wEvent w ≠ 0 then [wEvent w] else []) ∧
      (∀ j, j ≠ i → (u.tile n).window j = (s.tile n).window j) ∧
      (∀ m, m ≠ n → u.tile m = s.tile m) ∧ u.log = s.log) ∧
    (s.windowReason pl ≠ 0 → ∃ u, exec (.windowWritePacket k pk) s = .next u ∧ answered u 4 (s.windowReason pl) ∧ (u.tile n).mem = (s.tile n).mem ∧
      (trOk t = true → wRefused ((u.tile n).window i) = min 0xFFFF (wRefused w + 1) ∧
        (u.groupC (groupNum t.q t.g)).refusals = (s.groupC (groupNum t.q t.g)).refusals + 1) ∧ u.slots = s.slots ∧ u.log = s.log)) ∧
  (∀ (s : State) (k : Nat) (pk pl : Packet), s.slots.length = 16 →
    (∀ q, s.answered pl = none → s.slotOfTenant (hTenantOf pl) = some q → q < 16 → Safety.Arrives s k pk 3 pl →
      ∃ u, exec (.windowAck k pk) s = .next u ∧ u.slot q = { s.slot q with str := { (s.slot q).str with late := (s.slot q).str.late + 1 } } ∧
        (∀ j, j ≠ q → u.slot j = s.slot j) ∧ u.tiles = s.tiles ∧ u.log = s.log) ∧
    (∀ (t : TileRef) (x : Stream) (c : Nat), s.answered pl = some (t, x, c) → (s.tile (s.phys t)).stream? x.id = some x →
      (s.tile (s.phys t)).queued = [] → (s.tile (s.phys t)).hwaits = [] → x.done + c < sLen x.desc →
      (Safety.Arrives s k pk 3 pl → ∃ u y, exec (.windowAck k pk) s = .next u ∧ (u.tile (s.phys t)).stream? x.id = some y ∧
        y = { x with done := x.done + c, answers := x.answers.filter (fun a => decide (a.1 ≠ hSeq pl)) } ∧
        (u.tile (s.phys t)).mem = (s.tile (s.phys t)).mem ∧ (∀ n, n ≠ s.phys t → u.tile n = s.tile n) ∧ u.slots = s.slots ∧ u.log = s.log) ∧
      (∀ z, Safety.Arrives s k pk 4 pl → s.pass? x.pass = some z → z.abandoned = false → z.attempt = 0 →
        ∃ u z', exec (.windowRefuse k pk) s = .next u ∧ u.pass? x.pass = some z' ∧ z'.abandoned = true ∧
          u.log.recs.head?.map (fun r => (r.body.code, r.body.handling, r.body.detail0, r.body.detail1)) =
            some (0x6139, .retry, fld pl.hdr 110 103, sIndex x.desc))))

/-- The feeder's declaration takes force, and its frames enter the queue clip by clip. -/
def Obligations.FeederClipsCommitWhole : Prop :=
  (∀ (s : State) (pk pl : Packet) (q : Nat), Safety.Arrives s 5 pk 6 pl → s.slotOfTenant (hTenantOf pl) = some q → s.slots.length = 16 → q < 16 →
    let d := pl.units.headD 0
    let g := (s.slot q).ingest
    let ok := match s.ingestQueue q with
      | [n] => (s.queue? n).any (fun x => decide (frameBytes d ≠ 0) && decide (frameBytes d % (32 * qMsg x.desc) = 0) && decide (clipFrames d ≠ 0)
          && decide (cadence d ≠ 0) && decide (frameBytes d * clipFrames d ≤ qCapacity x.desc))
      | _ => false
    (fld d 139 0 ≠ 0 → ∃ u, exec (.streamDeclare pk) s = .next u ∧ u.slots = s.slots ∧ (u.port 5).ctrs = addAt (s.port 5).ctrs 3 1) ∧
    (fld d 139 0 = 0 → ok = true → (g.declared = none ∨ (g.words = [] ∧ g.frame = 0 ∧ g.word = 0)) →
      ∃ u, exec (.streamDeclare pk) s = .next u ∧
        (u.slot q).ingest = { g with declared := some d, next := none, clip := firstClip d, frame := 0, word := 0, words := [] } ∧
        (∀ k, k ≠ q → u.slot k = s.slot k) ∧ u.queues = s.queues ∧ u.log = s.log) ∧
    (fld d 139 0 = 0 → ok = true → ¬ (g.declared = none ∨ (g.words = [] ∧ g.frame = 0 ∧ g.word = 0)) →
      ∃ u, exec (.streamDeclare pk) s = .next u ∧ (u.slot q).ingest = { g with next := some d } ∧
        (∀ k, k ≠ q → u.slot k = s.slot k) ∧ u.queues = s.queues ∧ u.log = s.log) ∧
    (fld d 139 0 = 0 → ok = false →
      ∃ u, exec (.streamDeclare pk) s = .next u ∧
        (u.slot q).ingest = { g with declared := none, next := none, frame := 0, word := 0, words := [] } ∧
        u.log.recs.head?.map (fun r => (r.body.code, r.body.pennant, r.body.detail0, r.body.detail1)) = some (0x510C, q, frameBytes d, clipFrames d))) ∧
  (∀ (s : State) (pk pl : Packet) (q : Nat), Safety.Arrives s 5 pk 5 pl → s.slotOfTenant (hTenantOf pl) = some q → s.slots.length = 16 → q < 16 →
    let g := (s.slot q).ingest
    (g.declared = none → ∃ u, exec (.frame pk) s = .next u ∧ u.slots = s.slots ∧ u.queues = s.queues ∧ u.log = s.log) ∧
    (∀ d n rest x, g.declared = some d → s.ingestQueue q = n :: rest → s.queue? n = some x →
      (s.port 5).heldRx.any (fun h => decide (hTenantOf h = hTenantOf pl)) = false →
      let w := g.word + pl.units.length
      let ahead := (fClip pl + 2 ^ 32 - g.clip) % 2 ^ 32
      let due := decide (fFrame pl = g.frame) && decide (fWord pl = g.word) && decide (w ≤ frameBytes d / 32)
      (2 ^ 31 ≤ ahead → ∃ u, exec (.frame pk) s = .next u ∧ u.slots = s.slots ∧ u.queues = s.queues ∧ u.log = s.log) ∧
      (ahead ≠ 0 → ahead < 2 ^ 31 → g.next = none →
        ∃ u, exec (.frame pk) s = .next u ∧ (u.slot q).ingest = { g with words := [], word := 0, frame := 0, clip := (fClip pl + 1) % 2 ^ 32, discarded := g.discarded + (if g.words = [] then 1 else 2) } ∧ u.queues = s.queues ∧
          u.log.recs.head?.map (fun r => (r.body.code, r.body.detail0)) = some (0x510B, fClip pl)) ∧
      (ahead = 0 → due = false → g.next = none →
        ∃ u, exec (.frame pk) s = .next u ∧ (u.slot q).ingest = { g with words := [], word := 0, frame := 0, clip := (g.clip + 1) % 2 ^ 32, discarded := g.discarded + 1 } ∧
          u.queues = s.queues ∧ u.log.recs.head?.map (fun r => (r.body.code, r.body.detail0)) = some (0x510B, g.clip)) ∧
      (ahead = 0 → due = true → x.credit < 16 * g.words.length + 32 * pl.units.length →
        ∃ u, exec (.frame pk) s = .next u ∧ (u.port 5).heldRx = (s.port 5).heldRx ++ [pl] ∧ u.slots = s.slots ∧ u.queues = s.queues ∧ u.log = s.log) ∧
      (ahead = 0 → due = true → 16 * g.words.length + 32 * pl.units.length ≤ x.credit →
        (¬ (w = frameBytes d / 32 ∧ g.frame + 1 = clipFrames d) →
          ∃ u, exec (.frame pk) s = .next u ∧
            (u.slot q).ingest = { g with words := g.words ++ pkWords pl, word := if w = frameBytes d / 32 then 0 else w,
                                         frame := if w = frameBytes d / 32 then g.frame + 1 else g.frame } ∧
            (u.slot q).seq = (s.slot q).seq ∧ (∀ k, k ≠ q → u.slot k = s.slot k) ∧ u.queues = s.queues ∧ u.log = s.log) ∧
        (w = frameBytes d / 32 → g.frame + 1 = clipFrames d →
          ∃ u, exec (.frame pk) s = .next u ∧ (u.slot q).seq.clips = (s.slot q).seq.clips + 1 ∧ (u.slot q).ingest.committed = g.committed + 1 ∧
            (u.slot q).ingest.words = [] ∧ (u.slot q).ingest.word = 0 ∧ (u.slot q).ingest.frame = 0 ∧
            (g.next = none → (u.slot q).ingest.clip = (g.clip + 1) % 2 ^ 32 ∧ (u.slot q).ingest.declared = some d) ∧
            (∀ e, g.next = some e → (u.slot q).ingest.clip = firstClip e ∧ (u.slot q).ingest.declared = some e ∧ (u.slot q).ingest.next = none) ∧
            (x.tail.length + (chunks (2 * qMsg x.desc) (g.words ++ pkWords pl)).length ≤ qPage x.desc → u.log = s.log ∧
              ∃ y, u.queue? n = some y ∧ y.tail = x.tail ++ chunks (2 * qMsg x.desc) (g.words ++ pkWords pl))))))

/-- Topology announcements, the insert permit, the join hold and a bypass switch fault. -/
def Obligations.RingMembership : Prop :=
  (∀ (s : State) (k : Nat) (a : Announce), k < 5 → s.linkUp? k = true →
    let newer := ∀ t, s.topo.find? (fun (t : Announce) => decide (t.ring = a.ring) && decide (t.pos = a.pos)) = some t →
      t.epoch < a.epoch ∨ (t.epoch = a.epoch ∧ t.version < a.version)
    (¬ (a.ring = s.ring.ring ∧ a.pos = s.ring.pos) → newer →
      ∃ u, exec (.topology k a) s = .next u ∧ u.topo = s.topo.filter (fun t => !(decide (t.ring = a.ring) && decide (t.pos = a.pos))) ++ [a] ∧
        (∀ j, (u.port j).state = (s.port j).state) ∧ u.ring = s.ring ∧ u.queues = s.queues ∧ u.log = s.log) ∧
    ((a.ring = s.ring.ring ∧ a.pos = s.ring.pos) ∨ ¬ newer → ∃ u, exec (.topology k a) s = .next u ∧ u = { s with ports := u.ports } ∧
      (∀ j, j ≠ k → u.port j = s.port j))) ∧
  (∀ (s : State) (v : Via) (n : Nat), v.who = .host → Safety.Serves s →
    (n ≤ 1 → s.test.mode = true → ∃ u, exec (.insertPermit v n) s = .next u ∧ u.ring = s.ring ∧ u.slots = s.slots ∧
      u.out.response.map (fun r => (r.status, r.detail)) = some (.valueRefused, 0x9101)) ∧
    (n = 1 → s.test.mode = false → s.mod.ringClash = false →
      ∃ u, exec (.insertPermit v n) s = .next u ∧ u.ring = { s.ring with permit := true, bypass := if s.mod.state = .joining ∧ s.ring.bypass = 0 then 1 else s.ring.bypass } ∧
        u.out.response.map (fun r => r.status) = some .ok ∧ u = { s with ring := u.ring, out := u.out }) ∧
    (n = 0 → s.test.mode = false → ∃ u, exec (.insertPermit v n) s = .next u ∧ u.ring = { s.ring with permit := false } ∧
      u.out.response.map (fun r => r.status) = some .ok ∧ u = { s with ring := u.ring, out := u.out }) ∧
    (1 < n ∨ (n = 1 ∧ s.test.mode = false ∧ s.mod.ringClash = true) → ∃ u, exec (.insertPermit v n) s = .next u ∧ u = { s with out := u.out } ∧
      u.out.response.map (fun r => r.status) = some .valueRefused) ∧
    (n ≤ 1 → ∃ u, exec (.joinHold v n) s = .next u ∧ u = { s with ring := { s.ring with joinHold := n }, out := u.out } ∧
      u.out.response.map (fun r => r.status) = some .ok) ∧
    (1 < n → ∃ u, exec (.joinHold v n) s = .next u ∧ u = { s with out := u.out } ∧ u.out.response.map (fun r => r.status) = some .valueRefused)) ∧
  (∀ s : State, ((s.linksRun = true ∨ s.mod.state = .proving) → ∃ u, exec (.bypassSwitchFault) s = .next u ∧ u.mod.state = .struck ∧ u.ring.bypass = 3 ∧
      ((∀ p, p < 16 → (s.slot p).state = .free) → u.log.recs.any (fun r => decide (r.body.code = 0x510D)) = true)) ∧
    (s.linksRun = false → s.mod.state ≠ .proving → exec (.bypassSwitchFault) s = .next s))

/-- A digest record is paired with the local record or kept; probes are sent, answered and, unanswered, the partner is lost. -/
def Obligations.MirrorRecordsCompare : Prop :=
  ∀ (s : State) (p : Nat), p < 16 → s.slots.length = 16 → bMirrored (s.slot p).burgee = true → (s.slot p).state ≠ .free →
    let m := (s.slot p).mirror
    (m.state = .paired → m.remote.length < 4096 → ∀ b : BitVec 512,
      let d := digestOfBits b
      let mine := s.passes.find? (fun y => decide (y.slot = p) && (match y.digest with | some e => e.same d && (e.replay == d.replay) | none => false))
      (mine = none → d.kind ≠ .update → ∃ u, exec (.digestRecord p b) s = .next u ∧ (u.slot p).mirror = { m with remote := m.remote ++ [d] } ∧
        u.passes = s.passes ∧ u.log = s.log ∧ (∀ k, k ≠ p → u.slot k = s.slot k)) ∧
      (∀ i h e, mine = none → d.kind = .update → s.shardIx p d.chip d.tensor = some i → s.shard? p d.chip i = some h → h.digest = some e →
        d.same e = true → (m.remote.find? (fun r => r.same e)) = none →
        (e.agrees d = true → ∃ u, exec (.digestRecord p b) s = .next u ∧ u.shard? p d.chip i = some { h with digest := none, doneStep := some h.count } ∧
          (u.slot p).mirror = m ∧ (u.slot p).recC.compared = (s.slot p).recC.compared + 1 ∧ u.log = s.log) ∧
        (e.agrees d = false → m.lastDis = none → ∃ u, exec (.digestRecord p b) s = .next u ∧ (u.slot p).mirror.pending = true ∧ (u.slot p).mirror.testing = true ∧
          (u.slot p).recC.mismatches = (s.slot p).recC.mismatches + 1 ∧ Safety.Logged u 0x8316)) ∧
      (∀ y, mine = some y → y.matched = false → y.waitTicks = false →
        ∃ u, exec (.digestRecord p b) s = .next u ∧ (u.slot p).mirror = { m with lateDigests := m.lateDigests + 1 } ∧ u.passes = s.passes ∧ u.log = s.log) ∧
      (∀ y e, mine = some y → y.matched = false → y.waitTicks = true → y.digest = some e → s.pass? y.id = some y →
        m.remote.find? (fun r => r.same e && (r.replay == e.replay)) = none →
        (e.replay = false → e.agrees d = true → ∃ u z, exec (.digestRecord p b) s = .next u ∧ u.pass? y.id = some z ∧ z.matched = true ∧
          z.waitTicks = false ∧ (u.slot p).mirror.remote = m.remote ∧ (u.slot p).recC.compared = (s.slot p).recC.compared + 1 ∧ u.log = s.log) ∧
        (e.replay = false → e.agrees d = false → ∃ u z, exec (.digestRecord p b) s = .next u ∧ u.pass? y.id = some z ∧ z.abandoned = true ∧
          z.replaying = true ∧ z.replayDue = true ∧ z.digest = none ∧ z.original = some e ∧ z.partner = some d ∧ (u.slot p).recC.mismatches = (s.slot p).recC.mismatches + 1 ∧
          Safety.newest u = some (0x8310, .retry, p)) ∧
        (e.replay = true → e.agrees d = true → ∃ u z, exec (.digestRecord p b) s = .next u ∧ u.pass? y.id = some z ∧ z.matched = true ∧
          (y.original.map (fun o => o.agrees e) = some false → u.log.recs.head?.map (fun r => (r.body.code, r.body.pennant)) = some (0x8311, p)) ∧
          (y.original.map (fun o => o.agrees e) ≠ some false → u.log = s.log)) ∧
        (e.replay = true → e.agrees d = false → m.lastDis = none → ∃ u, exec (.digestRecord p b) s = .next u ∧ (u.slot p).mirror.pending = true ∧
          (u.slot p).mirror.testing = true ∧ (u.slot p).mirror.lastDis = some (u.slot p).mirror.rbTarget ∧ Safety.Logged u 0x8312) ∧
        (∀ t, e.replay = true → e.agrees d = false → m.lastDis = some t → (s.slot p).seq.step ≤ t →
          ∃ u, exec (.digestRecord p b) s = .next u ∧ (u.slot p).seq.stopped = true ∧ (u.slot p).seq.byHost = true ∧ (u.slot p).mirror.pending = m.pending ∧
            Safety.Logged u 0x8312 ∧ Safety.Logged u 0x8315))) ∧
    (∀ id x, s.pass? id = some x → x.slot = p → x.waitTicks = true → ∃ u z, exec (.digestWaitTimeout p id) s = .next u ∧
      u.pass? id = some z ∧ z.waitTicks = false ∧ (u.slot p).mirror = { m with probing := true } ∧ Safety.Tells u (recHdr 0x13 0 0 0 x.step 0 0) ∧ u.log = s.log) ∧
    (∀ q, rhKind q = 0x13 → ∃ u, exec (.probe p q) s = .next u ∧ Safety.Tells u (recHdr 0x14 0 0 0 (rhStep q) 0 0) ∧
      (u.slot p).mirror = m ∧ u.passes = s.passes ∧ u.log = s.log) ∧
    (∀ q, rhKind q = 0x14 → m.probing = true → ∃ u, exec (.probeAnswer p q) s = .next u ∧ (u.slot p).mirror = { m with probing := false } ∧
      u.passes = s.passes.map (fun x => if x.slot = p ∧ x.digest ≠ none ∧ x.matched = false then { x with waitTicks := true } else x) ∧ u.log = s.log) ∧
    (m.probing = true → m.state = .paired → m.rj = .idle → m.pending = false → ∃ u, exec (.probeTimeout p) s = .next u ∧
      (u.slot p).mirror = { m with state := .lone, loneRb := false, probing := false, remote := [] } ∧ u.passes = s.passes ∧
      (∀ n i h e, s.shard? p n i = some h → h.digest = some e → u.shard? p n i = some { h with digest := none, doneStep := some h.count }) ∧
      u.log.recs.head?.map (fun r => (r.body.code, r.body.pennant)) = some (0x8320, p))

/-- HALT and TARGET agree on the lowest step, retained pieces and the self-test follow, and the host operator resumes. -/
def Obligations.RollbackRuns : Prop :=
  ∀ (s : State) (p : Nat), p < 16 → s.slots.length = 16 → (s.slot p).state ≠ .free →
    let x := s.slot p
    let m := x.mirror
    let all := fun (l : List (Nat × Nat)) => (s.rbPeers p).all (fun k => decide (k ∈ l))
    (∀ q, rhKind q = 0x10 → 
      (m.pending = false → (s.peersOf p).any (fun k => decide (k.1 = s.ring.ring)) = true →
        ∃ u, exec (.halt p q) s = .next u ∧ (u.slot p).mirror.pending = true ∧ (u.slot p).mirror.rb = .targets ∧
          (u.slot p).mirror.rbTarget = min (rhStep q) x.target ∧ (u.slot p).mirror.reported = [] ∧ (u.slot p).seq.stopped = true ∧
          (x.state = .running → (u.slot p).state = .halted) ∧ (∀ y ∈ u.passes, y.slot ≠ p) ∧
          (u.slot p).recC.rollbacks = x.recC.rollbacks + 1 ∧ Safety.Logged u 0x8330) ∧
      (m.pending = true → all m.reported = false → ∃ u, exec (.halt p q) s = .next u ∧ (u.slot p).mirror.rb = .targets ∧
        (u.slot p).mirror.rbTarget = min m.rbTarget (rhStep q) ∧ (u.slot p).mirror.reported = m.reported ∧ (u.slot p).recC = x.recC)) ∧
    (∀ q ring pos, rhKind q = 0x11 → m.pending = true → m.rb = .targets → (ring, pos) ∈ s.peersOf p → (ring, pos) ∉ m.reported →
      let l := m.reported ++ [(ring, pos)]
      let t := min m.rbTarget (rhStep q)
      (all l = false → ∃ u, exec (.target p ring pos q) s = .next u ∧ (u.slot p).mirror = { m with rbTarget := t, target := t, reported := l } ∧
        u.log = s.log) ∧
      (all l = true → m.testing = true → m.loneRb = false → ∃ u, exec (.target p ring pos q) s = .next u ∧ (u.slot p).mirror.rb = .testing ∧
        (u.slot p).mirror.rbTarget = t) ∧
      (all l = true → m.testing = false → s.shardList p = [] → ∃ u, exec (.target p ring pos q) s = .next u ∧ (u.slot p).mirror.rb = .awaiting ∧
        (u.slot p).seq.step = t ∧ (u.slot p).seq.start = t ∧ (u.slot p).seq.issued = false ∧
        (∀ b ∈ (u.slot p).buckets, b.lastSum = (t : Int) - 1 ∧ b.lastRes = (t : Int) - 1))) ∧
    (∀ q i h, rhKind q = 2 → s.shardIx p (rhChip q) (rhTensor q) = some i → s.shard? p (rhChip q) i = some h → rhPart q ≠ 14 →
      let n := rhChip q
      let r := (s.kept p n i m.rbTarget).2
      let ps := retPieces h.desc x.thin r.1 r.2
      let k := ps.findIdx (fun c => decide (c.1 / 32 * 32 = partAt h.desc x.thin (rhPart q) + rhOff q))
      (m.rb = .restoring → m.rj = .idle → rhStep q = m.rbTarget → (n, i, k) ∈ m.need → q.words.any unusable = false → k < ps.length →
        let w := (s.gotMsg p q).putVec p n (ps.getD k (0, 0)).1 (((q.words.flatMap wordLanes).drop ((ps.getD k (0, 0)).1 % 32 / 4)).take (ps.getD k (0, 0)).2)
        (m.need.erase (n, i, k) ≠ [] → ∃ u, exec (.retainedChunk p q) s = .next u ∧
          (u.slot p).mirror = { (w.slot p).mirror with need := m.need.erase (n, i, k) } ∧ u.carts = w.carts ∧ u.dram = w.dram ∧ u.log = w.log) ∧
        (m.need.erase (n, i, k) = [] → ∃ u, exec (.retainedChunk p q) s = .next u ∧
          ((u.slot p).mirror.rb = .awaiting ∨ ((u.slot p).mirror.rb = .idle ∧ Safety.Logged u 0x8331)))) ∧
      ((m.rb ≠ .restoring ∨ rhStep q ≠ m.rbTarget ∨ (n, i, k) ∉ m.need ∨ q.words.any unusable = true) →
        ∃ u, exec (.retainedChunk p q) s = .next u ∧ (u.slot p).mirror = m ∧ u.carts = s.carts ∧ u.dram = s.dram ∧ u.log = s.log)) ∧
    (∀ q, rhKind q = 0x17 → m.rb = .testing →
      (bit (codeData (q.words.getD 0 0)) 127 = false → s.shardList p = [] → ∃ u, exec (.selfTest p q none) s = .next u ∧
        (u.slot p).mirror.testing = false ∧ (u.slot p).mirror.rb = .awaiting ∧
        u.log.recs.head?.map (fun r => (r.body.code, r.body.pennant)) = some (0x8314, p)) ∧
      (∀ k site, bMirrored x.burgee = true →
        (k = .tile → s.spareFree (groupNum (site / 2 ^ 20 % 4) (site / 2 ^ 15 % 16)) = false ∨ 19 ≤ site / 2 ^ 10 % 32) →
        ∃ u, exec (.selfTest p q (some (k, site))) s = .next u ∧ (u.slot p).mirror.rb = .idle ∧ (u.slot p).seq.stopped = true ∧ Safety.Logged u 0x8313) ∧
      (∀ site, s.spareFree (groupNum (site / 2 ^ 20 % 4) (site / 2 ^ 15 % 16)) = true → site / 2 ^ 10 % 32 < 19 → s.shardList p = [] →
        m.state ≠ .stale → s.mod.state ≠ .struck →
        ((s.mod.located ++ [s.mod.ref]).filter (fun r => decide (s.mod.ref - s.recov.strikeWindow * 90000000000 ≤ r))).length < s.recov.strikeLimit →
        ∃ u, exec (.selfTest p q (some (.tile, site))) s = .next u ∧ (u.slot p).mirror.rb = .awaiting ∧
          tileNum (site / 2 ^ 20 % 4) (site / 2 ^ 15 % 16) (site / 2 ^ 10 % 32) ∈ u.spare.waiting ∧
          u.log.recs.head?.map (fun r => (r.body.code, r.body.handling, r.body.site)) = some (0x8313, .spare, site))) ∧
    (∀ v : Via, v.who = .host → Safety.Serves s → m.rb ≠ .targets →
      (m.pending = true → m.rb = .awaiting → ∃ u, exec (.rollbackResume v p) s = .next u ∧ (u.slot p).state = .running ∧
        (u.slot p).seq.stopped = false ∧ (u.slot p).seq.clips = 0 ∧ (u.slot p).mirror = { m with pending := false, rb := .idle, loneRb := false, reported := [], state := if m.state = .rollingBack then (if m.loneRb then MirrorState.lone else .paired) else m.state } ∧
        u.out.response.map (fun r => r.status) = some .ok) ∧
      ((m.pending = false ∨ m.rb ≠ .awaiting) → ∃ u, exec (.rollbackResume v p) s = .next u ∧ u.slots = s.slots ∧
        u.out.response.map (fun r => r.status) = some .valueRefused))

/-- A rejoin agrees on the boundary, reloads copies and state part by part, and ends with the pair whole or not at all. -/
def Obligations.RejoinReloads : Prop :=
  ∀ (s : State) (p : Nat), p < 16 → s.slots.length = 16 → (s.slot p).state ≠ .free →
    let x := s.slot p
    let m := x.mirror
    (∀ v : Via, v.who = .host → Safety.Serves s →
      (∀ n, n ≠ 0 → n ≠ 1 → n ≠ 0xFF → ∃ u, exec (.rejoinSource v p n) s = .next u ∧ u.slots = s.slots ∧
        u.out.response.map (fun r => r.status) = some .valueRefused) ∧
      (∃ u, exec (.rejoinSource v p 0xFF) s = .next u ∧ u.slot p = { x with mirror := { m with source := 0xFF } } ∧ (∀ j, j ≠ p → u.slot j = s.slot j) ∧
        u.out.response.map (fun r => r.status) = some .ok) ∧
      (bMirrored x.burgee = true → x.image ≠ none → m.rj = .idle → m.pending = false → s.ring.ring < 2 →
        (m.state = .lone → ∃ u, exec (.rejoinSource v p s.ring.ring) s = .next u ∧
          (u.slot p).mirror = { m with source := s.ring.ring, rj := .boundary, rjSource := true, boundary := x.boundaryStep } ∧
          (∀ h ∈ (u.slot p).shards, h.2.owed = true) ∧ u.out.response.map (fun r => r.status) = some .ok) ∧
        (x.state = .halted → ∃ u, exec (.rejoinSource v p (1 - s.ring.ring)) s = .next u ∧
          (u.slot p).mirror = { m with source := 1 - s.ring.ring, rj := .boundary, rjSource := false, boundary := 0, state := .reloading, todo := s.copyParts p, rx := [] } ∧ u.out.response.map (fun r => r.status) = some .ok))) ∧
    (∀ q ring, rhKind q = 0x12 → ring ≠ s.ring.ring → m.rj = .boundary →
      (m.rjSource = false → m.todo ≠ [] → ∃ u, exec (.boundary p ring q) s = .next u ∧
        (u.slot p).mirror = { m with boundary := rhStep q, rj := .copies } ∧ Safety.Tells u (recHdr 0x12 0 0 0 (rhStep q) 0 0) ∧ u.log = s.log) ∧
      (m.rjSource = false → m.todo = [] → ∃ u, exec (.boundary p ring q) s = .next u ∧ (u.slot p).mirror.rj = .running ∧
        (u.slot p).state = .running ∧ (u.slot p).seq.step = rhStep q ∧ (u.slot p).seq.stopped = false) ∧
      (m.rjSource = true → rhStep q = m.boundary → x.atBoundary = false → ∃ u, exec (.boundary p ring q) s = .next u ∧
        (u.slot p).mirror = { m with rj := .ready } ∧ u.log = s.log)) ∧
    (∀ q, m.rjSource = false → rhStep q = m.boundary →
      (rhKind q = 3 → m.rj = .copies → rhKey q ∈ m.todo →
        let w := (s.gotMsg p q).putWords p (q.words.mapIdx (fun i w => ((s.copyAt p (rhTensor q) (rhChip q) (rhPart q)).1 + rhOff q + 16 * i, w)))
        ∃ u, exec (.workingCopyMessage p q) s = .next u ∧ u.dram = w.dram ∧ u.caches = w.caches ∧
          (u.slot p).mirror = { (w.slot p).mirror with rx := addRx (w.slot p).mirror.rx (rhKey q) q.words } ∧ u.log = w.log) ∧
      (rhKind q = 4 → m.rj = .copies → (rhTensor q, rhChip q, 0) ∈ m.todo →
        ∃ u, exec (.scaleTableMessage p q) s = .next u ∧
          (u.slot p).buckets = fillTables x.buckets (rhTensor q) (rhChip q) (q.words.flatMap (fun w => (bytesLE 16 (codeData w).toNat).map BitVec.toNat)) ∧
          (u.slot p).mirror = { m with rx := addRx m.rx (rhTensor q, rhChip q, 0) q.words } ∧ u.log = s.log) ∧
      (∀ i h, rhKind q = 1 → m.rj = .running → rhKey q ∈ m.todo → s.shardIx p (rhChip q) (rhTensor q) = some i → s.shard? p (rhChip q) i = some h →
        let w := (q.words.mapIdx (fun i w => (i, w))).foldl (fun s e => s.ssPut p (rhChip q) ((partAt h.desc x.thin (rhPart q) + rhOff q) / 16 + e.1) e.2) (s.gotMsg p q)
        ∃ u, exec (.stateMessage p q) s = .next u ∧ u.carts = w.carts ∧ u.dram = w.dram ∧ u.log = w.log ∧
          (u.slot p).mirror = { (w.slot p).mirror with rx := addRx (w.slot p).mirror.rx (rhKey q) q.words }) ∧
      (rhKind q = 0x15 → (m.rj = .copies ∨ m.rj = .running) → rhKey q ∈ m.todo →
        let d := s.partDigest p .reload (rhKey q) m.boundary (rxOf m.rx (rhKey q))
        (lanesOf q = (d.lane0, d.lane1) → m.todo.erase (rhKey q) ≠ [] → ∃ u, exec (.partDigest p false q) s = .next u ∧
          (u.slot p).mirror = { m with todo := m.todo.erase (rhKey q), rx := m.rx.filter (fun e => decide (e.1 ≠ rhKey q)) } ∧ u.log = s.log) ∧
        (lanesOf q ≠ (d.lane0, d.lane1) → ∃ u, exec (.partDigest p false q) s = .next u ∧ (u.slot p).mirror.rj = .idle ∧
          (u.slot p).mirror.state = .stale ∧ u.log.recs.head?.map (fun r => (r.body.code, r.body.pennant)) = some (0x8322, p) ∧
          (m.rj = .running → (u.slot p).seq.stopped = true)))) ∧
    (∀ q, m.rjSource = true → (m.rj = .copies ∨ m.rj = .running) → rhKind q = 0x15 → rhStep q = m.boundary → rhKey q ∈ m.todo →
      m.todo.erase (rhKey q) ≠ [] → ∃ u, exec (.partDigest p false q) s = .next u ∧ (u.slot p).mirror = { m with todo := m.todo.erase (rhKey q) } ∧
        u.log = s.log ∧ u.dram = s.dram ∧ u.carts = s.carts) ∧
    (∀ q, rhKind q = 0x16 → m.rjSource = false → m.rj = .running →
      (m.todo = [] → ∃ u, exec (.reloadDone p q) s = .next u ∧ (u.slot p).mirror = { m with rj := .idle, state := .paired, todo := [], rx := [] } ∧
        u.log.recs.head?.map (fun r => (r.body.code, r.body.pennant, r.body.step)) = some (0x8321, p, m.boundary)) ∧
      (m.todo ≠ [] → ∃ u, exec (.reloadDone p q) s = .next u ∧ (u.slot p).mirror.state = .stale ∧ (u.slot p).seq.stopped = true ∧
        (x.state = .running → (u.slot p).state = .halted))) ∧
    (∀ q, rhKind q = 5 →
      (∀ im, x.imp = some im → im.todo.any (fun t => decide (t.1 = rhKey q)) = true → rhStep q = im.step →
        ∃ u, exec (.exportedPart p q) s = .next u ∧ (u.slot p).imp = some { im with rx := addRx im.rx (rhKey q) q.words } ∧ u.log = s.log) ∧
      (x.imp = none → ∃ u, exec (.exportedPart p q) s = .next u ∧ (u.slot p).imp = none ∧ (u.slot p).mirror = m ∧ u.dram = s.dram ∧ u.carts = s.carts ∧ u.log = s.log))

/-- A spare takes a waiting tile with its words, and a Strike leaves nothing running. -/
def Obligations.SparesAndStrikes : Prop :=
  (∀ (s : State) (q g t : Nat) (lost : Bool), s.slots.length = 16 →
    let n := tileNum q g t
    let sp := tileNum q g 19
    (q < 4 → g < 16 → t < 19 → n ∈ s.spare.waiting → s.spareFree (groupNum q g) = true →
      (s.holder (granuleOf q g) = none ∨ (lost = false ∧ (s.tile n).copied.2 = false) → ∃ u, exec (.spareMapping q g t lost) s = .next u ∧
        u.tile sp = { s.tile n with mem := (s.tile n).copied.1 } ∧ u.tile n = {} ∧ u.phys ⟨q, g, t⟩ = sp ∧
        u.spare = { s.spare with spares := tput s.spare.spares (groupNum q g) t, waiting := s.spare.waiting.erase n } ∧
        (∀ k, k ≠ n → k ≠ sp → u.tile k = s.tile k) ∧
        u.log.recs.head?.map (fun r => (r.body.code, r.body.detail0, r.body.detail1)) = some (0x8303, 19, t) ∧
        u.passes.map (fun y => y.id) = s.passes.map (fun y => y.id) ∧
        (∀ y ∈ s.passes, y.abandoned = true → y.attempt = 1 → y.faults.getLast?.any (fun r => decide (r.siteKind = .tile ∧ r.site = siteTile q g t)) = true →
          { y with spared := true } ∈ u.passes)) ∧
      (∀ p, s.holder (granuleOf q g) = some p → p < 16 → (lost = true ∨ (s.tile n).copied.2 = true) →
        ∃ u, exec (.spareMapping q g t lost) s = .next u ∧ (u.slot p).mirror.pending = true ∧ Safety.Logged u 0x8305 ∧
          tget? u.spare.spares (groupNum q g) = some t)) ∧
    ((4 ≤ q ∨ 16 ≤ g ∨ 19 ≤ t ∨ n ∉ s.spare.waiting ∨ s.spareFree (groupNum q g) = false) → exec (.spareMapping q g t lost) s = .next s)) ∧
  (∀ s : State, s.slots.length = 16 →
    ((s.mod.state = .proving ∨ s.mod.state = .joining ∨ s.mod.state = .hoisted ∨ s.mod.state = .halfMast) →
      ∃ u, exec (.strike) s = .next u ∧ u.mod.state = .struck ∧ u.ring.bypass = 0 ∧ u.tiles = [] ∧ u.caches = tmap (fun _ c => { c with lines := [], plru := [], fills := [] }) s.caches ∧ u.passes = [] ∧ u.queues = [] ∧
        u.keys.transport = none ∧ u.keys.module = none ∧
        (∀ p, p < 16 → (s.slot p).state ≠ .free → (u.slot p).seq.stopped = true ∧ (u.slot p).state ≠ .running) ∧
        (∀ p, p < 16 → (u.slot p).digestKey = none ∧ (u.slot p).ckptKey = none) ∧
        u.log.recs.head?.map (fun r => (r.body.code, r.body.handling)) = some (0x8341, .strike)) ∧
    (¬ (s.mod.state = .proving ∨ s.mod.state = .joining ∨ s.mod.state = .hoisted ∨ s.mod.state = .halfMast) → exec (.strike) s = .next s))

/-- GRANT, RELEASE, HALT and RESUME do what they say, or are refused with their code. -/
def Obligations.SlotsAreGrantedAndReleased : Prop :=
  ∀ (s : State) (v : Via) (p : Nat), p < 16 → s.slots.length = 16 → s.boxes.length = 17 → Safety.Serves s →
    let x := s.slot p
    let refused := fun (i : Instr) (c : Nat) => ∃ u, exec i s = .next u ∧ u.slot p = { x with last := c } ∧
      (∀ k, k ≠ p → u.slot k = s.slot k) ∧ Safety.answered u = some (.valueRefused, c) ∧ u.tiles = s.tiles
    let run := v.who = .host ∨ (v.who = .tenant ∧ v.slot = p ∧ bRights x.burgee / 2 % 2 = 1)
    (v.who = .host →
      (s.grantCode p ≠ 0 → refused (.grant v p) (s.grantCode p)) ∧
      (s.grantCode p = 0 → x.staged.span < 2 ^ 64 → x.staged.granules < 2 ^ 16 → x.staged.vcs < 256 →
        ∃ u, exec (.grant v p) s = .next u ∧ bTenant (u.slot p).burgee = x.staged.tenant ∧ bGranules (u.slot p).burgee = x.staged.granules ∧
          bSpan (u.slot p).burgee = x.staged.span ∧ bRights (u.slot p).burgee = x.staged.rights ∧ bVcs (u.slot p).burgee = x.staged.vcs ∧
          bMirrored (u.slot p).burgee = x.staged.mirrored ∧ (u.slot p).grantNo = (x.grantNo + 1) % 2 ^ 32 ∧ 
          (u.slot p).stackKey = some (Config.drbg s.free) ∧ (u.slot p).cartKey = some (Config.drbg (s.free + 1)) ∧
          (∀ n, n < 8 → tget? (u.stack n).keys p = some (Config.drbg s.free)) ∧
          (∀ n, n < 4 → tget? (tget u.chips n {}).keys p = some (Config.drbg (s.free + 1))) ∧
          (∀ n, (u.slot p).granule (granuleOf (n / 320) (n / 20 % 16)) = true → n < 1280 → u.tile n = {}) ∧
          (u.keyPeers p = [] → (u.slot p).state = .granted ∧ (u.slot p).eph = none ∧ (u.slot p).meters = {}) ∧
          (u.keyPeers p ≠ [] → s.offers.any (fun o => decide (offerTenant o = x.staged.tenant)) = false →
            (u.slot p).state = .granting ∧ (u.slot p).eph = some (scalarOf (Config.drbg (s.free + 2)))) ∧
          Safety.answered u = some (.ok, 0) ∧ (∀ k, k ≠ p → (u.slot k).state = (s.slot k).state)) ∧
      (x.state = .free → refused (.release v p) 0x3107) ∧ (x.state = .releasing → refused (.release v p) 0x3106) ∧
      (x.state ≠ .free → x.state ≠ .releasing →
        ∃ u, exec (.release v p) s = .next u ∧ (u.slot p).state = .free ∧ (u.slot p).stackKey = none ∧ (u.slot p).cartKey = none ∧
          (u.slot p).ckptKey = none ∧ (u.slot p).digestKey = none ∧ (u.slot p).image = none ∧ (u.slot p).grantNo = x.grantNo ∧
          (u.slot p).release.v = x.meters.v ∧ (u.slot p).release.snap = (x.snap + 1) % 2 ^ 32 ∧ (u.slot p).release.tenant = bTenant x.burgee ∧ (u.slot p).release.grant = x.grantNo ∧
          (∀ y ∈ u.passes, y.slot ≠ p) ∧ (∀ e ∈ u.queues, e.2.slot ≠ p) ∧ u.boxes.getD (p + 1) {} = {} ∧
          (∀ n, n < 8 → tget? (u.stack n).keys p = none) ∧ (∀ n, n < 1280 → x.granule (granuleOf (n / 320) (n / 20 % 16)) = true → u.tile n = {}) ∧
          Safety.answered u = some (.ok, 0) ∧ (∀ k, k ≠ p → (u.slot k).state = (s.slot k).state))) ∧
    (v.who = .tenant → v.slot = p → bRights x.burgee / 2 % 2 = 0 →
      (∃ u, exec (.haltCommand v p) s = .next u ∧ u.slots = s.slots ∧ Safety.answered u = some (.accessDenied, 0)) ∧
      (∃ u, exec (.resume v p) s = .next u ∧ u.slots = s.slots ∧ Safety.answered u = some (.accessDenied, 0))) ∧
    (v.who = .tenant → v.slot = p → x.seq.byHost = true →
      ∃ u, exec (.resume v p) s = .next u ∧ u.slots = s.slots ∧ Safety.answered u = some (.accessDenied, 0)) ∧
    (run →
      (x.state = .running → ∃ u, exec (.haltCommand v p) s = .next u ∧ (u.slot p).state = .halted ∧ (u.slot p).seq = { x.seq with stopped := true } ∧
        (u.slot p).mirror.state = (if x.mirror.rj = .idle then (if x.mirror.state = .lone then .stale else x.mirror.state) else .stale) ∧
        (u.slot p).image = x.image ∧ u.passes = s.passes ∧ Safety.answered u = some (.ok, 0) ∧ (∀ k, k ≠ p → u.slot k = s.slot k)) ∧
      (x.state = .releasing → refused (.haltCommand v p) 0x3106) ∧
      (x.state ≠ .running → x.state ≠ .releasing → refused (.haltCommand v p) 0x3107)) ∧
    (run → (v.who = .tenant → x.seq.byHost = false) →
      (x.state = .halted → x.mirror.pending = false → (∀ k, k < 16 → x.granule k = true → k ∉ s.spare.withdrawn) →
        ∃ u, exec (.resume v p) s = .next u ∧ u.slot p = { x with state := .running, seq := { x.seq with stopped := false, byHost := false }, last := 0 } ∧
          Safety.answered u = some (.ok, 0) ∧ (∀ k, k ≠ p → u.slot k = s.slot k)) ∧
      (x.state = .restored → x.image ≠ none → (s.mod.state = .hoisted ∨ s.mod.state = .halfMast) →
        ∃ u, exec (.resume v p) s = .next u ∧ (u.slot p).state = .halted ∧ (u.slot p).mirror.pending = true ∧
          (u.slot p).mirror.rbTarget = (if x.mirror.pending then min x.mirror.rbTarget x.target else x.target) ∧ Safety.answered u = some (.ok, 0)) ∧
      (s.resumeCode p ≠ 0 → refused (.resume v p) (s.resumeCode p)))

/-- Key offers are taken, refused or kept, offers go out again each second, and the written keys are installed. -/
def Obligations.PennantKeysAgree : Prop :=
  (∀ (s : State) (o : KeyOffer) (p : Nat) (priv : BitVec 384), s.slots.length = 16 → p < 16 → s.slotOfTenant (offerTenant o) = some p →
    (s.slot p).eph = some priv → (offerRing o, offerPos o) ∈ s.keyPeers p →
    let x := s.slot p
    let ok := o.chainOk && ecdsaVerify o.ensign (o.bytes.take 152) (o.bytes.drop 152) && decide (pointOf (offerEph o) ≠ none) && decide (o.bytes.length = 248) && decide (o.bytes.getD 0 0 = 0x20) && decide (offerTenant o = x.tenant)
      && decide (o.mirrored = bMirrored x.burgee) && decide (o.span = bSpan x.burgee) && decide (o.vcs = bVcs x.burgee)
    let first := decide (offerRing o < s.ring.ring) || (decide (offerRing o = s.ring.ring) && decide (offerPos o < s.ring.pos))
    let a : Agreed := ⟨offerRing o, offerPos o, sha384 (if first then o.bytes ++ x.offer else x.offer ++ o.bytes), ecdh priv (offerEph o)⟩
    let agreed := x.agreed.filter (fun b => !(decide (b.ring = a.ring) && decide (b.pos = a.pos))) ++ [a]
    let last := (s.keyPeers p).all (fun k => agreed.any (fun b => decide (b.ring = k.1) && decide (b.pos = k.2)))
    (ok = false → ∃ u, exec (.keyOffer o) s = .next u ∧ (u.slot p).agreed = x.agreed ∧ (u.slot p).eph = x.eph ∧ (u.slot p).state = x.state ∧
      u.log.recs.head?.map (fun r => (r.body.code, r.body.pennant, r.body.detail0, r.body.detail1)) = some (0x3110, p, offerPos o, offerRing o)) ∧
    (ok = true → ∃ u, exec (.keyOffer o) s = .next u ∧ (u.slot p).agreed = agreed ∧ u.log = s.log ∧
      (u.slot p).digestKey = (if offerRing o ≠ s.ring.ring ∧ x.digestKey = none then some (a.digestKey x.tenant) else x.digestKey) ∧
      (last = false → (u.slot p).state = x.state ∧ (u.slot p).eph = x.eph ∧ (u.slot p).linkKeys = x.linkKeys) ∧
      (last = true → (u.slot p).linkKeys = true ∧ (u.slot p).eph = none ∧ (u.slot p).state = (if x.state = .granting then .granted else x.state)))) ∧
  (∀ (s : State) (o : KeyOffer), s.slotOfTenant (offerTenant o) = none → exec (.keyOffer o) s = .next { s with
    offers := s.offers.filter (fun q => !(decide (offerTenant q = offerTenant o) && decide (offerRing q = offerRing o) && decide (offerPos q = offerPos o))) ++ [o] }) ∧
  (∀ (s : State) (p : Nat), p < 16 →
    ((s.slot p).eph ≠ none → ∀ j i, s.keyPeers p = [(s.ring.ring, i)] → s.route 4 (s.encFor (s.slot p).tenant 4) false s.ring.ring i (tget s.spaces (routeKey i s.ring.ring 4) 0 = 1) = some j → j < 5 →
      (s.slot p).offer.length = 248 → ∃ u, exec (.keyAgreementRetry p) s = .next u ∧
        (u.port j).sendQ.getLast?.map (fun q => (q.units, hVc q)) = some (byteUnits (s.slot p).offer, 4) ∧ u.log = s.log) ∧
    ((s.slot p).eph = none → exec (.keyAgreementRetry p) s = .next s)) ∧
  (∀ (s : State) (v : Via) (p : Nat) (b : List Byte), p < 16 → s.slots.length = 16 → v.who = .host → Safety.Serves s →
    let x := s.slot p
    let ikm := match s.keys.intake with | some k => ecdh k (b.take 97) | none => []
    let key := if ikm = [] then none else keyUnwrap (hkdfKey [] ikm (lblCkpt ++ bytesLE 3 x.tenant)) 32 (b.drop 97)
    let may := x.state = .granted ∨ x.state = .running ∨ x.state = .halted ∨ x.state = .restored
    (b.length ≠ 137 → ∃ u, exec (.checkpointKeyInstall v p b) s = .next u ∧ u.slots = s.slots ∧ Safety.answered u = some (.lengthMismatch, 0)) ∧
    (b.length = 137 → ¬ may → ∃ u, exec (.checkpointKeyInstall v p b) s = .next u ∧ u.slots = s.slots ∧ Safety.answered u = some (.valueRefused, 0)) ∧
    (b.length = 137 → may →
      (∀ k, key = some k → ∃ u, exec (.checkpointKeyInstall v p b) s = .next u ∧
        u.slot p = { x with ckptKey := some (BitVec.ofNat 256 (leNat k)) } ∧ (∀ q, q ≠ p → u.slot q = s.slot q) ∧ u.log = s.log ∧ Safety.answered u = some (.ok, 0)) ∧
      (key = none → ∃ u, exec (.checkpointKeyInstall v p b) s = .next u ∧ (u.slot p).ckptKey = none ∧
        u.log.recs.head?.map (fun r => (r.body.code, r.body.pennant)) = some (0x3112, p) ∧ Safety.answered u = some (.ok, 0)))) ∧
  (∀ (s : State) (v : Via) (b : List Byte), Safety.Serves s →
    (b.length ≠ 48 → v.who = .host → ∃ u, exec (.chassisKeyWrite v b) s = .next u ∧ u.mgmt = s.mgmt ∧ Safety.answered u = some (.lengthMismatch, 0)) ∧
    (b.length = 48 → (v.who = .host ∨ (v.who = .maint ∧ s.mgmt.chassisKey ≠ none)) → ∃ u, exec (.chassisKeyWrite v b) s = .next u ∧
      u.mgmt.chassisKey = (if b.all (fun c => decide (c = 0)) then none else some b) ∧ Safety.answered u = some (.ok, 0) ∧ u.slots = s.slots) ∧
    (v.who = .maint → s.mgmt.chassisKey = none → ∃ u, exec (.chassisKeyWrite v b) s = .next u ∧ u.mgmt.chassisKey = none ∧
      Safety.answered u = some (.accessDenied, 0)))

/-- Snapshots latch, firmware images are verified, activated and committed, nonces get their reports, the vendor session opens and ends. -/
def Obligations.MetersFirmwareAndAttestation : Prop :=
  (∀ (s : State) (v : Via) (p : Nat), p < 16 → s.slots.length = 16 → Safety.Serves s →
    let x := s.slot p
    ((v.who = .host ∨ v.who = .maint ∨ (v.who = .tenant ∧ v.slot = p ∧ bRights x.burgee / 2 ^ 3 % 2 = 1)) → ∃ u, exec (.meterSnapshot v p) s = .next u ∧
      u.slot p = { x with latched := x.meters, snap := (x.snap + 1) % 2 ^ 32, snapRef := s.mod.ref } ∧ (∀ k, k ≠ p → u.slot k = s.slot k) ∧
      Safety.answered u = some (.ok, 0)) ∧
    (v.who = .tenant → v.slot = p → bRights x.burgee / 2 ^ 3 % 2 = 0 → ∃ u, exec (.meterSnapshot v p) s = .next u ∧ u.slots = s.slots ∧
      Safety.answered u = some (.accessDenied, 0))) ∧
  (∀ (s : State) (v : Via) (f : FwImage), v.who = .host → Safety.Serves s → s.fw.slots.length = 2 → s.fw.active < 2 →
    (s.fwOk f = true → ∃ u, exec (.firmwareImageWrite v f) s = .next u ∧ u.fw.slots.getD (1 - s.fw.active) none = some f ∧ u.fw.inactive = 2 ∧
      u.fw.activate = false ∧ u.fw.slots.getD s.fw.active none = s.fw.slots.getD s.fw.active none ∧ u.fw.fusedMin = s.fw.fusedMin ∧
      Safety.answered u = some (.ok, 0) ∧ u.slots = s.slots) ∧
    (s.fwOk f = false → ∃ u, exec (.firmwareImageWrite v f) s = .next u ∧ u.fw.slots.getD (1 - s.fw.active) none = none ∧ u.fw.inactive = 3 ∧
      u.fw.slots.getD s.fw.active none = s.fw.slots.getD s.fw.active none ∧
      Safety.answered u = some (.valueRefused, if s.fwFormOk f then 0x3131 else 0x3130)) ∧
    (s.fw.inactive = 2 → ∃ u, exec (.firmwareActivate v) s = .next u ∧ u.fw = { s.fw with activate := true } ∧ Safety.answered u = some (.ok, 0)) ∧
    (s.fw.inactive ≠ 2 → ∃ u, exec (.firmwareActivate v) s = .next u ∧ u.fw = s.fw ∧ Safety.answered u = some (.valueRefused, 0)) ∧
    (∀ g, s.fw.slots.getD s.fw.active none = some g →
      (fwSec g ≤ 64 → ∃ u, exec (.firmwareCommit v) s = .next u ∧ u.fw = { s.fw with fusedMin := max s.fw.fusedMin (fwSec g) } ∧ Safety.answered u = some (.ok, 0)) ∧
      (64 < fwSec g → ∃ u, exec (.firmwareCommit v) s = .next u ∧ u.fw = s.fw ∧ Safety.answered u = some (.valueRefused, 0x3131)))) ∧
  (∀ (s : State) (v : Via) (q : Option Nat) (n : List Byte), s.slots.length = 16 → q.getD 0 < 16 → Safety.Serves s → v.who = .host →
    let held := fun (u : State) => match q with | none => u.modAttest | some p => (u.slot p).attest
    (n.length ≠ 32 → ∃ u, exec (.attestationNonce v q n) s = .next u ∧ held u = held s ∧ Safety.answered u = some (.lengthMismatch, 0)) ∧
    (n.length = 32 → ∃ u, exec (.attestationNonce v q n) s = .next u ∧ held u = { held s with nonce := some n } ∧ Safety.answered u = some (.ok, 0) ∧ u.log = s.log) ∧
    (∀ m, (held s).nonce = some m → ∃ u, exec (.reportReady q) s = .next u ∧ (held u).nonce = none ∧ (held u).done = ((held s).done + 1) % 2 ^ 32 ∧
      (held u).report.length = 368 ∧ (held u).report.take 272 = s.reportBody q m) ∧
    ((held s).nonce = none → exec (.reportReady q) s = .next s)) ∧
  (∀ (s : State) (p : Nat) (n : List Byte), p < 16 → Safety.Serves s → bRights (s.slot p).burgee / 2 ^ 2 % 2 = 0 →
    ∃ u, exec (.attestationNonce { who := .tenant, slot := p } (some p) n) s = .next u ∧ (u.slot p).attest = (s.slot p).attest ∧
      Safety.answered u = some (.valueRefused, 0x3120)) ∧
  (∀ (s : State) (v : Via) (b : List Byte), v.who = .maint → Safety.Serves s →
    (b.length = 256 → Config.vendorUnlockOk b s.mod.serial s.mod.nonce = true → ∃ u, exec (.vendorUnlock v b) s = .next u ∧ u.mgmt.vendorOpen = true ∧
      u.keys.session.isSome = true ∧ Safety.answered u = some (.ok, 0) ∧ u.slots = s.slots) ∧
    (b.length = 256 → Config.vendorUnlockOk b s.mod.serial s.mod.nonce = false → ∃ u, exec (.vendorUnlock v b) s = .next u ∧
      u.mgmt.vendorOpen = s.mgmt.vendorOpen ∧ u.keys = s.keys ∧ Safety.answered u = some (.valueRefused, 0x3113)) ∧
    (∃ u, exec (.vendorSessionEnd v) s = .next u ∧ u.mgmt.vendorOpen = false ∧ u.keys.session = none ∧ Safety.answered u = some (.ok, 0) ∧ u.slots = s.slots))

/-- READ, DESCRIBE, NEXT and WRITE answer what the signal book gives, and a setting written reads back. -/
def Obligations.RequestsOfTheSignalBook : Prop :=
  ∀ (s : State) (v : Via) (r : Request), Safety.Serves s →
    let acc := s.accFor v r.index r.sub
    let kept := fun (u : State) => ∃ o m, u = { s with out := o, mgmt := m }
    let gives := fun (u : State) (x : Response) => u.out.response = some { x with index := r.index, sub := r.sub }
    let absent : Response := { status := if v.who = .peer then .accessDenied else .objectAbsent }
    (∀ f e, famOf r.index = some f → f.sub r.sub = some e → acc ≠ .none → e.ty ≠ tBlob →
      (acc = .wo → ∃ u, exec (.read v r) s = .next u ∧ gives u { status := .ok, data := List.replicate e.maxLen 0#8 } ∧ kept u) ∧
      (acc ≠ .wo → s.mayRead v r.index r.sub = false → ∃ u, exec (.read v r) s = .next u ∧ gives u { status := .accessDenied } ∧ kept u) ∧
      (acc ≠ .wo → s.mayRead v r.index r.sub = true → s.preparing r.index r.sub = true →
        ∃ u, exec (.read v r) s = .next u ∧ gives u { status := .busy } ∧ kept u) ∧
      (acc ≠ .wo → s.mayRead v r.index r.sub = true → s.preparing r.index r.sub = false →
        ∃ u, exec (.read v r) s = .next u ∧ gives u { status := .ok, data := s.value r.index r.sub f e } ∧ kept u)) ∧
    (∀ f e, famOf r.index = some f → f.sub r.sub = some e → acc ≠ .none →
      ∃ u, exec (.describe v r) s = .next u ∧ gives u { status := .ok, data := bytesLE 32 (descriptor r.index r.sub f e).toNat } ∧ kept u) ∧
    (acc = .none →
      (∃ u, exec (.read v r) s = .next u ∧ gives u absent ∧ kept u) ∧ (∃ u, exec (.describe v r) s = .next u ∧ gives u absent ∧ kept u) ∧
      (∃ u, exec (.write v r) s = .next u ∧ gives u absent ∧ kept u)) ∧
    (∀ k, s.nextKey v r.index r.sub = some k → ∃ u, exec (.next v r) s = .next u ∧
      u.out.response = some { status := .ok, index := k.1, sub := k.2 } ∧ kept u) ∧
    (s.nextKey v r.index r.sub = none → ∃ u, exec (.next v r) s = .next u ∧ gives u { status := .objectAbsent } ∧ kept u) ∧
    (∀ f e, famOf r.index = some f → f.sub r.sub = some e → e.ty ≠ tBlob → r.data.length ≤ dataLimit v.tr →
      ((acc = .ro ∨ acc = .rc) → ∃ u, exec (.write v r) s = .next u ∧ gives u { status := .ok } ∧ kept u) ∧
      (acc ≠ .none → acc ≠ .ro → acc ≠ .rc → r.data.length ≠ e.maxLen → ∃ u, exec (.write v r) s = .next u ∧ gives u { status := .lengthMismatch } ∧ kept u) ∧
      (v.who = .host → [0x2000, 0x4000, 0x5020, 0x7080, 0x8010, 0x9000].any (fun i => decide (r.index = i)) = true → codeDigit e.codes 0 = 2 →
        r.data.length = e.maxLen → (e.ty = tBool → leNat r.data ≤ 1) → s.link.credits.length = 8 → s.link.weights.length = 8 →
        (s.inRange r.index r.sub (leNat r.data) = true → ∃ u, exec (.write v r) s = .next u ∧ gives u { status := .ok } ∧
          u.num r.index r.sub = leNat r.data ∧ (∀ j, (f.sub j).isSome = true → 1 ≤ j → j ≠ r.sub → u.num r.index j = s.num r.index j) ∧
          u.slots = s.slots ∧ u.log = s.log ∧ u.mod = s.mod ∧ u.ports = s.ports ∧ u.keys = s.keys) ∧
        (s.inRange r.index r.sub (leNat r.data) = false → ∃ u, exec (.write v r) s = .next u ∧ gives u { status := .valueRefused } ∧ kept u)))

/-- BLOB values are read and written in segments, one transfer at a time, and an idle transfer is dropped. -/
def Obligations.SegmentsOfBlobs : Prop :=
  (∀ (s : State) (v : Via) (r : Request) (f : Family) (e : SubEnt), Safety.Serves s → famOf r.index = some f → f.sub r.sub = some e → e.ty = tBlob →
    s.accFor v r.index r.sub = .ro → ∃ u, exec (.readSegment v r) s = .next u ∧
      u.out.response = some { status := .ok, data := ((s.value r.index r.sub f e).drop r.offset).take (min (leNat (r.data.take 2)) (dataLimit v.tr)), index := r.index, sub := r.sub } ∧
      u.slots = s.slots ∧ u.blobs = s.blobs ∧ u.fw = s.fw ∧ u.log = s.log) ∧
  (∀ (s : State) (v : Via) (r : Request), v.who = .host → Safety.Serves s → r.index = 0x3800 → r.sub = 4 → r.data.length ≤ dataLimit v.tr →
    s.blobs.length ≤ 1 → (∀ b ∈ s.blobs, b.index = 0x3800 ∧ b.sub = 4 ∧ b.bytes.length + r.data.length ≤ blobMax) →
    let stat := fun (u : State) => u.out.response.map (fun x => x.status)
    let all := fun (l : List Byte) => s.fw.buf ++ l ++ r.data
    let whole := fun (l : List Byte) => decide (64 ≤ l.length) && decide (264 + fld (BitVec.ofNat 512 (leNat (l.take 64))) 127 96 ≤ l.length)
    let fin := fun (old : List Byte) =>
      (whole (all old) = false → ∃ u, exec (.writeFinal v r) s = .next u ∧ stat u = some .ok ∧ u.blobs = [] ∧ u.fw.buf = all old ∧ u.fw.slots = s.fw.slots) ∧
      (whole (all old) = true → s.fw.slots.length = 2 → s.fw.active < 2 → ∃ u, exec (.writeFinal v r) s = .next u ∧ u.blobs = [] ∧ u.fw.buf = [] ∧
        (s.fwOk (fwOf (all old)) = true → stat u = some .ok ∧ u.fw.inactive = 2 ∧ u.fw.slots.getD (1 - s.fw.active) none = some (fwOf (all old))) ∧
        (s.fwOk (fwOf (all old)) = false → stat u = some .valueRefused ∧ u.fw.inactive = 3 ∧ u.fw.slots.getD (1 - s.fw.active) none = none))
    (s.blobs = [] → r.offset = 0 →
      (∃ u, exec (.writeSegment v r) s = .next u ∧ stat u = some .ok ∧ u.blobs = [⟨0x3800, 4, v, r.data.length, r.data⟩] ∧ u.fw = { s.fw with inactive := 1 } ∧
        u.slots = s.slots) ∧ fin []) ∧
    (s.blobs = [] → r.offset ≠ 0 → ∃ u, exec (.writeSegment v r) s = .next u ∧ stat u = some .segment ∧ u.blobs = [] ∧ u.fw = s.fw) ∧
    (∀ b, s.blobs = [b] → b.via = v → r.offset ≠ 0 →
      (r.offset = b.bytes.length →
        (∃ u, exec (.writeSegment v r) s = .next u ∧ stat u = some .ok ∧ u.fw = { s.fw with inactive := 1 } ∧
          u.blobs = [⟨0x3800, 4, v, (b.bytes ++ r.data).length, b.bytes ++ r.data⟩]) ∧ fin b.bytes) ∧
      (r.offset ≠ b.bytes.length → ∃ u, exec (.writeSegment v r) s = .next u ∧ stat u = some .segment ∧ u.blobs = s.blobs ∧ u.fw = s.fw)) ∧
    (∀ b, s.blobs = [b] → b.via ≠ v → ∃ u, exec (.writeSegment v r) s = .next u ∧ stat u = some (if r.offset = 0 then .busy else .segment) ∧
      u.blobs = s.blobs ∧ u.fw = s.fw)) ∧
  (∀ (s : State) (ix sub : Nat), (∀ b ∈ s.blobs, b.index = ix → b.sub ≠ sub) → exec (.blobTransferTimeout ix sub) s = .next s) ∧
  (∀ (s : State) (ix sub : Nat), (∃ b ∈ s.blobs, b.index = ix ∧ b.sub = sub) → ∃ u, exec (.blobTransferTimeout ix sub) s = .next u ∧
    u.blobs = s.blobs.filter (fun b => !(decide (b.index = ix) && decide (b.sub = sub))) ∧ u.fw.buf = [] ∧ u.fw.slots = s.fw.slots ∧ u.slots = s.slots ∧ u.log = s.log)

/-- Mailboxes serve their request under GO, and queue pairs take commands in order and post what waits. -/
def Obligations.MailboxesAndQueuePairs : Prop :=
  (∀ (s : State) (t : Transport) (i : Nat), boxOf t = some i → s.boxes.length = 17 → s.barOpen t = true →
    let b := s.box i
    let others := fun (u : State) => ∀ j, j ≠ i → u.box j = s.box j
    (∀ v, v ≠ [] → ∀ off, let h := if t = .pf then 0x1000 else 0x100
      h ≤ off → off + v.length ≤ h + 32 → b.reqHdr.length = 32 →
      ∃ u, exec (.registerWrite t 0 off v) s = .next u ∧ ((u.box i).reqHdr.drop (off - h)).take v.length = v ∧
        (u.box i).reqHdr.take (off - h) = b.reqHdr.take (off - h) ∧ (u.box i).reqHdr.drop (off - h + v.length) = b.reqHdr.drop (off - h + v.length) ∧
        (u.box i).reqData = b.reqData ∧ (u.box i).done = b.done ∧ others u ∧ u.slots = s.slots ∧ u.qps = s.qps) ∧
    (∀ d, (b.busy = true ∨ b.done = true) → ∃ u, exec (.go t d) s = .next u ∧ u.box i = { b with ignored := min 0xFF (b.ignored + 1) } ∧ others u ∧
      u.out = s.out ∧ u.slots = s.slots) ∧
    (∀ d, b.busy = false → b.done = false →
      let r := b.request t d
      let via : Via := match t with | .vf p => ⟨t, .tenant, p⟩ | _ => ⟨t, .host, 0⟩
      let want := match t with | .vf _ => 1 | _ => 0
      let w := if b.version / 256 ≠ 4 then (s.answer .version).echo r
        else if r.principal ≠ want then (s.answer .accessDenied).echo r
        else if dataLimit t < hdrLength b.reqHdr then (s.answer .lengthMismatch).echo r else s.request via r
      let x := w.out.response.getD { status := .ok }
      w.mod.state ≠ .dipping → w.boxes.length = 17 → ∃ u, exec (.go t d) s = .next u ∧
        u.box i = { w.box i with done := true, respHdr := respHeader r x r.bootNonce r.seq, respData := x.data } ∧
        u.out.irq = w.out.irq ++ (if b.irqEn then [(i, 0)] else []) ∧ u.slots = w.slots ∧ u.log = w.log) ∧
    (∀ d, b.busy = false → b.done = false → s.mod.state = .dipping → ∃ u, exec (.go t d) s = .next u ∧ (u.box i).done = true ∧
      (∃ x : Response, x.status = .busy ∧ (u.box i).respHdr = respHeader (b.request t d) x (b.request t d).bootNonce (b.request t d).seq ∧
        (u.box i).respData = []) ∧ others u ∧ u.slots = s.slots ∧ u.log = s.log ∧ u.mod = s.mod) ∧
    (b.done = true → ∃ u, exec (.doneClear t) s = .next u ∧ u.box i = { b with done := false, ignored := 0 } ∧ others u ∧ u.slots = s.slots)) ∧
  (∀ (s : State) (p bar off : Nat) (v : List Byte), p < 16 → (s.slot p).state = .free → exec (.registerWrite (.vf p) bar off v) s = .next s) ∧
  (∀ (s : State) (i : Nat), i < 17 → s.barOpen .pf = true → s.mod.state ≠ .dipping → s.mod.limited = false → s.qps.length = 33 → (s.qp i).enable = false →
    ∃ u, exec (.registerWrite .pf 2 (0x800 * i) (bytesLE 64 (0x5000 * 2 ^ 448 + 0x6000 * 2 ^ 384 + 1 * 2 ^ 380 + 2 * 2 ^ 376 + 2 ^ 375))) s = .next u ∧
      (u.qp i).enable = true ∧ (u.qp i).sqBase = 0x5000 ∧ (u.qp i).cqBase = 0x6000 ∧ (u.qp i).sqLog = 1 ∧ (u.qp i).cqLog = 2 ∧ (u.qp i).phase = true ∧
      (u.qp i).cqTail = 0 ∧ (u.qp i).cmds = [] ∧ (∀ j, j ≠ i → u.qp j = s.qp j)) ∧
  (∀ (s : State) (qp : QPair), let i := pairOf qp
    s.qps.length = 33 → s.pairOpen i = true → (s.qp i).enable = true →
    let q := s.qp i
    (∀ v ents, let size := 2 ^ (q.sqLog + 4)
      let cs := q.cmds ++ ents.take ((v % size + size - q.sqTail) % size)
      ((q.comp.isSome = true ∨ cs = [] ∨ (∃ e r, cs = e :: r ∧ s.cmdCode i e = 0)) → ∃ u, exec (.sqTail qp v ents) s = .next u ∧
        u.qp i = { q with sqTail := v % size, cmds := cs } ∧ (∀ j, j ≠ i → u.qp j = s.qp j) ∧ u.slots = s.slots ∧ u.out = s.out) ∧
      (∀ e, cs = [e] → q.comp = none → q.held = [] → s.cmdCode i e ≠ 0 → (q.cqTail + 1) % q.cqSize ≠ q.cqHead % q.cqSize →
        (q.cqTail + 2) % q.cqSize ≠ q.cqHead % q.cqSize →
        ∃ u, exec (.sqTail qp v ents) s = .next u ∧ (u.qp i).cmds = [] ∧ (u.qp i).sqHead = (q.sqHead + 1) % size ∧
          (u.qp i).ring.getLast?.map (fun c => (c.code, c.id, c.kind)) = some (s.cmdCode i e, fld e 503 488, 1) ∧
          u.log.recs.head?.map (fun r => (r.body.code, r.body.handling)) = some (s.cmdCode i e, .refused) ∧ u.slots = s.slots)) ∧
    (∀ v, let n := (v % q.cqSize + q.cqSize - q.cqHead) % q.cqSize
      (q.held = [] → q.comp = none → (q.cmds = [] ∨ (∃ e r, q.cmds = e :: r ∧ s.cmdCode i e = 0)) → ∃ u, exec (.cqHead qp v) s = .next u ∧
        u.qp i = { q with cqHead := v % q.cqSize, ring := q.ring.drop n } ∧ (∀ j, j ≠ i → u.qp j = s.qp j) ∧ u.slots = s.slots ∧ u.out = s.out) ∧
      (∀ c, q.held = [] → q.comp = some c → (q.cqTail + 1) % q.cqSize ≠ v % q.cqSize → q.cmds = [] → ∃ u, exec (.cqHead qp v) s = .next u ∧
        (u.qp i).comp = none ∧ (u.qp i).ring = q.ring.drop n ++ [{ c with phase := q.phase }] ∧
        u.out.written = s.out.written ++ [(q.cqBase + 32 * q.cqTail, ({ c with phase := q.phase } : Completion).bytes)] ∧ u.out.irq = s.out.irq ++ [pairVector i] ∧ u.slots = s.slots)) ∧
    (∃ u, exec (.queuePairDisable qp) s = .next u ∧
      u.qp i = { q with enable := false, cmds := q.cmds.take (if s.cmdRuns i then 1 else 0), held := [], comp := none } ∧
      (∀ j, j ≠ i → u.qp j = s.qp j) ∧ u.slots = s.slots ∧ u.out = s.out))

/-- Management frames and requests of peers are authenticated, served and answered, or discarded and counted. -/
def Obligations.ManagementFramesAndRemoteAccess : Prop :=
  (∀ (s : State) (f : List Byte) (d : DipObs), s.mod.state ≠ .dark → s.mgmt.silent = false →
    let h := (f.drop 8).take 32
    let r := parseReq h ((f.drop 40).take (hdrLength h)) d
    let dropped := exec (.managementFrame f d) s = .next { s with mgmt := { s.mgmt with ctrs := addAt s.mgmt.ctrs 0 1 } }
    (frameOk f = false → dropped) ∧
    (frameOk f = true → r.principal = 7 →
      (((r.op ≠ .read ∧ r.op ≠ .next) ∨ r.bootNonce ≠ 0 ∨ r.seq ≠ 0 ∨ s.mod.limited = true ∨
          (s.mod.state ≠ .dipping ∧ r.op = .read ∧ s.accFor ⟨.mgmt, .anonymous, 0⟩ r.index r.sub = .none)) → dropped) ∧
      ((r.op = .read ∨ r.op = .next) → r.bootNonce = 0 → r.seq = 0 → s.mod.limited = false → s.mod.state ≠ .dipping →
        (r.op = .read → s.accFor ⟨.mgmt, .anonymous, 0⟩ r.index r.sub ≠ .none) →
        let x := (s.request ⟨.mgmt, .anonymous, 0⟩ r).out.response.getD { status := .ok }
        ∃ u, exec (.managementFrame f d) s = .next u ∧
          u.out.frames = s.out.frames ++ [mgmtPayload (respHeader r x 0 0) x.data none] ∧ u.slots = s.slots ∧ u.log = s.log)) ∧
    (frameOk f = true → r.principal ≠ 7 → s.mgmt.chassisKey = none → dropped) ∧
    (∀ ck, frameOk f = true → r.principal ≠ 7 → s.mgmt.chassisKey = some ck →
      let key := mgmtKey ck r.principal
      let last := tget s.mgmt.lastSeq r.principal 0
      (hmac384 key (f.take (f.length - 48)) ≠ f.drop (f.length - 48) → dropped) ∧
      (hmac384 key (f.take (f.length - 48)) = f.drop (f.length - 48) → s.mod.state ≠ .dipping →
        (tget? s.mgmt.lastFrame r.principal = some f → exec (.managementFrame f d) s =
          .next { s with out := { s.out with frames := s.out.frames ++ [tget s.mgmt.lastResp r.principal []] } }) ∧
        (tget? s.mgmt.lastFrame r.principal ≠ some f → (r.bootNonce ≠ s.mod.nonce ∨ (tget? s.mgmt.lastSeq r.principal ≠ none ∧ r.seq ≤ last)) →
          ∃ u, exec (.managementFrame f d) s = .next u ∧ u.mgmt = s.mgmt ∧
            u.out.frames = s.out.frames ++ [mgmtPayload (respHeader r { status := .nonce, index := r.index, sub := r.sub } s.mod.nonce last) [] (some key)] ∧
            u.slots = s.slots) ∧
        (∀ who, tget? s.mgmt.lastFrame r.principal ≠ some f → r.bootNonce = s.mod.nonce → (tget? s.mgmt.lastSeq r.principal = none ∨ last < r.seq) →
          s.mgmtWho r.principal = some who → r.data.length ≤ 1024 →
          let w := State.request { s with mgmt := { s.mgmt with lastSeq := tput s.mgmt.lastSeq r.principal r.seq } } ⟨.mgmt, who, 0⟩ r
          let x := w.out.response.getD { status := .ok }
          w.mod.state ≠ .dipping → ∃ u, exec (.managementFrame f d) s = .next u ∧
            u.out.frames = w.out.frames ++ [mgmtPayload (respHeader r x r.bootNonce r.seq) x.data (some key)] ∧
            tget? u.mgmt.lastSeq r.principal = tget? w.mgmt.lastSeq r.principal ∧ tget? u.mgmt.lastFrame r.principal = some f ∧
            tget? u.mgmt.lastResp r.principal = some (mgmtPayload (respHeader r x r.bootNonce r.seq) x.data (some key)) ∧ u.slots = w.slots ∧ u.log = w.log) ∧
        (tget? s.mgmt.lastFrame r.principal ≠ some f → r.bootNonce = s.mod.nonce → (tget? s.mgmt.lastSeq r.principal = none ∨ last < r.seq) →
          s.mgmtWho r.principal = none → ∃ u, exec (.managementFrame f d) s = .next u ∧ tget? u.mgmt.lastSeq r.principal = some r.seq ∧
            u.out.frames = s.out.frames ++ [mgmtPayload (respHeader r { status := .accessDenied, index := r.index, sub := r.sub } r.bootNonce r.seq) [] (some key)] ∧
            u.slots = s.slots ∧ u.log = s.log)))) ∧
  (∀ (s : State) (k : Nat) (pk pl : Packet), Safety.Arrives s k pk 9 pl → hVc pl = 4 →
    let b := remoteBytes pl
    let r := parseReq (b.take 32) (b.drop 32) {}
    let w := fld (pl.units.headD 0) 23 16
    (remoteIs pl 1 = false → ∃ u, exec (.remoteRequest k pk) s = .next u ∧ u.mgmt = { s.mgmt with ctrs := addAt s.mgmt.ctrs 1 1 } ∧ u.slots = s.slots ∧ u.log = s.log) ∧
    (∀ j, remoteIs pl 1 = true → s.route 4 (s.encFor (hTenantOf pl) 4) false (fld pl.hdr 226 226) (fld pl.hdr 232 227) (bit pl.hdr 241) = some j → j < 5 →
      let sent := fun (u : State) (x : Response) => (u.port j).sendQ.getLast?.map (fun q => (q.units, hVc q)) =
        some (bookUnit 2 :: byteUnits (respHeader r x (if x.status = .nonce then s.mod.nonce else r.bootNonce) r.seq ++ x.data), 4)
      (w ≠ 4 → ∃ u, exec (.remoteRequest k pk) s = .next u ∧ sent u { status := .version, index := r.index, sub := r.sub } ∧ u.log = s.log) ∧
      (w = 4 → r.principal ≠ 4 → ∃ u, exec (.remoteRequest k pk) s = .next u ∧ sent u { status := .accessDenied, index := r.index, sub := r.sub } ∧ u.log = s.log) ∧
      (w = 4 → r.principal = 4 → r.bootNonce ≠ s.mod.nonce → ∃ u, exec (.remoteRequest k pk) s = .next u ∧
        sent u { status := .nonce, index := r.index, sub := r.sub } ∧ u.log = s.log) ∧
      (∀ f e, w = 4 → r.principal = 4 → r.bootNonce = s.mod.nonce → r.data.length ≤ 1024 → s.mod.limited = false → r.op = .read → famOf r.index = some f → f.sub r.sub = some e →
        e.remote = true → e.ty ≠ tBlob → s.present r.index = true → s.preparing r.index r.sub = false → (s.value r.index r.sub f e).length ≤ 1024 →
        ∃ u, exec (.remoteRequest k pk) s = .next u ∧ sent u { status := .ok, data := s.value r.index r.sub f e, index := r.index, sub := r.sub } ∧ u.log = s.log))) ∧
  (∀ (s : State) (k : Nat) (pk pl : Packet), Safety.Arrives s k pk 9 pl → hVc pl = 4 → remoteIs pl 2 = true →
    let b := remoteBytes pl
    let w : BitVec 256 := BitVec.ofNat 256 (leNat (b.take 32))
    let key := peerKey (fld pl.hdr 226 226) (fld pl.hdr 232 227)
    fld w 223 208 = 0x3810 → fld w 207 200 = 1 → fld w 255 248 = 3 → bit w 240 = true →
    (fld w 239 224 = 7 → ∃ u, exec (.remoteResponse k pk) s = .next u ∧ tget? u.peerNonce key = some (BitVec.ofNat 64 (fld w 127 64)) ∧ u.peerChain = s.peerChain ∧ u.log = s.log) ∧
    (fld w 239 224 = 0 → fld w 183 160 = (tget s.peerChain key []).length → ∃ u, exec (.remoteResponse k pk) s = .next u ∧
      tget? u.peerChain key = some (tget s.peerChain key [] ++ (b.drop 32).take (fld w 159 144)) ∧ u.peerNonce = s.peerNonce ∧ u.log = s.log))

/-- LOAD_IMAGE starts a run or is refused with its code; CHECKPOINT_META writes the shard entries; CHECKPOINT_EXPORT is accepted or refused. -/
def Obligations.ImagesLoadAndCheckpoints : Prop :=
  ∀ (s : State) (qp : QPair) (e : BitVec 512), let i := pairOf qp
    let q := s.qp i
    let p := pairSlot i
    s.slots.length = 16 → s.qps.length = 33 → p < 16 → s.pairOpen i = true → q.enable = true → q.comp = none → q.held = [] → q.cmds = [e] →
    s.cmdCode i e = 0 → s.cmdRuns i = false → q.cqTail = q.cqHead → q.cqHead < q.cqSize → q.ring = [] →
    let x := s.slot p
    let ends := fun (u : State) (code result : Nat) => (u.qp i).cmds = [] ∧ (u.qp i).sqHead = (q.sqHead + 1) % 2 ^ (q.sqLog + 4) ∧
      (u.qp i).ring.getLast?.map (fun c => (c.code, c.id, c.kind, c.result)) = some (code, fld e 503 488, 1, result)
    let refused := fun (j : Instr) (code : Nat) => ∃ u, exec j s = .next u ∧ ends u code 0 ∧ u.slots = s.slots ∧ u.queues = s.queues ∧ u.tiles = s.tiles ∧
      u.log.recs.head?.map (fun r => (r.body.code, r.body.handling, r.body.pennant)) = some (code, .refused, p)
    (∀ im, ceOp e = 1 → s.loadCode p e im ≠ 0 → refused (.loadImage qp e im) (s.loadCode p e im)) ∧
    (∀ im, ceOp e = 1 → s.loadCode p e (some im) = 0 → x.state = .granted →
      (ceArg e = newRun → ∃ u, exec (.loadImage qp e (some im)) s = .next u ∧ (u.slot p).state = .running ∧ (u.slot p).image = some im ∧
        (u.slot p).measure = sha384 im.bytes ∧ (u.slot p).burgee = x.burgee) ∧
      (ceArg e = newRun → imDescs im = [] → im.wsets = [] → x.chips = [] → ∃ u, exec (.loadImage qp e (some im)) s = .next u ∧ ends u 0 0 ∧ (u.slot p).state = .running ∧
        (u.slot p).image = some im ∧ (u.slot p).measure = sha384 im.bytes ∧ (u.slot p).seq.step = 0 ∧ (u.slot p).seq.start = 0 ∧
        (u.slot p).seq.stopped = false ∧ (u.slot p).seq.byHost = false ∧ (u.slot p).seq.issued = false ∧ (u.slot p).seq.mbPerStep = sdMb im.stash ∧
        (u.slot p).seed = { image := im.seed, inForce := im.seed, staged := im.seed } ∧ (u.slot p).buckets = im.buckets.map (bucketAtLoad 0) ∧
        (u.slot p).burgee = x.burgee ∧ (u.slot p).stackKey = x.stackKey ∧ (∀ n r, tget? (imQueues im p) n = some r → u.queue? n = some r) ∧
        (∀ k, k ≠ p → u.slot k = s.slot k)) ∧
      (ceArg e ≠ newRun → imDescs im ≠ [] → s.storeUp p = false → refused (.loadImage qp e (some im)) 0x8331) ∧
      (ceArg e ≠ newRun → imDescs im ≠ [] → s.storeUp p = true → ∃ u m, exec (.loadImage qp e (some im)) s = .next u ∧ (u.slot p).imp = some m ∧ m.image = im ∧
        m.step = ceArg e ∧ m.qp = i ∧ m.done = [] ∧ (u.slot p).state = .granted ∧ u.qp i = q)) ∧
    (ceOp e = 2 →
      let ents := x.shards.map (fun h => s.metaEntry p h.1 h.2)
      let on := x.state = .running ∨ x.state = .halted ∨ x.state = .restored
      (¬ on → refused (.checkpointMeta qp e) 0x3107) ∧
      (on → ceLen e < 32 * ents.length → refused (.checkpointMeta qp e) 0x6101) ∧
      (on → 32 * ents.length ≤ ceLen e → ∃ u, exec (.checkpointMeta qp e) s = .next u ∧ ends u 0 (32 * ents.length) ∧
        (∀ l ∈ ents, l.length = 32) ∧ u.out.written.take (s.out.written.length + 1) = s.out.written ++ [(ceAddr e, ents.flatten)] ∧ u.slots = s.slots ∧ u.log = s.log)) ∧
    (ceOp e = 3 →
      let on := x.state = .running ∨ x.state = .halted
      (¬ on → refused (.checkpointExport qp e) 0x3107) ∧
      (on → (s.storeUp p = false ∨ x.exp ≠ none ∨ x.exportStep (ceArg e) = false) → refused (.checkpointExport qp e) 0x8332) ∧
      (∀ im, on → s.storeUp p = true → x.exp = none → x.exportStep (ceArg e) = true → x.image = some im →
        (imSets im = [] → ∃ u, exec (.checkpointExport qp e) s = .next u ∧ ends u 0 0 ∧ (u.slot p).exp = none) ∧
        ((∀ w ∈ imSets im, x.setReady (wsTensor w) (ceArg e) = false ∧ ∃ h ∈ x.shards, dTensor h.2.desc = wsTensor w) → imSets im ≠ [] →
          ∃ u, exec (.checkpointExport qp e) s = .next u ∧ (u.slot p).exp = some ⟨i, fld e 503 488, ceArg e, 0, []⟩ ∧
            (∀ h ∈ (u.slot p).shards, h.2.exported = some (ceArg e)) ∧ u.qp i = q ∧ u.ports = s.ports)))

/-- A dip writes the newest dip area and leaves only what flash, fuses, identity memories and cartridges hold; endpoint resets touch the endpoint only. -/
def Obligations.DipsSaveAndLose : Prop :=
  (∀ (s : State) (d : DipObs), s.slots.length = 16 → s.mod.state ≠ .dark → s.mod.state ≠ .dipping →
    let used := fun (p : Nat) => p < 16 ∧ (s.slot p).state ≠ .free ∧ (s.slot p).state ≠ .granting
    let lost := fun (u : State) => u.mod.state = .dipping ∧ u.mod.serial = s.mod.serial ∧ u.tiles = [] ∧ u.caches = [] ∧ u.passes = [] ∧
      u.queues = [] ∧ u.ports = [] ∧ u.doms = [] ∧ u.oscs = [] ∧ u.chips = [] ∧ u.keys = {} ∧ u.test = {} ∧ u.power.railsUp = false ∧
      u.fw.slots = s.fw.slots ∧ u.fw.active = s.fw.active ∧ u.spare.retired = s.spare.retired ∧ u.spare.spares = s.spare.spares ∧
      (∀ n, (tget u.dram n {}).mem = [] ∧ (tget u.dram n {}).keys = []) ∧ (∀ k, (tget u.carts k {}).mem = (tget s.carts k {}).mem) ∧
      (∀ p, p < 16 → (u.slot p).state = .free ∧ (u.slot p).release = (s.slot p).release ∧ (u.slot p).persist = (s.slot p).persist ∧
        (u.slot p).grantNo = (s.slot p).grantNo ∧ (u.slot p).stackKey = none ∧ (u.slot p).meters = {})
    let saved := fun (u : State) (c : DipCause) => u.dip.dips = (s.dip.dips + 1) % 2 ^ 32 ∧ u.dip.cause = c ∧
      ∃ a, u.dipAreas.head? = some a ∧ a.cause = c ∧ a.ref = s.mod.ref ∧ a.epoch = s.ring.epoch ∧ a.vbank = d.bankStart ∧ a.partialRec = s.partialDip ∧
        (s.partialDip = true → a.slots = [] ∧ a.shards = []) ∧
        (s.partialDip = false → a.marks = d.committed ∧ a.releases = s.slots.map Slot.release ∧
          (∀ p, used p → ∃ v ∈ a.slots, v.p = p ∧ v.state = (s.slot p).state ∧ v.burgee = (s.slot p).burgee ∧ v.meters = (s.slot p).meters ∧
            v.step = (s.slot p).seq.step ∧ v.versions = (s.slot p).seq.versions ∧ v.scheds = (s.slot p).scheds ∧ v.seed = (s.slot p).seed ∧
            v.measure = (s.slot p).measure ∧ v.persist = (s.slot p).persist) ∧
          (∀ p n c i h, used p → (n, c) ∈ (s.slot p).chips → c.shards[i]? = some h →
            ⟨p, n, i, h.count, h.updating || h.torn, h.saturated⟩ ∈ a.shards))
    let tells := fun (u : State) (code : Nat) => s.mod.state ≠ .struck → (∀ p < 16, ∀ h ∈ (s.slot p).shards, h.2.updating = false) →
      u.dipAreas.head?.bind (fun a => a.log.recs.head?) = some ⟨s.log.next, s.mod.ref, { code := code }⟩
    let fromBank := fun (u : State) => u.dip.energy = d.energy ∧ u.bank.drained = true
    let fromVin := fun (u : State) => u.dip.energy = 0 ∧ u.bank.drained = s.bank.drained
    (∃ u, exec (.brownout d) s = .next u ∧ lost u ∧ saved u .brownout ∧ fromBank u ∧ tells u 0x2050) ∧
    (∃ u, exec (.overvoltage d) s = .next u ∧ lost u ∧ saved u .overvoltage ∧ fromBank u ∧ tells u 0x2057) ∧
    (s.power.switchOn = true → ∃ u, exec (.prsntNDeasserted d) s = .next u ∧ lost u ∧ saved u .brownout ∧ fromBank u ∧ tells u 0x2050 ∧
      u.pins.prsnt = true ∧ u.power.switchOn = false) ∧
    (s.mod.boundaryScan = false → ∀ us,
      (10 ≤ us → ∃ u, exec (.mrstN us d) s = .next u ∧ lost u ∧ saved u .reset ∧ fromVin u) ∧
      (us = 0 → exec (.mrstN us d) s = .next { s with free := s.free + 1 }) ∧
      (exec (.mrstN us d) s = .next { s with free := s.free + 1 } ∨ ∃ u, exec (.mrstN us d) s = .next u ∧ lost u ∧ saved u .reset ∧ fromVin u)) ∧
    (s.mod.boundaryScan = false → s.mod.limited = false → ∀ via : Via, via.who = .maint →
      ∃ u, exec (.moduleReset via d) s = .next u ∧ lost u ∧ saved u .reset ∧ fromVin u ∧ Safety.answered u = some (.ok, 0))) ∧
  (∀ (s : State) (d : DipObs),
    (s.mod.state = .dipping → exec (.brownout d) s = .next s ∧ exec (.overvoltage d) s = .next s) ∧
    (s.mod.state = .dark → ∃ u, exec (.brownout d) s = .next u ∧ exec (.overvoltage d) s = .next u ∧ u.mod.state = .dark ∧ u.power.railsUp = false ∧
      u.mod.boundaryScan = false ∧ u.doms = [] ∧ u.dipAreas = s.dipAreas ∧ u.dip = s.dip)) ∧
  (∀ s : State, s.qps.length = 33 → s.boxes.length = 17 →
    let reset := fun (q : QPState) => { q with enable := false, held := [], comp := none, cmds := [], ring := [] }
    let all := { s with qps := s.qps.map reset, boxes := List.replicate 17 {} }
    exec (.perst) s = .next (if s.power.railsUp = true then { all with pins := { s.pins with refclk := Config.refclk s.free }, free := s.free + 1 } else all) ∧
    exec (.functionLevelReset 0) s = .next all ∧
    (∀ p, p < 16 → ∃ u, exec (.functionLevelReset (p + 1)) s = .next u ∧ u.qp (17 + p) = reset (s.qp (17 + p)) ∧ (∀ i, i ≠ 17 + p → u.qp i = s.qp i) ∧
      u.boxes = s.boxes.set (p + 1) {} ∧ u.slots = s.slots ∧ u.log = s.log ∧ u.mod = s.mod ∧ u.out = s.out) ∧
    (∀ n, 16 < n → exec (.functionLevelReset n) s = .next s))

/-- The module powers on, boots a verified image, proves itself and reaches Joining; a saved pennant is restored or dropped. -/
def Obligations.PowerOnAndProving : Prop :=
  (∀ s : State, exec (.prsntNAsserted) s = .next { s with pins := { s.pins with prsnt := false }, power := { s.power with switchOn := true } }) ∧
  (∀ s : State, s.mod.state ≠ .dipping →
    let valid := fun (k : Nat) (f : FwImage) => s.fw.slots.getD k none = some f ∧ s.fwOk f = true
    let bad := fun (k : Nat) => ∀ f, s.fw.slots.getD k none = some f → s.fwOk f = false
    let k := if s.fw.activate then 1 - s.fw.active else s.fw.active
    (s.canTurnOn = false → exec (.turnOn) s = .next s) ∧
    (s.canTurnOn = true → s.fw.active < 2 →
      (∀ f, valid k f → ∃ u, exec (.turnOn) s = .next u ∧ u.mod.state = .dark ∧ u.power.railsUp = true ∧ u.domOn 0 = false ∧
        (∀ d, 64 ≤ d → d < 80 → u.domOn d = true) ∧ u.fw.active = k ∧ u.fw.activate = false ∧ u.fw.measure = sha384 (fwSigned f) ∧ u.pins = { s.pins with refclk := Config.refclk s.free } ∧ u.sris = !Config.refclk s.free ∧
        u.mod.ref = 0 ∧ u.log = s.log ∧ u.slots = s.slots) ∧
      (∀ f, bad k → valid (1 - k) f → ∃ u, exec (.turnOn) s = .next u ∧ u.mod.state = .dark ∧ u.power.railsUp = true ∧ u.fw.active = 1 - k ∧
        u.fw.measure = sha384 (fwSigned f) ∧ Safety.newest u = some (0x1101, .event, 0x1F) ∧ u.slots = s.slots) ∧
      (bad k → bad (1 - k) → ∃ u, exec (.turnOn) s = .next u ∧ u.mod.state = .struck ∧ u.mod.limited = true ∧ (∀ d, u.domOn d = decide (d = 79)) ∧
        Safety.newest u = some (0x1102, .strike, 0x1F) ∧ u.slots = s.slots)) ∧
    (s.canTurnOn = true → ∃ u, exec (.boundaryScanEntry) s = .next u ∧ u.mod.state = .dark ∧ u.mod.boundaryScan = true ∧ u.power.railsUp = true ∧
      (∀ d, 64 ≤ d → d < 80 → u.domOn d = true) ∧ u.fw = s.fw ∧ u.keys = s.keys ∧ u.log = s.log ∧ u.faultLow = true ∧
      (∀ c ∈ u.test.scan, c.ir = .idcode) ∧
      u.test.scan.map (fun c => (c.irLen, c.code)) =
        (8, 0x10960573#32) :: (List.replicate 4 (6, 0x10961573#32) ++ List.replicate 2 (6, 0x10962573#32))) ∧
    (s.canTurnOn = false → (s.mod.state = .dark ∨ s.mod.bscanLogged = true) → exec (.boundaryScanEntry) s = .next s) ∧
    (s.mod.state ≠ .dark → s.mod.bscanLogged = false → ∃ u, exec (.boundaryScanEntry) s = .next u ∧ Safety.newest u = some (0x9105, .event, 0x1F) ∧
      u.mod.bscanLogged = true ∧ u.mod.state = s.mod.state ∧ u.slots = s.slots)) ∧
  (∀ (s : State) (n : Nat), s.power.railsUp = true → s.mod.state = .dark → s.mod.boundaryScan = false →
    (2 ≤ n → n ≤ 6 → ∃ u, exec (.powerOnStepTimeout n) s = .next u ∧ u.mod.state = .dark ∧ u.doms = [] ∧ u.power.railsUp = false ∧ u.power.stopped = true ∧
      u.canTurnOn = false ∧ u.log.recs.head?.map (fun r => (r.body.code, r.body.handling, r.body.detail0)) = some (0x2058, .event, n)) ∧
    (n = 7 → exec (.powerOnStepTimeout n) s = .next { s with bank := { s.bank with late := true } }) ∧
    (n < 2 ∨ 7 < n → exec (.powerOnStepTimeout n) s = .next s)) ∧
  (∀ (s : State) (i : ProveIn), s.canProve = false → exec (.proving i) s = .next s) ∧
  (∀ (s : State) (i : ProveIn), s.slots.length = 16 → s.canProve = true →
    ((s.mod.boardRev ≠ 0x43 ∨ s.mod.stepping ≠ 0xB0) → ∃ u, exec (.proving i) s = .next u ∧ u.mod.state = .struck ∧ Safety.Logged u 0x110A) ∧
    (s.mod.boardRev = 0x43 → s.mod.stepping = 0xB0 → (∀ n < 68, rateOk (i.oscCounts.getD n 0) = true) → s.spare.resetPending = false →
      s.strikeLimit = false → s.log.recs = [] → (∀ n < 68, n ∉ s.spare.retired → (s.dom n).state ≠ .retired) → (∀ p < 16, (s.slot p).state = .free) →
      let proven := fun (u : State) => u.mod.state = .joining ∧ u.prov.lastStep = 9 ∧ u.mod.nonce = BitVec.ofNat 64 (Config.drbg s.free).toNat ∧
        u.keys.storage = some (hkdfKey [] Config.rootSecret lblStore) ∧ u.keys.transport ≠ none ∧ u.keys.module ≠ none ∧
        (∀ n < 68, n ∉ s.spare.retired → (u.osc n).rate = rateOf (i.oscCounts.getD n 0) ∧ (u.osc n).valid = true) ∧
        u.pins.slotId = i.straps % 256 ∧ u.pins.ringSel = i.ringStrap % 2
      (i.fails = [] → s.dipAreas = [] → ∃ u, exec (.proving i) s = .next u ∧ proven u ∧ u.prov.path = 0 ∧ u.prov.since = 0 ∧ u.prov.force = false ∧
        u.prov.failures = 0 ∧ u.mod.cleanSince = true ∧ (∀ p < 16, (u.slot p).state = .free) ∧
        (i.bankMem.present = false → u.bank.outcome = 4 ∧ 0x2052 ∈ u.mod.causes) ∧
        (u.bank.refused = false → s.bank.late = false → i.bankCharged = true → 10000 ≤ i.fallUs → i.fallUs ≤ 30000 → i.stepMv ≤ 1000 →
          let num := 2 * i.fallUs * ((4 * i.vc) ^ 2 - (120000 + 3 * i.stepMv) ^ 2)
          u.bank.outcome = (if 640 * 10 ^ 12 ≤ num then 1 else if 400 * 10 ^ 12 ≤ num then 2 else 3) ∧ (u.bank.outcome = 1 → 0x2052 ∉ u.mod.causes ∧ 0x2053 ∉ u.mod.causes))) ∧
      (∀ a v, i.fails = [] → s.dipAreas = [a] → a.partialRec = false → a.marks = [true, true, true, true, true] → i.dipOk = [] → a.slots = [v] →
        v.p < 16 → v.releasing = false → v.serials = [] →
        (∀ w key, v.persist = some w → bRights v.burgee / 16 % 2 = 1 → keyUnwrap (hkdfKey [] Config.rootSecret lblStore) 64 w = some key →
          ∃ u, exec (.proving i) s = .next u ∧ proven u ∧ (u.slot v.p).state = .restored ∧ (u.slot v.p).cartKey = some (BitVec.ofNat 512 (leNat key)) ∧
            (u.slot v.p).meters = v.meters ∧ (u.slot v.p).scheds = v.scheds ∧ (u.slot v.p).seed = v.seed ∧ (u.slot v.p).measure = v.measure ∧
            (u.slot v.p).burgee = putFld (putFld v.burgee 139 138 0) 137 136 3 ∧ (u.slot v.p).seq.step = v.step ∧
            (u.slot v.p).saved = a.shards.filter (fun h => decide (h.p = v.p)) ∧ (∀ k < 16, k ≠ v.p → (u.slot k).state = .free)) ∧
        (∀ w, v.persist = some w → bRights v.burgee / 16 % 2 = 1 → keyUnwrap (hkdfKey [] Config.rootSecret lblStore) 64 w = none →
          ∃ u, exec (.proving i) s = .next u ∧ proven u ∧ (u.slot v.p).state = .free ∧ (u.slot v.p).release.v = v.meters.v ∧
            (u.slot v.p).persist = none ∧ ∃ r ∈ u.log.recs, r.body.code = 0x3112 ∧ r.body.pennant = v.p)) ∧
      (∀ q g t, i.fails = [(5, .tile q g t)] → q < 4 → g < 16 → t < 19 → s.dipAreas = [] → groupNum q g ∉ s.spare.retired →
        tget? s.spare.spares (groupNum q g) = none → ∃ u, exec (.proving i) s = .next u ∧ proven u ∧ u.prov.failures = 1 ∧
          tget? u.spare.spares (groupNum q g) = some t ∧ (∃ r ∈ u.log.recs, r.body.code = 0x1108 ∧ r.body.site = siteTile q g t) ∧
          (∃ r ∈ u.log.recs, r.body.code = 0x8303 ∧ r.body.detail0 = 19 ∧ r.body.detail1 = t)))) ∧
  (∀ (s : State) (k : Nat),
    (s.slots.length = 16 → k < 4 → s.mod.state ≠ .dark → (tget s.mod.ids (4 + k) {}).status ≠ 0 → k ∉ s.spare.chipsFailed → (∀ p < 16, (s.slot p).state = .free) →
      ∃ u, exec (.cartridgeRemoved k) s = .next u ∧ Safety.Logged u 0x1107 ∧ k ∈ u.spare.chipsFailed ∧ (tget u.chips k {}).state = 3 ∧ u.hasCart k = false ∧
        (∀ g, g % 4 = k → g < 16 → g ∈ u.spare.withdrawn) ∧ (s.mod.state = .hoisted → s.spare.chipsFailed = [] → s.spare.retired = [] → u.mod.state = .halfMast)) ∧
    (s.mod.state = .dark → exec (.cartridgeRemoved k) s = .next s) ∧ exec (.cartridgeInserted k) s = .next s)

/-- A step of Proving that exceeds its bound Strikes the module. -/
def Obligations.ProvingTimeoutStrikes : Prop :=
  ∀ (s : State) (n : Nat), 1 ≤ n → n ≤ 9 → s.slots.length = 16 →
    ((s.mod.state = .proving ∨ s.canProve = true) → ∃ u, exec (.provingStepTimeout n) s = .next u ∧
      ⟨s.log.next, s.mod.ref, { code := 0x1109, handling := .strike, detail0 := n }⟩ ∈ u.log.recs ∧ u.mod.state = .struck ∧ u.faultLow = true ∧
      Safety.newest u = some (0x8341, .strike, 0x1F) ∧ u.ring.bypass = 0 ∧ (∀ d, d ≠ 79 → u.domOn d = false)) ∧
    (s.mod.state ≠ .proving → s.canProve = false → exec (.provingStepTimeout n) s = .next s)

/-- The power controller answers heat, excess power and faulty rails by lowering setpoints, retiring groups or striking. -/
def Obligations.PowerControllerResponds : Prop :=
  (∀ s : State, (s.mod.state ≠ .dark → s.mod.state ≠ .dipping → exec (.rideThrough) s = .next { s with power := { s.power with ride := s.power.ride + 1 } }) ∧
    ((s.mod.state = .dark ∨ s.mod.state = .dipping) → exec (.rideThrough) s = .next s)) ∧
  (∀ (s : State) (d : Nat) (j : Int), d < 68 → s.domOn d = true → (s.dom d).critical = false → (s.dom d).mv ≤ s.power.targetMv →
    let x := s.dom d
    let near := (neighbours d).filter (fun n => s.domOn n)
    (760 ≤ j → j < 840 → domFloor d < x.mv → ∃ u, exec (.thermalSample [⟨d, j⟩]) s = .next u ∧
      u.dom d = { x with mv := x.mv - 10, junction := j, since := x.since + 1, thermal := true } ∧ (u.osc d).inWindow = true ∧ u.power.hottest = j ∧
      (∀ e, (u.dom e).mv ≤ (s.dom e).mv) ∧ ((∀ n ∈ near, (s.dom n).mv ≤ x.mv + 90) → ∀ e, e ≠ d → u.dom e = s.dom e) ∧
      (x.thermal = true → u.log = s.log) ∧
      (x.thermal = false → u.log.recs.head?.map (fun r => (r.body.code, r.body.handling, r.body.siteKind, r.body.site)) = some (0x2054, .event, .domain, siteNum d)) ∧
      u.slots = s.slots) ∧
    (720 < j → j < 760 → exec (.thermalSample [⟨d, j⟩]) s =
      .next { s with doms := tput s.doms d { x with junction := j, since := x.since + 1 }, power := { s.power with hottest := j } }) ∧
    (j ≤ 720 → s.power.capOn = false → s.regionBusy d = false → x.mv + 10 ≤ s.ceiling d → 9 ≤ x.since → (∀ n ∈ near, x.mv + 10 ≤ (s.dom n).mv + 100) →
      ∃ u, exec (.thermalSample [⟨d, j⟩]) s = .next u ∧ (u.dom d).mv = x.mv + 10 ∧ (u.dom d).since = 0 ∧ (u.dom d).junction = j ∧ (u.osc d).inWindow = true ∧
        (∀ e, e ≠ d → u.dom e = s.dom e) ∧ u.log = s.log ∧ u.slots = s.slots) ∧
    (840 ≤ j → (s.doms.filter (fun y => decide (y.1 < 64) && y.2.critical)).length < 3 → d < 64 → (∀ y ∈ s.doms, y.1 = d → y.2.critical = false) → domFloor d < x.mv →
      ∃ u, exec (.thermalSample [⟨d, j⟩]) s = .next u ∧ (u.dom d).critical = true ∧ (u.dom d).mv = x.mv - 10 ∧ u.mod.state = s.mod.state ∧
        u.log.recs.head?.map (fun r => (r.body.code, r.body.handling, r.body.siteKind, r.body.site)) = some (0x2055, .event, .domain, siteNum d) ∧ u.slots = s.slots) ∧
    (840 ≤ j → 64 ≤ d → s.slots.length = 16 → Machine.State.linksRun s = true → ∃ u, exec (.thermalSample [⟨d, j⟩]) s = .next u ∧ u.mod.state = .struck ∧
      ⟨s.log.next, s.mod.ref, { code := 0x2055, handling := .strike, siteKind := .domain, site := siteNum d }⟩ ∈ u.log.recs)) ∧
  (∀ (s : State) (d : Nat), s.slots.length = 16 → d < 64 →
    let retired := fun (u : State) (code : Nat) => d ∈ u.spare.retired ∧ (u.dom d).state = .retired ∧ granuleOf (d / 16) (d % 16) ∈ u.spare.lasting ∧
      (∀ c ∈ u.crossings, c.a ≠ d ∧ c.b ≠ d) ∧ (∃ r ∈ u.log.recs, r.body.code = 0x8304 ∧ r.body.site = siteNum d ∧ r.body.detail0 = code) ∧
      (s.mod.state = .hoisted → s.spare.retired.length < 16 → s.spare.chipsFailed = [] → u.mod.state = .halfMast)
    ((s.dom d).critical = false → exec (.junctionCriticalTimeout d) s = .next s) ∧
    ((s.dom d).critical = true → d ∉ s.spare.retired → ∃ u, exec (.junctionCriticalTimeout d) s = .next u ∧ retired u 0x2055) ∧
    (s.domOn d = true → d ∉ s.spare.retired → s.mod.state ≠ .dark → s.mod.state ≠ .dipping → ∃ u, exec (.regulatorFault d) s = .next u ∧ retired u 0x2058 ∧
      ⟨s.log.next, s.mod.ref, { code := 0x2058, handling := .halfMast, siteKind := .domain, site := siteNum d }⟩ ∈ u.log.recs)) ∧
  (∀ (s : State) (d : Nat), s.slots.length = 16 →
    (64 ≤ d → Machine.State.linksRun s = true → ∃ u, exec (.regulatorFault d) s = .next u ∧ u.mod.state = .struck ∧
      ⟨s.log.next, s.mod.ref, { code := 0x2058, handling := .strike, siteKind := .domain, site := siteNum d }⟩ ∈ u.log.recs) ∧
    (s.mod.state = .dark → s.power.railsUp = true → s.mod.boundaryScan = false → ∃ u, exec (.regulatorFault d) s = .next u ∧ u.mod.state = .dark ∧
      u.doms = [] ∧ u.power.stopped = true ∧ u.canTurnOn = false ∧ Safety.newest u = some (0x2058, .event, 0x1F))) ∧
  (∀ (s : State) (vin w die : Nat) (calm : Bool), s.slots.length = 16 → s.mod.state ≠ .dark → s.mod.state ≠ .dipping → (∀ p < 16, 13 < (s.slot p).meters.v.length) →
    let on := fun (d : Nat) => d < 64 ∧ s.domOn d = true
    let pj := fun (u : State) (p : Nat) => (u.slot p).meters.v.getD 13 0 * 1000000 + (u.slot p).pj
    let sampled := fun (u : State) => u.power.vin = vin ∧ u.power.inW = w ∧ u.power.dieW = die ∧ u.mod.ref = (s.mod.ref + 2500) % 2 ^ 64 ∧
      ∀ p < 16, pj u p = pj s p + ((((s.slot p).granules.flatMap groupsOf).map (fun d => (s.dom d).mw)).sum + (s.slot p).granules.length * s.energy.getD 5 0) * 100000
    (s.power.capW < w → ∃ u, exec (.powerCapSample vin w die [] calm) s = .next u ∧ sampled u ∧ u.power.capOn = true ∧
      (∀ d, on d → (u.dom d).cap = true ∧ (domFloor d < (s.dom d).mv → (u.dom d).mv + 10 ≤ (s.dom d).mv)) ∧
      (∀ m, 600 < m → (∀ d, on d → (s.dom d).mv = m) → (∀ d, 64 ≤ d → d < 68 → s.domOn d = true → (s.dom d).mv ≤ m + 90) → ∀ d, on d → (u.dom d).mv = m - 10) ∧
      (s.power.capOn = true → u.log = s.log) ∧
      (s.power.capOn = false → u.log.recs.head?.map (fun r => (r.body.code, r.body.handling, r.body.detail0)) = some (0x2056, .event, w))) ∧
    (w ≤ s.power.capW → s.power.capOn = false → ∃ u, exec (.powerCapSample vin w die [] calm) s = .next u ∧ sampled u ∧ u.doms = s.doms ∧ u.log = s.log ∧ u.power.capOn = false)) ∧
  (∀ (s : State) (i o : Int), s.mod.state ≠ .dark → s.mod.state ≠ .dipping → ∃ u, exec (.coolantRiseHigh i o) s = .next u ∧
    u.power = { s.power with inlet := i, outlet := o, coolantHigh := decide (i + 160 < o) } ∧ u.slots = s.slots ∧
    ((o ≤ i + 160 ∨ s.power.coolantHigh = true) → u.log = s.log) ∧
    (i + 160 < o → s.power.coolantHigh = false → Safety.newest u = some (0x2059, .event, 0x1F))) ∧
  (∀ (s : State) (mv : Nat),
    (Machine.State.linksRun s = true → mv < 48000 → ∃ u, exec (.vbankLow mv) s = .next u ∧ u.bank = { s.bank with outcome := 4 } ∧ u.power.bankMv = mv ∧ u.slots = s.slots ∧
      (s.bank.outcome = 4 → u.log = s.log ∧ u.mod = s.mod) ∧
      (s.bank.outcome ≠ 4 → ⟨s.log.next, s.mod.ref, { code := 0x2052, handling := .halfMast }⟩ ∈ u.log.recs ∧ 0x2052 ∈ u.mod.causes ∧ (s.mod.state = .hoisted → u.mod.state = .halfMast))) ∧
    (48000 ≤ mv → exec (.vbankLow mv) s = .next s))

/-- Test mode is entered only as its rule says; the test commands act in it; loopbacks, the stall tile and the log are controlled. -/
def Obligations.TestModeAndObservation : Prop :=
  (∀ (s : State) (via : Via), Safety.Serves s →
    let did := fun (u : State) => Safety.answered u = some (.ok, 0) ∧ u.slots = s.slots ∧ u.mod.state = s.mod.state
    let refused := fun (u : State) (code : Nat) => Safety.answered u = some (.valueRefused, code) ∧ Safety.newest u = some (code, .refused, 0x1F) ∧
      u.slots = s.slots ∧ u.mod.state = s.mod.state ∧ u.spare = s.spare ∧ u.prov = s.prov
    (via.who ≠ .maint → ∀ v, ∃ u, exec (.testMode via v) s = .next u ∧ u.test = s.test ∧ u.log = s.log ∧ u.slots = s.slots) ∧
    (via.who = .maint →
      let may := s.mod.state = .joining ∧ s.ring.permit = false ∧ ∀ x ∈ s.slots, x.state = .free
      (may → s.test.mode = false → ∃ u, exec (.testMode via 1) s = .next u ∧ did u ∧ u.test = { s.test with mode := true } ∧
        Safety.newest u = some (0x9104, .event, 0x1F) ∧ u.ring.bypass ≠ 1) ∧
      (may → s.test.mode = true → ∃ u, exec (.testMode via 1) s = .next u ∧ did u ∧ u.test = s.test ∧ u.log = s.log) ∧
      (¬ may → ∃ u, exec (.testMode via 1) s = .next u ∧ refused u 0x9101 ∧ u.test = s.test) ∧
      (∃ u, exec (.testMode via 0) s = .next u ∧ refused u 0x9101 ∧ u.test = s.test) ∧
      (∀ v, v ≤ 1 →
        (s.test.mode = true → ∃ u, exec (.flyLaneDisabled via v) s = .next u ∧ did u ∧ u.test = { s.test with flyOff := decide (v = 1) } ∧ u.log = s.log) ∧
        (s.test.mode = false → ∃ u, exec (.flyLaneDisabled via v) s = .next u ∧ refused u 0x9101 ∧ u.test = s.test) ∧
        ((s.mod.state = .proving ∨ s.test.mode = true) → ∃ u, exec (.deepModeTestEnable via v) s = .next u ∧ did u ∧
          u.test = { s.test with deepTest := decide (v = 1) } ∧ u.log = s.log) ∧
        (s.mod.state ≠ .proving → s.test.mode = false → ∃ u, exec (.deepModeTestEnable via v) s = .next u ∧ refused u 0x6146 ∧ u.test = s.test)) ∧
      (s.test.mode = true → ∃ u, exec (.spareMapReset via 1) s = .next u ∧ did u ∧ u.spare = { s.spare with resetPending := true } ∧
        u.prov = { s.prov with force := true } ∧ u.test = s.test ∧ Safety.newest u = some (0x9106, .event, 0x1F)) ∧
      (s.test.mode = false → ∃ u, exec (.spareMapReset via 1) s = .next u ∧ refused u 0x9101 ∧ u.test = s.test) ∧
      (∃ u, exec (.logClear via 1) s = .next u ∧ did u ∧ u.log = { s.log with recs := [] })) ∧
    (∀ k, k < 20 → (via.who = .maint ∨ (via.who = .host ∧ s.test.mode = false)) →
      let l := tget s.test.loops k {}
      (s.loopAllowed k l.depth = true → ∃ u, exec (.loopbackStart via k 1) s = .next u ∧ did u ∧
        tget u.test.loops k {} = { l with status := 1, run := true, serv := s.inService, units := 0, errors := 0, power := 0 } ∧
        (∀ j, j ≠ k → tget u.test.loops j {} = tget s.test.loops j {} ∧ u.port j = s.port j) ∧ u.log = s.log ∧
        (s.inService = true → (u.port k).state = .retraining ∧ (u.port k).step = 3 ∧ (u.port k).sendQ = (s.port k).sendQ) ∧
        (s.inService = false → u.ports = s.ports)) ∧
      (s.loopAllowed k l.depth = false → ∃ u, exec (.loopbackStart via k 1) s = .next u ∧ refused u 0x9101 ∧
        tget u.test.loops k {} = { l with status := 4 } ∧ u.ports = s.ports)) ∧
    (via.who = .host → ∀ q g t, q < 4 → g < 16 → t < 19 → ∃ u, exec (.stallTileSelect via (512 * q + 32 * g + t)) s = .next u ∧ did u ∧
      u.test = { s.test with tileSel := 512 * q + 32 * g + t, tileStall := {} } ∧ u.log = s.log)) ∧
  (∀ (s : State) (k : Nat) (x : LoopResult), let l := tget s.test.loops k {}
    (l.run = false → exec (.loopbackEnd k x) s = .next s) ∧
    (l.run = true → ∃ u, exec (.loopbackEnd k x) s = .next u ∧ (tget u.test.loops k {}).run = false ∧ (tget u.test.loops k {}).units = x.units ∧
      (tget u.test.loops k {}).errors = (if k < 6 then x.corrected + 1000 * x.bad else x.bad) ∧ u.slots = s.slots ∧
      (x.bad = 0 → (6 ≤ k ∨ l.depth = 0 ∨ x.corrected * 1000000 < x.units) → (tget u.test.loops k {}).status = 2 ∧ u.log = s.log) ∧
      ((0 < x.bad ∨ (k < 6 ∧ l.depth ≠ 0 ∧ x.units ≤ x.corrected * 1000000)) → (tget u.test.loops k {}).status = 3 ∧
        u.log.recs.head?.map (fun r => (r.body.code, r.body.handling, r.body.detail0, r.body.detail1)) = some (0x9102, .event, k, l.depth)) ∧
      (l.serv = true → (u.port k).step = 3) ∧ (l.serv = false → u.ports = s.ports)))
end

