-- ==== Sys2Proof/Laws/Fields.lean ====
section
/-! SUPPORT. Bit fields after one of them is replaced. -/

namespace Sys2Proof.Machine

/-- A number as what lies above, in and below a field. -/
theorem nat_split (a lo w : Nat) :
    a = a / (2 ^ w * 2 ^ lo) * (2 ^ w * 2 ^ lo) + a / 2 ^ lo % 2 ^ w * 2 ^ lo + a % 2 ^ lo := by
  have e1 : a / 2 ^ lo * 2 ^ lo + a % 2 ^ lo = a := Nat.div_add_mod' a (2 ^ lo)
  have e2 : a / 2 ^ lo / 2 ^ w * 2 ^ w + a / 2 ^ lo % 2 ^ w = a / 2 ^ lo := Nat.div_add_mod' _ _
  have e4 : a / 2 ^ lo / 2 ^ w = a / (2 ^ w * 2 ^ lo) := by rw [Nat.div_div_eq_div_mul, mul_comm]
  rw [e4] at e2
  calc a = (a / (2 ^ w * 2 ^ lo) * 2 ^ w + a / 2 ^ lo % 2 ^ w) * 2 ^ lo + a % 2 ^ lo := by rw [e2, e1]
    _ = _ := by ring

theorem mul_add_lt (f w p r : Nat) (hf : f < w) (hr : r < p) : f * p + r < w * p := by
  have := Nat.mul_le_mul_right p (Nat.succ_le_of_lt hf)
  rw [Nat.succ_mul] at this
  omega

theorem putFld_toNat {n : Nat} (x : BitVec n) (hi lo v : Nat) (h : hi < n) (l : lo ≤ hi) :
    (putFld x hi lo v).toNat = x.toNat - fld x hi lo * 2 ^ lo + v % 2 ^ (hi + 1 - lo) * 2 ^ lo := by
  have hx : x.toNat < 2 ^ n := x.isLt
  have hv : v % 2 ^ (hi + 1 - lo) < 2 ^ (hi + 1 - lo) := Nat.mod_lt _ (by positivity)
  -- x = top * 2^(hi+1) + field * 2^lo + low
  set a := x.toNat with ha
  have hp : (2 : Nat) ^ (hi + 1) = 2 ^ (hi + 1 - lo) * 2 ^ lo := by rw [← pow_add]; congr 1; omega
  have hd := nat_split a lo (hi + 1 - lo)
  rw [← hp] at hd
  have hlow : a % 2 ^ lo < 2 ^ lo := Nat.mod_lt _ (by positivity)
  have htop : a / 2 ^ (hi + 1) < 2 ^ (n - (hi + 1)) := by
    rw [Nat.div_lt_iff_lt_mul (by positivity), ← pow_add]
    calc a < 2 ^ n := hx
      _ = 2 ^ (n - (hi + 1) + (hi + 1)) := by congr 1; omega
  have hn : (2 : Nat) ^ n = 2 ^ (n - (hi + 1)) * 2 ^ (hi + 1) := by rw [← pow_add]; congr 1; omega
  unfold putFld
  rw [BitVec.toNat_ofNat]
  apply Nat.mod_eq_of_lt
  have hf : fld x hi lo = a / 2 ^ lo % 2 ^ (hi + 1 - lo) := rfl
  rw [hf]
  have hsub : a - a / 2 ^ lo % 2 ^ (hi + 1 - lo) * 2 ^ lo = a / 2 ^ (hi + 1) * 2 ^ (hi + 1) + a % 2 ^ lo := by omega
  rw [← ha, hsub, hn]
  have : v % 2 ^ (hi + 1 - lo) * 2 ^ lo + a % 2 ^ lo < 2 ^ (hi + 1) := by
    rw [hp]; exact mul_add_lt _ _ _ _ hv hlow
  have g := mul_add_lt _ _ _ _ htop this
  omega

theorem putFld_testBit {n : Nat} (x : BitVec n) (hi lo v i : Nat) (h : hi < n) (l : lo ≤ hi) :
    (putFld x hi lo v).toNat.testBit i = if lo ≤ i ∧ i ≤ hi then v.testBit (i - lo) else x.toNat.testBit i := by
  rw [putFld_toNat x hi lo v h l]
  set a := x.toNat with ha
  have hf : fld x hi lo = a / 2 ^ lo % 2 ^ (hi + 1 - lo) := rfl
  have hlow : a % 2 ^ lo < 2 ^ lo := Nat.mod_lt _ (by positivity)
  have hv : v % 2 ^ (hi + 1 - lo) < 2 ^ (hi + 1 - lo) := Nat.mod_lt _ (by positivity)
  have hp : (2 : Nat) ^ (hi + 1) = 2 ^ (hi + 1 - lo) * 2 ^ lo := by rw [← pow_add]; congr 1; omega
  have hsub : a - fld x hi lo * 2 ^ lo + v % 2 ^ (hi + 1 - lo) * 2 ^ lo
      = 2 ^ (hi + 1) * (a / 2 ^ (hi + 1)) + (2 ^ lo * (v % 2 ^ (hi + 1 - lo)) + a % 2 ^ lo) := by
    rw [hf]
    have hd := nat_split a lo (hi + 1 - lo)
    rw [← hp] at hd
    have t : 2 ^ (hi + 1) * (a / 2 ^ (hi + 1)) = a / 2 ^ (hi + 1) * 2 ^ (hi + 1) := mul_comm _ _
    have u : 2 ^ lo * (v % 2 ^ (hi + 1 - lo)) = v % 2 ^ (hi + 1 - lo) * 2 ^ lo := mul_comm _ _
    omega
  have hin : 2 ^ lo * (v % 2 ^ (hi + 1 - lo)) + a % 2 ^ lo < 2 ^ (hi + 1) := by
    rw [hp, mul_comm (2 ^ lo)]; exact mul_add_lt _ _ _ _ hv hlow
  rw [hsub, Nat.testBit_two_pow_mul_add _ hin, Nat.testBit_two_pow_mul_add _ hlow]
  by_cases c1 : i < lo
  · have c2 : i < hi + 1 := by omega
    have c3 : ¬ (lo ≤ i ∧ i ≤ hi) := by omega
    simp [c1, c2, c3, Nat.testBit_mod_two_pow]
  · by_cases c2 : i < hi + 1
    · have c3 : lo ≤ i ∧ i ≤ hi := by omega
      have c4 : i - lo < hi + 1 - lo := by omega
      simp [c1, c2, c3, c4, Nat.testBit_mod_two_pow]
    · have c3 : ¬ (lo ≤ i ∧ i ≤ hi) := by omega
      simp [c2, c3, Nat.testBit_div_two_pow]
      congr 1; omega

theorem fld_testBit {n : Nat} (x : BitVec n) (hi lo i : Nat) :
    (fld x hi lo).testBit i = (decide (i < hi + 1 - lo) && x.toNat.testBit (lo + i)) := by
  unfold fld
  rw [Nat.testBit_mod_two_pow, Nat.testBit_div_two_pow, Nat.add_comm i lo]

/-- The replaced field reads as what was put, cut to its width. -/
theorem fld_putFld_same {n : Nat} (x : BitVec n) (hi lo v : Nat) (h : hi < n) (l : lo ≤ hi) :
    fld (putFld x hi lo v) hi lo = v % 2 ^ (hi + 1 - lo) := by
  apply Nat.eq_of_testBit_eq
  intro i
  rw [fld_testBit, putFld_testBit x hi lo v _ h l, Nat.testBit_mod_two_pow]
  by_cases c : i < hi + 1 - lo
  · have c2 : lo ≤ lo + i ∧ lo + i ≤ hi := by omega
    simp [c, c2]
  · simp [c]

/-- A field that shares no bit with the replaced one reads as before. -/
theorem fld_putFld_other {n : Nat} (x : BitVec n) (hi lo v hi' lo' : Nat) (h : hi < n) (l : lo ≤ hi) (d : hi' < lo ∨ hi < lo') :
    fld (putFld x hi lo v) hi' lo' = fld x hi' lo' := by
  apply Nat.eq_of_testBit_eq
  intro i
  rw [fld_testBit, fld_testBit, putFld_testBit x hi lo v _ h l]
  by_cases c : i < hi' + 1 - lo'
  · have c2 : ¬ (lo ≤ lo' + i ∧ lo' + i ≤ hi) := by omega
    simp [c2]
  · simp [c]

/-- A bit outside the replaced field reads as before. -/
theorem bit_putFld_other {n : Nat} (x : BitVec n) (hi lo v i : Nat) (h : hi < n) (l : lo ≤ hi) (d : i < lo ∨ hi < i) :
    bit (putFld x hi lo v) i = bit x i := by
  have t := putFld_testBit x hi lo v i h l
  have c : ¬ (lo ≤ i ∧ i ≤ hi) := by omega
  rw [if_neg c] at t
  unfold bit
  rw [Nat.testBit_eq_decide_div_mod_eq, Nat.testBit_eq_decide_div_mod_eq] at t
  exact t

end Sys2Proof.Machine
end

