-- ==== Sys2Proof/Laws/State.lean ====
section
/-! SUPPORT. What each named update leaves alone, field by field. -/

set_option Elab.async false

namespace Sys2Proof.Machine

/-! `State.updSlot` changes slots. -/

@[simp] theorem State.updSlot_pending (s : State) (p : Nat) (f : Slot → Slot) : (s.updSlot p f).pending = s.pending := rfl
@[simp] theorem State.updSlot_free (s : State) (p : Nat) (f : Slot → Slot) : (s.updSlot p f).free = s.free := rfl
@[simp] theorem State.updSlot_out (s : State) (p : Nat) (f : Slot → Slot) : (s.updSlot p f).out = s.out := rfl
@[simp] theorem State.updSlot_mod (s : State) (p : Nat) (f : Slot → Slot) : (s.updSlot p f).mod = s.mod := rfl
@[simp] theorem State.updSlot_pins (s : State) (p : Nat) (f : Slot → Slot) : (s.updSlot p f).pins = s.pins := rfl
@[simp] theorem State.updSlot_prov (s : State) (p : Nat) (f : Slot → Slot) : (s.updSlot p f).prov = s.prov := rfl
@[simp] theorem State.updSlot_oscs (s : State) (p : Nat) (f : Slot → Slot) : (s.updSlot p f).oscs = s.oscs := rfl
@[simp] theorem State.updSlot_doms (s : State) (p : Nat) (f : Slot → Slot) : (s.updSlot p f).doms = s.doms := rfl
@[simp] theorem State.updSlot_corrections (s : State) (p : Nat) (f : Slot → Slot) : (s.updSlot p f).corrections = s.corrections := rfl
@[simp] theorem State.updSlot_crossings (s : State) (p : Nat) (f : Slot → Slot) : (s.updSlot p f).crossings = s.crossings := rfl
@[simp] theorem State.updSlot_power (s : State) (p : Nat) (f : Slot → Slot) : (s.updSlot p f).power = s.power := rfl
@[simp] theorem State.updSlot_dip (s : State) (p : Nat) (f : Slot → Slot) : (s.updSlot p f).dip = s.dip := rfl
@[simp] theorem State.updSlot_bank (s : State) (p : Nat) (f : Slot → Slot) : (s.updSlot p f).bank = s.bank := rfl
@[simp] theorem State.updSlot_dipAreas (s : State) (p : Nat) (f : Slot → Slot) : (s.updSlot p f).dipAreas = s.dipAreas := rfl
@[simp] theorem State.updSlot_log (s : State) (p : Nat) (f : Slot → Slot) : (s.updSlot p f).log = s.log := rfl
@[simp] theorem State.updSlot_recov (s : State) (p : Nat) (f : Slot → Slot) : (s.updSlot p f).recov = s.recov := rfl
@[simp] theorem State.updSlot_spare (s : State) (p : Nat) (f : Slot → Slot) : (s.updSlot p f).spare = s.spare := rfl
@[simp] theorem State.updSlot_tiles (s : State) (p : Nat) (f : Slot → Slot) : (s.updSlot p f).tiles = s.tiles := rfl
@[simp] theorem State.updSlot_groups (s : State) (p : Nat) (f : Slot → Slot) : (s.updSlot p f).groups = s.groups := rfl
@[simp] theorem State.updSlot_arbs (s : State) (p : Nat) (f : Slot → Slot) : (s.updSlot p f).arbs = s.arbs := rfl
@[simp] theorem State.updSlot_queues (s : State) (p : Nat) (f : Slot → Slot) : (s.updSlot p f).queues = s.queues := rfl
@[simp] theorem State.updSlot_pools (s : State) (p : Nat) (f : Slot → Slot) : (s.updSlot p f).pools = s.pools := rfl
@[simp] theorem State.updSlot_fly (s : State) (p : Nat) (f : Slot → Slot) : (s.updSlot p f).fly = s.fly := rfl
@[simp] theorem State.updSlot_passes (s : State) (p : Nat) (f : Slot → Slot) : (s.updSlot p f).passes = s.passes := rfl
@[simp] theorem State.updSlot_nextPass (s : State) (p : Nat) (f : Slot → Slot) : (s.updSlot p f).nextPass = s.nextPass := rfl
@[simp] theorem State.updSlot_dram (s : State) (p : Nat) (f : Slot → Slot) : (s.updSlot p f).dram = s.dram := rfl
@[simp] theorem State.updSlot_caches (s : State) (p : Nat) (f : Slot → Slot) : (s.updSlot p f).caches = s.caches := rfl
@[simp] theorem State.updSlot_carts (s : State) (p : Nat) (f : Slot → Slot) : (s.updSlot p f).carts = s.carts := rfl
@[simp] theorem State.updSlot_memSet (s : State) (p : Nat) (f : Slot → Slot) : (s.updSlot p f).memSet = s.memSet := rfl
@[simp] theorem State.updSlot_chips (s : State) (p : Nat) (f : Slot → Slot) : (s.updSlot p f).chips = s.chips := rfl
@[simp] theorem State.updSlot_exTimeout (s : State) (p : Nat) (f : Slot → Slot) : (s.updSlot p f).exTimeout = s.exTimeout := rfl
@[simp] theorem State.updSlot_ports (s : State) (p : Nat) (f : Slot → Slot) : (s.updSlot p f).ports = s.ports := rfl
@[simp] theorem State.updSlot_ring (s : State) (p : Nat) (f : Slot → Slot) : (s.updSlot p f).ring = s.ring := rfl
@[simp] theorem State.updSlot_link (s : State) (p : Nat) (f : Slot → Slot) : (s.updSlot p f).link = s.link := rfl
@[simp] theorem State.updSlot_topo (s : State) (p : Nat) (f : Slot → Slot) : (s.updSlot p f).topo = s.topo := rfl
@[simp] theorem State.updSlot_spaces (s : State) (p : Nat) (f : Slot → Slot) : (s.updSlot p f).spaces = s.spaces := rfl
@[simp] theorem State.updSlot_fw (s : State) (p : Nat) (f : Slot → Slot) : (s.updSlot p f).fw = s.fw := rfl
@[simp] theorem State.updSlot_keys (s : State) (p : Nat) (f : Slot → Slot) : (s.updSlot p f).keys = s.keys := rfl
@[simp] theorem State.updSlot_offers (s : State) (p : Nat) (f : Slot → Slot) : (s.updSlot p f).offers = s.offers := rfl
@[simp] theorem State.updSlot_modAttest (s : State) (p : Nat) (f : Slot → Slot) : (s.updSlot p f).modAttest = s.modAttest := rfl
@[simp] theorem State.updSlot_energy (s : State) (p : Nat) (f : Slot → Slot) : (s.updSlot p f).energy = s.energy := rfl
@[simp] theorem State.updSlot_boxes (s : State) (p : Nat) (f : Slot → Slot) : (s.updSlot p f).boxes = s.boxes := rfl
@[simp] theorem State.updSlot_qps (s : State) (p : Nat) (f : Slot → Slot) : (s.updSlot p f).qps = s.qps := rfl
@[simp] theorem State.updSlot_blobs (s : State) (p : Nat) (f : Slot → Slot) : (s.updSlot p f).blobs = s.blobs := rfl
@[simp] theorem State.updSlot_mgmt (s : State) (p : Nat) (f : Slot → Slot) : (s.updSlot p f).mgmt = s.mgmt := rfl
@[simp] theorem State.updSlot_peerNonce (s : State) (p : Nat) (f : Slot → Slot) : (s.updSlot p f).peerNonce = s.peerNonce := rfl
@[simp] theorem State.updSlot_peerChain (s : State) (p : Nat) (f : Slot → Slot) : (s.updSlot p f).peerChain = s.peerChain := rfl
@[simp] theorem State.updSlot_test (s : State) (p : Nat) (f : Slot → Slot) : (s.updSlot p f).test = s.test := rfl

/-! `State.setSlot` changes slots. -/

@[simp] theorem State.setSlot_pending (s : State) (p : Nat) (x : Slot) : (s.setSlot p x).pending = s.pending := rfl
@[simp] theorem State.setSlot_free (s : State) (p : Nat) (x : Slot) : (s.setSlot p x).free = s.free := rfl
@[simp] theorem State.setSlot_out (s : State) (p : Nat) (x : Slot) : (s.setSlot p x).out = s.out := rfl
@[simp] theorem State.setSlot_mod (s : State) (p : Nat) (x : Slot) : (s.setSlot p x).mod = s.mod := rfl
@[simp] theorem State.setSlot_pins (s : State) (p : Nat) (x : Slot) : (s.setSlot p x).pins = s.pins := rfl
@[simp] theorem State.setSlot_prov (s : State) (p : Nat) (x : Slot) : (s.setSlot p x).prov = s.prov := rfl
@[simp] theorem State.setSlot_oscs (s : State) (p : Nat) (x : Slot) : (s.setSlot p x).oscs = s.oscs := rfl
@[simp] theorem State.setSlot_doms (s : State) (p : Nat) (x : Slot) : (s.setSlot p x).doms = s.doms := rfl
@[simp] theorem State.setSlot_corrections (s : State) (p : Nat) (x : Slot) : (s.setSlot p x).corrections = s.corrections := rfl
@[simp] theorem State.setSlot_crossings (s : State) (p : Nat) (x : Slot) : (s.setSlot p x).crossings = s.crossings := rfl
@[simp] theorem State.setSlot_power (s : State) (p : Nat) (x : Slot) : (s.setSlot p x).power = s.power := rfl
@[simp] theorem State.setSlot_dip (s : State) (p : Nat) (x : Slot) : (s.setSlot p x).dip = s.dip := rfl
@[simp] theorem State.setSlot_bank (s : State) (p : Nat) (x : Slot) : (s.setSlot p x).bank = s.bank := rfl
@[simp] theorem State.setSlot_dipAreas (s : State) (p : Nat) (x : Slot) : (s.setSlot p x).dipAreas = s.dipAreas := rfl
@[simp] theorem State.setSlot_log (s : State) (p : Nat) (x : Slot) : (s.setSlot p x).log = s.log := rfl
@[simp] theorem State.setSlot_recov (s : State) (p : Nat) (x : Slot) : (s.setSlot p x).recov = s.recov := rfl
@[simp] theorem State.setSlot_spare (s : State) (p : Nat) (x : Slot) : (s.setSlot p x).spare = s.spare := rfl
@[simp] theorem State.setSlot_tiles (s : State) (p : Nat) (x : Slot) : (s.setSlot p x).tiles = s.tiles := rfl
@[simp] theorem State.setSlot_groups (s : State) (p : Nat) (x : Slot) : (s.setSlot p x).groups = s.groups := rfl
@[simp] theorem State.setSlot_arbs (s : State) (p : Nat) (x : Slot) : (s.setSlot p x).arbs = s.arbs := rfl
@[simp] theorem State.setSlot_queues (s : State) (p : Nat) (x : Slot) : (s.setSlot p x).queues = s.queues := rfl
@[simp] theorem State.setSlot_pools (s : State) (p : Nat) (x : Slot) : (s.setSlot p x).pools = s.pools := rfl
@[simp] theorem State.setSlot_fly (s : State) (p : Nat) (x : Slot) : (s.setSlot p x).fly = s.fly := rfl
@[simp] theorem State.setSlot_passes (s : State) (p : Nat) (x : Slot) : (s.setSlot p x).passes = s.passes := rfl
@[simp] theorem State.setSlot_nextPass (s : State) (p : Nat) (x : Slot) : (s.setSlot p x).nextPass = s.nextPass := rfl
@[simp] theorem State.setSlot_dram (s : State) (p : Nat) (x : Slot) : (s.setSlot p x).dram = s.dram := rfl
@[simp] theorem State.setSlot_caches (s : State) (p : Nat) (x : Slot) : (s.setSlot p x).caches = s.caches := rfl
@[simp] theorem State.setSlot_carts (s : State) (p : Nat) (x : Slot) : (s.setSlot p x).carts = s.carts := rfl
@[simp] theorem State.setSlot_memSet (s : State) (p : Nat) (x : Slot) : (s.setSlot p x).memSet = s.memSet := rfl
@[simp] theorem State.setSlot_chips (s : State) (p : Nat) (x : Slot) : (s.setSlot p x).chips = s.chips := rfl
@[simp] theorem State.setSlot_exTimeout (s : State) (p : Nat) (x : Slot) : (s.setSlot p x).exTimeout = s.exTimeout := rfl
@[simp] theorem State.setSlot_ports (s : State) (p : Nat) (x : Slot) : (s.setSlot p x).ports = s.ports := rfl
@[simp] theorem State.setSlot_ring (s : State) (p : Nat) (x : Slot) : (s.setSlot p x).ring = s.ring := rfl
@[simp] theorem State.setSlot_link (s : State) (p : Nat) (x : Slot) : (s.setSlot p x).link = s.link := rfl
@[simp] theorem State.setSlot_topo (s : State) (p : Nat) (x : Slot) : (s.setSlot p x).topo = s.topo := rfl
@[simp] theorem State.setSlot_spaces (s : State) (p : Nat) (x : Slot) : (s.setSlot p x).spaces = s.spaces := rfl
@[simp] theorem State.setSlot_fw (s : State) (p : Nat) (x : Slot) : (s.setSlot p x).fw = s.fw := rfl
@[simp] theorem State.setSlot_keys (s : State) (p : Nat) (x : Slot) : (s.setSlot p x).keys = s.keys := rfl
@[simp] theorem State.setSlot_offers (s : State) (p : Nat) (x : Slot) : (s.setSlot p x).offers = s.offers := rfl
@[simp] theorem State.setSlot_modAttest (s : State) (p : Nat) (x : Slot) : (s.setSlot p x).modAttest = s.modAttest := rfl
@[simp] theorem State.setSlot_energy (s : State) (p : Nat) (x : Slot) : (s.setSlot p x).energy = s.energy := rfl
@[simp] theorem State.setSlot_boxes (s : State) (p : Nat) (x : Slot) : (s.setSlot p x).boxes = s.boxes := rfl
@[simp] theorem State.setSlot_qps (s : State) (p : Nat) (x : Slot) : (s.setSlot p x).qps = s.qps := rfl
@[simp] theorem State.setSlot_blobs (s : State) (p : Nat) (x : Slot) : (s.setSlot p x).blobs = s.blobs := rfl
@[simp] theorem State.setSlot_mgmt (s : State) (p : Nat) (x : Slot) : (s.setSlot p x).mgmt = s.mgmt := rfl
@[simp] theorem State.setSlot_peerNonce (s : State) (p : Nat) (x : Slot) : (s.setSlot p x).peerNonce = s.peerNonce := rfl
@[simp] theorem State.setSlot_peerChain (s : State) (p : Nat) (x : Slot) : (s.setSlot p x).peerChain = s.peerChain := rfl
@[simp] theorem State.setSlot_test (s : State) (p : Nat) (x : Slot) : (s.setSlot p x).test = s.test := rfl

/-! `State.setTile` changes tiles. -/

@[simp] theorem State.setTile_pending (s : State) (n : Nat) (x : Tile) : (s.setTile n x).pending = s.pending := rfl
@[simp] theorem State.setTile_free (s : State) (n : Nat) (x : Tile) : (s.setTile n x).free = s.free := rfl
@[simp] theorem State.setTile_out (s : State) (n : Nat) (x : Tile) : (s.setTile n x).out = s.out := rfl
@[simp] theorem State.setTile_mod (s : State) (n : Nat) (x : Tile) : (s.setTile n x).mod = s.mod := rfl
@[simp] theorem State.setTile_pins (s : State) (n : Nat) (x : Tile) : (s.setTile n x).pins = s.pins := rfl
@[simp] theorem State.setTile_prov (s : State) (n : Nat) (x : Tile) : (s.setTile n x).prov = s.prov := rfl
@[simp] theorem State.setTile_oscs (s : State) (n : Nat) (x : Tile) : (s.setTile n x).oscs = s.oscs := rfl
@[simp] theorem State.setTile_doms (s : State) (n : Nat) (x : Tile) : (s.setTile n x).doms = s.doms := rfl
@[simp] theorem State.setTile_corrections (s : State) (n : Nat) (x : Tile) : (s.setTile n x).corrections = s.corrections := rfl
@[simp] theorem State.setTile_crossings (s : State) (n : Nat) (x : Tile) : (s.setTile n x).crossings = s.crossings := rfl
@[simp] theorem State.setTile_power (s : State) (n : Nat) (x : Tile) : (s.setTile n x).power = s.power := rfl
@[simp] theorem State.setTile_dip (s : State) (n : Nat) (x : Tile) : (s.setTile n x).dip = s.dip := rfl
@[simp] theorem State.setTile_bank (s : State) (n : Nat) (x : Tile) : (s.setTile n x).bank = s.bank := rfl
@[simp] theorem State.setTile_dipAreas (s : State) (n : Nat) (x : Tile) : (s.setTile n x).dipAreas = s.dipAreas := rfl
@[simp] theorem State.setTile_log (s : State) (n : Nat) (x : Tile) : (s.setTile n x).log = s.log := rfl
@[simp] theorem State.setTile_recov (s : State) (n : Nat) (x : Tile) : (s.setTile n x).recov = s.recov := rfl
@[simp] theorem State.setTile_spare (s : State) (n : Nat) (x : Tile) : (s.setTile n x).spare = s.spare := rfl
@[simp] theorem State.setTile_groups (s : State) (n : Nat) (x : Tile) : (s.setTile n x).groups = s.groups := rfl
@[simp] theorem State.setTile_arbs (s : State) (n : Nat) (x : Tile) : (s.setTile n x).arbs = s.arbs := rfl
@[simp] theorem State.setTile_queues (s : State) (n : Nat) (x : Tile) : (s.setTile n x).queues = s.queues := rfl
@[simp] theorem State.setTile_pools (s : State) (n : Nat) (x : Tile) : (s.setTile n x).pools = s.pools := rfl
@[simp] theorem State.setTile_fly (s : State) (n : Nat) (x : Tile) : (s.setTile n x).fly = s.fly := rfl
@[simp] theorem State.setTile_passes (s : State) (n : Nat) (x : Tile) : (s.setTile n x).passes = s.passes := rfl
@[simp] theorem State.setTile_nextPass (s : State) (n : Nat) (x : Tile) : (s.setTile n x).nextPass = s.nextPass := rfl
@[simp] theorem State.setTile_dram (s : State) (n : Nat) (x : Tile) : (s.setTile n x).dram = s.dram := rfl
@[simp] theorem State.setTile_caches (s : State) (n : Nat) (x : Tile) : (s.setTile n x).caches = s.caches := rfl
@[simp] theorem State.setTile_carts (s : State) (n : Nat) (x : Tile) : (s.setTile n x).carts = s.carts := rfl
@[simp] theorem State.setTile_memSet (s : State) (n : Nat) (x : Tile) : (s.setTile n x).memSet = s.memSet := rfl
@[simp] theorem State.setTile_chips (s : State) (n : Nat) (x : Tile) : (s.setTile n x).chips = s.chips := rfl
@[simp] theorem State.setTile_exTimeout (s : State) (n : Nat) (x : Tile) : (s.setTile n x).exTimeout = s.exTimeout := rfl
@[simp] theorem State.setTile_ports (s : State) (n : Nat) (x : Tile) : (s.setTile n x).ports = s.ports := rfl
@[simp] theorem State.setTile_ring (s : State) (n : Nat) (x : Tile) : (s.setTile n x).ring = s.ring := rfl
@[simp] theorem State.setTile_link (s : State) (n : Nat) (x : Tile) : (s.setTile n x).link = s.link := rfl
@[simp] theorem State.setTile_topo (s : State) (n : Nat) (x : Tile) : (s.setTile n x).topo = s.topo := rfl
@[simp] theorem State.setTile_spaces (s : State) (n : Nat) (x : Tile) : (s.setTile n x).spaces = s.spaces := rfl
@[simp] theorem State.setTile_slots (s : State) (n : Nat) (x : Tile) : (s.setTile n x).slots = s.slots := rfl
@[simp] theorem State.setTile_fw (s : State) (n : Nat) (x : Tile) : (s.setTile n x).fw = s.fw := rfl
@[simp] theorem State.setTile_keys (s : State) (n : Nat) (x : Tile) : (s.setTile n x).keys = s.keys := rfl
@[simp] theorem State.setTile_offers (s : State) (n : Nat) (x : Tile) : (s.setTile n x).offers = s.offers := rfl
@[simp] theorem State.setTile_modAttest (s : State) (n : Nat) (x : Tile) : (s.setTile n x).modAttest = s.modAttest := rfl
@[simp] theorem State.setTile_energy (s : State) (n : Nat) (x : Tile) : (s.setTile n x).energy = s.energy := rfl
@[simp] theorem State.setTile_boxes (s : State) (n : Nat) (x : Tile) : (s.setTile n x).boxes = s.boxes := rfl
@[simp] theorem State.setTile_qps (s : State) (n : Nat) (x : Tile) : (s.setTile n x).qps = s.qps := rfl
@[simp] theorem State.setTile_blobs (s : State) (n : Nat) (x : Tile) : (s.setTile n x).blobs = s.blobs := rfl
@[simp] theorem State.setTile_mgmt (s : State) (n : Nat) (x : Tile) : (s.setTile n x).mgmt = s.mgmt := rfl
@[simp] theorem State.setTile_peerNonce (s : State) (n : Nat) (x : Tile) : (s.setTile n x).peerNonce = s.peerNonce := rfl
@[simp] theorem State.setTile_peerChain (s : State) (n : Nat) (x : Tile) : (s.setTile n x).peerChain = s.peerChain := rfl
@[simp] theorem State.setTile_test (s : State) (n : Nat) (x : Tile) : (s.setTile n x).test = s.test := rfl

/-! `State.updTile` changes tiles. -/

@[simp] theorem State.updTile_pending (s : State) (n : Nat) (f : Tile → Tile) : (s.updTile n f).pending = s.pending := rfl
@[simp] theorem State.updTile_free (s : State) (n : Nat) (f : Tile → Tile) : (s.updTile n f).free = s.free := rfl
@[simp] theorem State.updTile_out (s : State) (n : Nat) (f : Tile → Tile) : (s.updTile n f).out = s.out := rfl
@[simp] theorem State.updTile_mod (s : State) (n : Nat) (f : Tile → Tile) : (s.updTile n f).mod = s.mod := rfl
@[simp] theorem State.updTile_pins (s : State) (n : Nat) (f : Tile → Tile) : (s.updTile n f).pins = s.pins := rfl
@[simp] theorem State.updTile_prov (s : State) (n : Nat) (f : Tile → Tile) : (s.updTile n f).prov = s.prov := rfl
@[simp] theorem State.updTile_oscs (s : State) (n : Nat) (f : Tile → Tile) : (s.updTile n f).oscs = s.oscs := rfl
@[simp] theorem State.updTile_doms (s : State) (n : Nat) (f : Tile → Tile) : (s.updTile n f).doms = s.doms := rfl
@[simp] theorem State.updTile_corrections (s : State) (n : Nat) (f : Tile → Tile) : (s.updTile n f).corrections = s.corrections := rfl
@[simp] theorem State.updTile_crossings (s : State) (n : Nat) (f : Tile → Tile) : (s.updTile n f).crossings = s.crossings := rfl
@[simp] theorem State.updTile_power (s : State) (n : Nat) (f : Tile → Tile) : (s.updTile n f).power = s.power := rfl
@[simp] theorem State.updTile_dip (s : State) (n : Nat) (f : Tile → Tile) : (s.updTile n f).dip = s.dip := rfl
@[simp] theorem State.updTile_bank (s : State) (n : Nat) (f : Tile → Tile) : (s.updTile n f).bank = s.bank := rfl
@[simp] theorem State.updTile_dipAreas (s : State) (n : Nat) (f : Tile → Tile) : (s.updTile n f).dipAreas = s.dipAreas := rfl
@[simp] theorem State.updTile_log (s : State) (n : Nat) (f : Tile → Tile) : (s.updTile n f).log = s.log := rfl
@[simp] theorem State.updTile_recov (s : State) (n : Nat) (f : Tile → Tile) : (s.updTile n f).recov = s.recov := rfl
@[simp] theorem State.updTile_spare (s : State) (n : Nat) (f : Tile → Tile) : (s.updTile n f).spare = s.spare := rfl
@[simp] theorem State.updTile_groups (s : State) (n : Nat) (f : Tile → Tile) : (s.updTile n f).groups = s.groups := rfl
@[simp] theorem State.updTile_arbs (s : State) (n : Nat) (f : Tile → Tile) : (s.updTile n f).arbs = s.arbs := rfl
@[simp] theorem State.updTile_queues (s : State) (n : Nat) (f : Tile → Tile) : (s.updTile n f).queues = s.queues := rfl
@[simp] theorem State.updTile_pools (s : State) (n : Nat) (f : Tile → Tile) : (s.updTile n f).pools = s.pools := rfl
@[simp] theorem State.updTile_fly (s : State) (n : Nat) (f : Tile → Tile) : (s.updTile n f).fly = s.fly := rfl
@[simp] theorem State.updTile_passes (s : State) (n : Nat) (f : Tile → Tile) : (s.updTile n f).passes = s.passes := rfl
@[simp] theorem State.updTile_nextPass (s : State) (n : Nat) (f : Tile → Tile) : (s.updTile n f).nextPass = s.nextPass := rfl
@[simp] theorem State.updTile_dram (s : State) (n : Nat) (f : Tile → Tile) : (s.updTile n f).dram = s.dram := rfl
@[simp] theorem State.updTile_caches (s : State) (n : Nat) (f : Tile → Tile) : (s.updTile n f).caches = s.caches := rfl
@[simp] theorem State.updTile_carts (s : State) (n : Nat) (f : Tile → Tile) : (s.updTile n f).carts = s.carts := rfl
@[simp] theorem State.updTile_memSet (s : State) (n : Nat) (f : Tile → Tile) : (s.updTile n f).memSet = s.memSet := rfl
@[simp] theorem State.updTile_chips (s : State) (n : Nat) (f : Tile → Tile) : (s.updTile n f).chips = s.chips := rfl
@[simp] theorem State.updTile_exTimeout (s : State) (n : Nat) (f : Tile → Tile) : (s.updTile n f).exTimeout = s.exTimeout := rfl
@[simp] theorem State.updTile_ports (s : State) (n : Nat) (f : Tile → Tile) : (s.updTile n f).ports = s.ports := rfl
@[simp] theorem State.updTile_ring (s : State) (n : Nat) (f : Tile → Tile) : (s.updTile n f).ring = s.ring := rfl
@[simp] theorem State.updTile_link (s : State) (n : Nat) (f : Tile → Tile) : (s.updTile n f).link = s.link := rfl
@[simp] theorem State.updTile_topo (s : State) (n : Nat) (f : Tile → Tile) : (s.updTile n f).topo = s.topo := rfl
@[simp] theorem State.updTile_spaces (s : State) (n : Nat) (f : Tile → Tile) : (s.updTile n f).spaces = s.spaces := rfl
@[simp] theorem State.updTile_slots (s : State) (n : Nat) (f : Tile → Tile) : (s.updTile n f).slots = s.slots := rfl
@[simp] theorem State.updTile_fw (s : State) (n : Nat) (f : Tile → Tile) : (s.updTile n f).fw = s.fw := rfl
@[simp] theorem State.updTile_keys (s : State) (n : Nat) (f : Tile → Tile) : (s.updTile n f).keys = s.keys := rfl
@[simp] theorem State.updTile_offers (s : State) (n : Nat) (f : Tile → Tile) : (s.updTile n f).offers = s.offers := rfl
@[simp] theorem State.updTile_modAttest (s : State) (n : Nat) (f : Tile → Tile) : (s.updTile n f).modAttest = s.modAttest := rfl
@[simp] theorem State.updTile_energy (s : State) (n : Nat) (f : Tile → Tile) : (s.updTile n f).energy = s.energy := rfl
@[simp] theorem State.updTile_boxes (s : State) (n : Nat) (f : Tile → Tile) : (s.updTile n f).boxes = s.boxes := rfl
@[simp] theorem State.updTile_qps (s : State) (n : Nat) (f : Tile → Tile) : (s.updTile n f).qps = s.qps := rfl
@[simp] theorem State.updTile_blobs (s : State) (n : Nat) (f : Tile → Tile) : (s.updTile n f).blobs = s.blobs := rfl
@[simp] theorem State.updTile_mgmt (s : State) (n : Nat) (f : Tile → Tile) : (s.updTile n f).mgmt = s.mgmt := rfl
@[simp] theorem State.updTile_peerNonce (s : State) (n : Nat) (f : Tile → Tile) : (s.updTile n f).peerNonce = s.peerNonce := rfl
@[simp] theorem State.updTile_peerChain (s : State) (n : Nat) (f : Tile → Tile) : (s.updTile n f).peerChain = s.peerChain := rfl
@[simp] theorem State.updTile_test (s : State) (n : Nat) (f : Tile → Tile) : (s.updTile n f).test = s.test := rfl

/-! `State.updGroup` changes groups. -/

@[simp] theorem State.updGroup_pending (s : State) (n : Nat) (f : GroupCtrs → GroupCtrs) : (s.updGroup n f).pending = s.pending := rfl
@[simp] theorem State.updGroup_free (s : State) (n : Nat) (f : GroupCtrs → GroupCtrs) : (s.updGroup n f).free = s.free := rfl
@[simp] theorem State.updGroup_out (s : State) (n : Nat) (f : GroupCtrs → GroupCtrs) : (s.updGroup n f).out = s.out := rfl
@[simp] theorem State.updGroup_mod (s : State) (n : Nat) (f : GroupCtrs → GroupCtrs) : (s.updGroup n f).mod = s.mod := rfl
@[simp] theorem State.updGroup_pins (s : State) (n : Nat) (f : GroupCtrs → GroupCtrs) : (s.updGroup n f).pins = s.pins := rfl
@[simp] theorem State.updGroup_prov (s : State) (n : Nat) (f : GroupCtrs → GroupCtrs) : (s.updGroup n f).prov = s.prov := rfl
@[simp] theorem State.updGroup_oscs (s : State) (n : Nat) (f : GroupCtrs → GroupCtrs) : (s.updGroup n f).oscs = s.oscs := rfl
@[simp] theorem State.updGroup_doms (s : State) (n : Nat) (f : GroupCtrs → GroupCtrs) : (s.updGroup n f).doms = s.doms := rfl
@[simp] theorem State.updGroup_corrections (s : State) (n : Nat) (f : GroupCtrs → GroupCtrs) : (s.updGroup n f).corrections = s.corrections := rfl
@[simp] theorem State.updGroup_crossings (s : State) (n : Nat) (f : GroupCtrs → GroupCtrs) : (s.updGroup n f).crossings = s.crossings := rfl
@[simp] theorem State.updGroup_power (s : State) (n : Nat) (f : GroupCtrs → GroupCtrs) : (s.updGroup n f).power = s.power := rfl
@[simp] theorem State.updGroup_dip (s : State) (n : Nat) (f : GroupCtrs → GroupCtrs) : (s.updGroup n f).dip = s.dip := rfl
@[simp] theorem State.updGroup_bank (s : State) (n : Nat) (f : GroupCtrs → GroupCtrs) : (s.updGroup n f).bank = s.bank := rfl
@[simp] theorem State.updGroup_dipAreas (s : State) (n : Nat) (f : GroupCtrs → GroupCtrs) : (s.updGroup n f).dipAreas = s.dipAreas := rfl
@[simp] theorem State.updGroup_log (s : State) (n : Nat) (f : GroupCtrs → GroupCtrs) : (s.updGroup n f).log = s.log := rfl
@[simp] theorem State.updGroup_recov (s : State) (n : Nat) (f : GroupCtrs → GroupCtrs) : (s.updGroup n f).recov = s.recov := rfl
@[simp] theorem State.updGroup_spare (s : State) (n : Nat) (f : GroupCtrs → GroupCtrs) : (s.updGroup n f).spare = s.spare := rfl
@[simp] theorem State.updGroup_tiles (s : State) (n : Nat) (f : GroupCtrs → GroupCtrs) : (s.updGroup n f).tiles = s.tiles := rfl
@[simp] theorem State.updGroup_arbs (s : State) (n : Nat) (f : GroupCtrs → GroupCtrs) : (s.updGroup n f).arbs = s.arbs := rfl
@[simp] theorem State.updGroup_queues (s : State) (n : Nat) (f : GroupCtrs → GroupCtrs) : (s.updGroup n f).queues = s.queues := rfl
@[simp] theorem State.updGroup_pools (s : State) (n : Nat) (f : GroupCtrs → GroupCtrs) : (s.updGroup n f).pools = s.pools := rfl
@[simp] theorem State.updGroup_fly (s : State) (n : Nat) (f : GroupCtrs → GroupCtrs) : (s.updGroup n f).fly = s.fly := rfl
@[simp] theorem State.updGroup_passes (s : State) (n : Nat) (f : GroupCtrs → GroupCtrs) : (s.updGroup n f).passes = s.passes := rfl
@[simp] theorem State.updGroup_nextPass (s : State) (n : Nat) (f : GroupCtrs → GroupCtrs) : (s.updGroup n f).nextPass = s.nextPass := rfl
@[simp] theorem State.updGroup_dram (s : State) (n : Nat) (f : GroupCtrs → GroupCtrs) : (s.updGroup n f).dram = s.dram := rfl
@[simp] theorem State.updGroup_caches (s : State) (n : Nat) (f : GroupCtrs → GroupCtrs) : (s.updGroup n f).caches = s.caches := rfl
@[simp] theorem State.updGroup_carts (s : State) (n : Nat) (f : GroupCtrs → GroupCtrs) : (s.updGroup n f).carts = s.carts := rfl
@[simp] theorem State.updGroup_memSet (s : State) (n : Nat) (f : GroupCtrs → GroupCtrs) : (s.updGroup n f).memSet = s.memSet := rfl
@[simp] theorem State.updGroup_chips (s : State) (n : Nat) (f : GroupCtrs → GroupCtrs) : (s.updGroup n f).chips = s.chips := rfl
@[simp] theorem State.updGroup_exTimeout (s : State) (n : Nat) (f : GroupCtrs → GroupCtrs) : (s.updGroup n f).exTimeout = s.exTimeout := rfl
@[simp] theorem State.updGroup_ports (s : State) (n : Nat) (f : GroupCtrs → GroupCtrs) : (s.updGroup n f).ports = s.ports := rfl
@[simp] theorem State.updGroup_ring (s : State) (n : Nat) (f : GroupCtrs → GroupCtrs) : (s.updGroup n f).ring = s.ring := rfl
@[simp] theorem State.updGroup_link (s : State) (n : Nat) (f : GroupCtrs → GroupCtrs) : (s.updGroup n f).link = s.link := rfl
@[simp] theorem State.updGroup_topo (s : State) (n : Nat) (f : GroupCtrs → GroupCtrs) : (s.updGroup n f).topo = s.topo := rfl
@[simp] theorem State.updGroup_spaces (s : State) (n : Nat) (f : GroupCtrs → GroupCtrs) : (s.updGroup n f).spaces = s.spaces := rfl
@[simp] theorem State.updGroup_slots (s : State) (n : Nat) (f : GroupCtrs → GroupCtrs) : (s.updGroup n f).slots = s.slots := rfl
@[simp] theorem State.updGroup_fw (s : State) (n : Nat) (f : GroupCtrs → GroupCtrs) : (s.updGroup n f).fw = s.fw := rfl
@[simp] theorem State.updGroup_keys (s : State) (n : Nat) (f : GroupCtrs → GroupCtrs) : (s.updGroup n f).keys = s.keys := rfl
@[simp] theorem State.updGroup_offers (s : State) (n : Nat) (f : GroupCtrs → GroupCtrs) : (s.updGroup n f).offers = s.offers := rfl
@[simp] theorem State.updGroup_modAttest (s : State) (n : Nat) (f : GroupCtrs → GroupCtrs) : (s.updGroup n f).modAttest = s.modAttest := rfl
@[simp] theorem State.updGroup_energy (s : State) (n : Nat) (f : GroupCtrs → GroupCtrs) : (s.updGroup n f).energy = s.energy := rfl
@[simp] theorem State.updGroup_boxes (s : State) (n : Nat) (f : GroupCtrs → GroupCtrs) : (s.updGroup n f).boxes = s.boxes := rfl
@[simp] theorem State.updGroup_qps (s : State) (n : Nat) (f : GroupCtrs → GroupCtrs) : (s.updGroup n f).qps = s.qps := rfl
@[simp] theorem State.updGroup_blobs (s : State) (n : Nat) (f : GroupCtrs → GroupCtrs) : (s.updGroup n f).blobs = s.blobs := rfl
@[simp] theorem State.updGroup_mgmt (s : State) (n : Nat) (f : GroupCtrs → GroupCtrs) : (s.updGroup n f).mgmt = s.mgmt := rfl
@[simp] theorem State.updGroup_peerNonce (s : State) (n : Nat) (f : GroupCtrs → GroupCtrs) : (s.updGroup n f).peerNonce = s.peerNonce := rfl
@[simp] theorem State.updGroup_peerChain (s : State) (n : Nat) (f : GroupCtrs → GroupCtrs) : (s.updGroup n f).peerChain = s.peerChain := rfl
@[simp] theorem State.updGroup_test (s : State) (n : Nat) (f : GroupCtrs → GroupCtrs) : (s.updGroup n f).test = s.test := rfl

/-! `State.updPort` changes ports. -/

@[simp] theorem State.updPort_pending (s : State) (k : Nat) (f : Port → Port) : (s.updPort k f).pending = s.pending := rfl
@[simp] theorem State.updPort_free (s : State) (k : Nat) (f : Port → Port) : (s.updPort k f).free = s.free := rfl
@[simp] theorem State.updPort_out (s : State) (k : Nat) (f : Port → Port) : (s.updPort k f).out = s.out := rfl
@[simp] theorem State.updPort_mod (s : State) (k : Nat) (f : Port → Port) : (s.updPort k f).mod = s.mod := rfl
@[simp] theorem State.updPort_pins (s : State) (k : Nat) (f : Port → Port) : (s.updPort k f).pins = s.pins := rfl
@[simp] theorem State.updPort_prov (s : State) (k : Nat) (f : Port → Port) : (s.updPort k f).prov = s.prov := rfl
@[simp] theorem State.updPort_oscs (s : State) (k : Nat) (f : Port → Port) : (s.updPort k f).oscs = s.oscs := rfl
@[simp] theorem State.updPort_doms (s : State) (k : Nat) (f : Port → Port) : (s.updPort k f).doms = s.doms := rfl
@[simp] theorem State.updPort_corrections (s : State) (k : Nat) (f : Port → Port) : (s.updPort k f).corrections = s.corrections := rfl
@[simp] theorem State.updPort_crossings (s : State) (k : Nat) (f : Port → Port) : (s.updPort k f).crossings = s.crossings := rfl
@[simp] theorem State.updPort_power (s : State) (k : Nat) (f : Port → Port) : (s.updPort k f).power = s.power := rfl
@[simp] theorem State.updPort_dip (s : State) (k : Nat) (f : Port → Port) : (s.updPort k f).dip = s.dip := rfl
@[simp] theorem State.updPort_bank (s : State) (k : Nat) (f : Port → Port) : (s.updPort k f).bank = s.bank := rfl
@[simp] theorem State.updPort_dipAreas (s : State) (k : Nat) (f : Port → Port) : (s.updPort k f).dipAreas = s.dipAreas := rfl
@[simp] theorem State.updPort_log (s : State) (k : Nat) (f : Port → Port) : (s.updPort k f).log = s.log := rfl
@[simp] theorem State.updPort_recov (s : State) (k : Nat) (f : Port → Port) : (s.updPort k f).recov = s.recov := rfl
@[simp] theorem State.updPort_spare (s : State) (k : Nat) (f : Port → Port) : (s.updPort k f).spare = s.spare := rfl
@[simp] theorem State.updPort_tiles (s : State) (k : Nat) (f : Port → Port) : (s.updPort k f).tiles = s.tiles := rfl
@[simp] theorem State.updPort_groups (s : State) (k : Nat) (f : Port → Port) : (s.updPort k f).groups = s.groups := rfl
@[simp] theorem State.updPort_arbs (s : State) (k : Nat) (f : Port → Port) : (s.updPort k f).arbs = s.arbs := rfl
@[simp] theorem State.updPort_queues (s : State) (k : Nat) (f : Port → Port) : (s.updPort k f).queues = s.queues := rfl
@[simp] theorem State.updPort_pools (s : State) (k : Nat) (f : Port → Port) : (s.updPort k f).pools = s.pools := rfl
@[simp] theorem State.updPort_fly (s : State) (k : Nat) (f : Port → Port) : (s.updPort k f).fly = s.fly := rfl
@[simp] theorem State.updPort_passes (s : State) (k : Nat) (f : Port → Port) : (s.updPort k f).passes = s.passes := rfl
@[simp] theorem State.updPort_nextPass (s : State) (k : Nat) (f : Port → Port) : (s.updPort k f).nextPass = s.nextPass := rfl
@[simp] theorem State.updPort_dram (s : State) (k : Nat) (f : Port → Port) : (s.updPort k f).dram = s.dram := rfl
@[simp] theorem State.updPort_caches (s : State) (k : Nat) (f : Port → Port) : (s.updPort k f).caches = s.caches := rfl
@[simp] theorem State.updPort_carts (s : State) (k : Nat) (f : Port → Port) : (s.updPort k f).carts = s.carts := rfl
@[simp] theorem State.updPort_memSet (s : State) (k : Nat) (f : Port → Port) : (s.updPort k f).memSet = s.memSet := rfl
@[simp] theorem State.updPort_chips (s : State) (k : Nat) (f : Port → Port) : (s.updPort k f).chips = s.chips := rfl
@[simp] theorem State.updPort_exTimeout (s : State) (k : Nat) (f : Port → Port) : (s.updPort k f).exTimeout = s.exTimeout := rfl
@[simp] theorem State.updPort_ring (s : State) (k : Nat) (f : Port → Port) : (s.updPort k f).ring = s.ring := rfl
@[simp] theorem State.updPort_link (s : State) (k : Nat) (f : Port → Port) : (s.updPort k f).link = s.link := rfl
@[simp] theorem State.updPort_topo (s : State) (k : Nat) (f : Port → Port) : (s.updPort k f).topo = s.topo := rfl
@[simp] theorem State.updPort_spaces (s : State) (k : Nat) (f : Port → Port) : (s.updPort k f).spaces = s.spaces := rfl
@[simp] theorem State.updPort_slots (s : State) (k : Nat) (f : Port → Port) : (s.updPort k f).slots = s.slots := rfl
@[simp] theorem State.updPort_fw (s : State) (k : Nat) (f : Port → Port) : (s.updPort k f).fw = s.fw := rfl
@[simp] theorem State.updPort_keys (s : State) (k : Nat) (f : Port → Port) : (s.updPort k f).keys = s.keys := rfl
@[simp] theorem State.updPort_offers (s : State) (k : Nat) (f : Port → Port) : (s.updPort k f).offers = s.offers := rfl
@[simp] theorem State.updPort_modAttest (s : State) (k : Nat) (f : Port → Port) : (s.updPort k f).modAttest = s.modAttest := rfl
@[simp] theorem State.updPort_energy (s : State) (k : Nat) (f : Port → Port) : (s.updPort k f).energy = s.energy := rfl
@[simp] theorem State.updPort_boxes (s : State) (k : Nat) (f : Port → Port) : (s.updPort k f).boxes = s.boxes := rfl
@[simp] theorem State.updPort_qps (s : State) (k : Nat) (f : Port → Port) : (s.updPort k f).qps = s.qps := rfl
@[simp] theorem State.updPort_blobs (s : State) (k : Nat) (f : Port → Port) : (s.updPort k f).blobs = s.blobs := rfl
@[simp] theorem State.updPort_mgmt (s : State) (k : Nat) (f : Port → Port) : (s.updPort k f).mgmt = s.mgmt := rfl
@[simp] theorem State.updPort_peerNonce (s : State) (k : Nat) (f : Port → Port) : (s.updPort k f).peerNonce = s.peerNonce := rfl
@[simp] theorem State.updPort_peerChain (s : State) (k : Nat) (f : Port → Port) : (s.updPort k f).peerChain = s.peerChain := rfl
@[simp] theorem State.updPort_test (s : State) (k : Nat) (f : Port → Port) : (s.updPort k f).test = s.test := rfl

/-! `State.updDom` changes doms. -/

@[simp] theorem State.updDom_pending (s : State) (d : Nat) (f : Domain → Domain) : (s.updDom d f).pending = s.pending := rfl
@[simp] theorem State.updDom_free (s : State) (d : Nat) (f : Domain → Domain) : (s.updDom d f).free = s.free := rfl
@[simp] theorem State.updDom_out (s : State) (d : Nat) (f : Domain → Domain) : (s.updDom d f).out = s.out := rfl
@[simp] theorem State.updDom_mod (s : State) (d : Nat) (f : Domain → Domain) : (s.updDom d f).mod = s.mod := rfl
@[simp] theorem State.updDom_pins (s : State) (d : Nat) (f : Domain → Domain) : (s.updDom d f).pins = s.pins := rfl
@[simp] theorem State.updDom_prov (s : State) (d : Nat) (f : Domain → Domain) : (s.updDom d f).prov = s.prov := rfl
@[simp] theorem State.updDom_oscs (s : State) (d : Nat) (f : Domain → Domain) : (s.updDom d f).oscs = s.oscs := rfl
@[simp] theorem State.updDom_corrections (s : State) (d : Nat) (f : Domain → Domain) : (s.updDom d f).corrections = s.corrections := rfl
@[simp] theorem State.updDom_crossings (s : State) (d : Nat) (f : Domain → Domain) : (s.updDom d f).crossings = s.crossings := rfl
@[simp] theorem State.updDom_power (s : State) (d : Nat) (f : Domain → Domain) : (s.updDom d f).power = s.power := rfl
@[simp] theorem State.updDom_dip (s : State) (d : Nat) (f : Domain → Domain) : (s.updDom d f).dip = s.dip := rfl
@[simp] theorem State.updDom_bank (s : State) (d : Nat) (f : Domain → Domain) : (s.updDom d f).bank = s.bank := rfl
@[simp] theorem State.updDom_dipAreas (s : State) (d : Nat) (f : Domain → Domain) : (s.updDom d f).dipAreas = s.dipAreas := rfl
@[simp] theorem State.updDom_log (s : State) (d : Nat) (f : Domain → Domain) : (s.updDom d f).log = s.log := rfl
@[simp] theorem State.updDom_recov (s : State) (d : Nat) (f : Domain → Domain) : (s.updDom d f).recov = s.recov := rfl
@[simp] theorem State.updDom_spare (s : State) (d : Nat) (f : Domain → Domain) : (s.updDom d f).spare = s.spare := rfl
@[simp] theorem State.updDom_tiles (s : State) (d : Nat) (f : Domain → Domain) : (s.updDom d f).tiles = s.tiles := rfl
@[simp] theorem State.updDom_groups (s : State) (d : Nat) (f : Domain → Domain) : (s.updDom d f).groups = s.groups := rfl
@[simp] theorem State.updDom_arbs (s : State) (d : Nat) (f : Domain → Domain) : (s.updDom d f).arbs = s.arbs := rfl
@[simp] theorem State.updDom_queues (s : State) (d : Nat) (f : Domain → Domain) : (s.updDom d f).queues = s.queues := rfl
@[simp] theorem State.updDom_pools (s : State) (d : Nat) (f : Domain → Domain) : (s.updDom d f).pools = s.pools := rfl
@[simp] theorem State.updDom_fly (s : State) (d : Nat) (f : Domain → Domain) : (s.updDom d f).fly = s.fly := rfl
@[simp] theorem State.updDom_passes (s : State) (d : Nat) (f : Domain → Domain) : (s.updDom d f).passes = s.passes := rfl
@[simp] theorem State.updDom_nextPass (s : State) (d : Nat) (f : Domain → Domain) : (s.updDom d f).nextPass = s.nextPass := rfl
@[simp] theorem State.updDom_dram (s : State) (d : Nat) (f : Domain → Domain) : (s.updDom d f).dram = s.dram := rfl
@[simp] theorem State.updDom_caches (s : State) (d : Nat) (f : Domain → Domain) : (s.updDom d f).caches = s.caches := rfl
@[simp] theorem State.updDom_carts (s : State) (d : Nat) (f : Domain → Domain) : (s.updDom d f).carts = s.carts := rfl
@[simp] theorem State.updDom_memSet (s : State) (d : Nat) (f : Domain → Domain) : (s.updDom d f).memSet = s.memSet := rfl
@[simp] theorem State.updDom_chips (s : State) (d : Nat) (f : Domain → Domain) : (s.updDom d f).chips = s.chips := rfl
@[simp] theorem State.updDom_exTimeout (s : State) (d : Nat) (f : Domain → Domain) : (s.updDom d f).exTimeout = s.exTimeout := rfl
@[simp] theorem State.updDom_ports (s : State) (d : Nat) (f : Domain → Domain) : (s.updDom d f).ports = s.ports := rfl
@[simp] theorem State.updDom_ring (s : State) (d : Nat) (f : Domain → Domain) : (s.updDom d f).ring = s.ring := rfl
@[simp] theorem State.updDom_link (s : State) (d : Nat) (f : Domain → Domain) : (s.updDom d f).link = s.link := rfl
@[simp] theorem State.updDom_topo (s : State) (d : Nat) (f : Domain → Domain) : (s.updDom d f).topo = s.topo := rfl
@[simp] theorem State.updDom_spaces (s : State) (d : Nat) (f : Domain → Domain) : (s.updDom d f).spaces = s.spaces := rfl
@[simp] theorem State.updDom_slots (s : State) (d : Nat) (f : Domain → Domain) : (s.updDom d f).slots = s.slots := rfl
@[simp] theorem State.updDom_fw (s : State) (d : Nat) (f : Domain → Domain) : (s.updDom d f).fw = s.fw := rfl
@[simp] theorem State.updDom_keys (s : State) (d : Nat) (f : Domain → Domain) : (s.updDom d f).keys = s.keys := rfl
@[simp] theorem State.updDom_offers (s : State) (d : Nat) (f : Domain → Domain) : (s.updDom d f).offers = s.offers := rfl
@[simp] theorem State.updDom_modAttest (s : State) (d : Nat) (f : Domain → Domain) : (s.updDom d f).modAttest = s.modAttest := rfl
@[simp] theorem State.updDom_energy (s : State) (d : Nat) (f : Domain → Domain) : (s.updDom d f).energy = s.energy := rfl
@[simp] theorem State.updDom_boxes (s : State) (d : Nat) (f : Domain → Domain) : (s.updDom d f).boxes = s.boxes := rfl
@[simp] theorem State.updDom_qps (s : State) (d : Nat) (f : Domain → Domain) : (s.updDom d f).qps = s.qps := rfl
@[simp] theorem State.updDom_blobs (s : State) (d : Nat) (f : Domain → Domain) : (s.updDom d f).blobs = s.blobs := rfl
@[simp] theorem State.updDom_mgmt (s : State) (d : Nat) (f : Domain → Domain) : (s.updDom d f).mgmt = s.mgmt := rfl
@[simp] theorem State.updDom_peerNonce (s : State) (d : Nat) (f : Domain → Domain) : (s.updDom d f).peerNonce = s.peerNonce := rfl
@[simp] theorem State.updDom_peerChain (s : State) (d : Nat) (f : Domain → Domain) : (s.updDom d f).peerChain = s.peerChain := rfl
@[simp] theorem State.updDom_test (s : State) (d : Nat) (f : Domain → Domain) : (s.updDom d f).test = s.test := rfl

/-! `State.updOsc` changes oscs. -/

@[simp] theorem State.updOsc_pending (s : State) (n : Nat) (f : Osc → Osc) : (s.updOsc n f).pending = s.pending := rfl
@[simp] theorem State.updOsc_free (s : State) (n : Nat) (f : Osc → Osc) : (s.updOsc n f).free = s.free := rfl
@[simp] theorem State.updOsc_out (s : State) (n : Nat) (f : Osc → Osc) : (s.updOsc n f).out = s.out := rfl
@[simp] theorem State.updOsc_mod (s : State) (n : Nat) (f : Osc → Osc) : (s.updOsc n f).mod = s.mod := rfl
@[simp] theorem State.updOsc_pins (s : State) (n : Nat) (f : Osc → Osc) : (s.updOsc n f).pins = s.pins := rfl
@[simp] theorem State.updOsc_prov (s : State) (n : Nat) (f : Osc → Osc) : (s.updOsc n f).prov = s.prov := rfl
@[simp] theorem State.updOsc_doms (s : State) (n : Nat) (f : Osc → Osc) : (s.updOsc n f).doms = s.doms := rfl
@[simp] theorem State.updOsc_corrections (s : State) (n : Nat) (f : Osc → Osc) : (s.updOsc n f).corrections = s.corrections := rfl
@[simp] theorem State.updOsc_crossings (s : State) (n : Nat) (f : Osc → Osc) : (s.updOsc n f).crossings = s.crossings := rfl
@[simp] theorem State.updOsc_power (s : State) (n : Nat) (f : Osc → Osc) : (s.updOsc n f).power = s.power := rfl
@[simp] theorem State.updOsc_dip (s : State) (n : Nat) (f : Osc → Osc) : (s.updOsc n f).dip = s.dip := rfl
@[simp] theorem State.updOsc_bank (s : State) (n : Nat) (f : Osc → Osc) : (s.updOsc n f).bank = s.bank := rfl
@[simp] theorem State.updOsc_dipAreas (s : State) (n : Nat) (f : Osc → Osc) : (s.updOsc n f).dipAreas = s.dipAreas := rfl
@[simp] theorem State.updOsc_log (s : State) (n : Nat) (f : Osc → Osc) : (s.updOsc n f).log = s.log := rfl
@[simp] theorem State.updOsc_recov (s : State) (n : Nat) (f : Osc → Osc) : (s.updOsc n f).recov = s.recov := rfl
@[simp] theorem State.updOsc_spare (s : State) (n : Nat) (f : Osc → Osc) : (s.updOsc n f).spare = s.spare := rfl
@[simp] theorem State.updOsc_tiles (s : State) (n : Nat) (f : Osc → Osc) : (s.updOsc n f).tiles = s.tiles := rfl
@[simp] theorem State.updOsc_groups (s : State) (n : Nat) (f : Osc → Osc) : (s.updOsc n f).groups = s.groups := rfl
@[simp] theorem State.updOsc_arbs (s : State) (n : Nat) (f : Osc → Osc) : (s.updOsc n f).arbs = s.arbs := rfl
@[simp] theorem State.updOsc_queues (s : State) (n : Nat) (f : Osc → Osc) : (s.updOsc n f).queues = s.queues := rfl
@[simp] theorem State.updOsc_pools (s : State) (n : Nat) (f : Osc → Osc) : (s.updOsc n f).pools = s.pools := rfl
@[simp] theorem State.updOsc_fly (s : State) (n : Nat) (f : Osc → Osc) : (s.updOsc n f).fly = s.fly := rfl
@[simp] theorem State.updOsc_passes (s : State) (n : Nat) (f : Osc → Osc) : (s.updOsc n f).passes = s.passes := rfl
@[simp] theorem State.updOsc_nextPass (s : State) (n : Nat) (f : Osc → Osc) : (s.updOsc n f).nextPass = s.nextPass := rfl
@[simp] theorem State.updOsc_dram (s : State) (n : Nat) (f : Osc → Osc) : (s.updOsc n f).dram = s.dram := rfl
@[simp] theorem State.updOsc_caches (s : State) (n : Nat) (f : Osc → Osc) : (s.updOsc n f).caches = s.caches := rfl
@[simp] theorem State.updOsc_carts (s : State) (n : Nat) (f : Osc → Osc) : (s.updOsc n f).carts = s.carts := rfl
@[simp] theorem State.updOsc_memSet (s : State) (n : Nat) (f : Osc → Osc) : (s.updOsc n f).memSet = s.memSet := rfl
@[simp] theorem State.updOsc_chips (s : State) (n : Nat) (f : Osc → Osc) : (s.updOsc n f).chips = s.chips := rfl
@[simp] theorem State.updOsc_exTimeout (s : State) (n : Nat) (f : Osc → Osc) : (s.updOsc n f).exTimeout = s.exTimeout := rfl
@[simp] theorem State.updOsc_ports (s : State) (n : Nat) (f : Osc → Osc) : (s.updOsc n f).ports = s.ports := rfl
@[simp] theorem State.updOsc_ring (s : State) (n : Nat) (f : Osc → Osc) : (s.updOsc n f).ring = s.ring := rfl
@[simp] theorem State.updOsc_link (s : State) (n : Nat) (f : Osc → Osc) : (s.updOsc n f).link = s.link := rfl
@[simp] theorem State.updOsc_topo (s : State) (n : Nat) (f : Osc → Osc) : (s.updOsc n f).topo = s.topo := rfl
@[simp] theorem State.updOsc_spaces (s : State) (n : Nat) (f : Osc → Osc) : (s.updOsc n f).spaces = s.spaces := rfl
@[simp] theorem State.updOsc_slots (s : State) (n : Nat) (f : Osc → Osc) : (s.updOsc n f).slots = s.slots := rfl
@[simp] theorem State.updOsc_fw (s : State) (n : Nat) (f : Osc → Osc) : (s.updOsc n f).fw = s.fw := rfl
@[simp] theorem State.updOsc_keys (s : State) (n : Nat) (f : Osc → Osc) : (s.updOsc n f).keys = s.keys := rfl
@[simp] theorem State.updOsc_offers (s : State) (n : Nat) (f : Osc → Osc) : (s.updOsc n f).offers = s.offers := rfl
@[simp] theorem State.updOsc_modAttest (s : State) (n : Nat) (f : Osc → Osc) : (s.updOsc n f).modAttest = s.modAttest := rfl
@[simp] theorem State.updOsc_energy (s : State) (n : Nat) (f : Osc → Osc) : (s.updOsc n f).energy = s.energy := rfl
@[simp] theorem State.updOsc_boxes (s : State) (n : Nat) (f : Osc → Osc) : (s.updOsc n f).boxes = s.boxes := rfl
@[simp] theorem State.updOsc_qps (s : State) (n : Nat) (f : Osc → Osc) : (s.updOsc n f).qps = s.qps := rfl
@[simp] theorem State.updOsc_blobs (s : State) (n : Nat) (f : Osc → Osc) : (s.updOsc n f).blobs = s.blobs := rfl
@[simp] theorem State.updOsc_mgmt (s : State) (n : Nat) (f : Osc → Osc) : (s.updOsc n f).mgmt = s.mgmt := rfl
@[simp] theorem State.updOsc_peerNonce (s : State) (n : Nat) (f : Osc → Osc) : (s.updOsc n f).peerNonce = s.peerNonce := rfl
@[simp] theorem State.updOsc_peerChain (s : State) (n : Nat) (f : Osc → Osc) : (s.updOsc n f).peerChain = s.peerChain := rfl
@[simp] theorem State.updOsc_test (s : State) (n : Nat) (f : Osc → Osc) : (s.updOsc n f).test = s.test := rfl

/-! `State.putCrossing` changes crossings. -/

@[simp] theorem State.putCrossing_pending (s : State) (c : Crossing) : (s.putCrossing c).pending = s.pending := rfl
@[simp] theorem State.putCrossing_free (s : State) (c : Crossing) : (s.putCrossing c).free = s.free := rfl
@[simp] theorem State.putCrossing_out (s : State) (c : Crossing) : (s.putCrossing c).out = s.out := rfl
@[simp] theorem State.putCrossing_mod (s : State) (c : Crossing) : (s.putCrossing c).mod = s.mod := rfl
@[simp] theorem State.putCrossing_pins (s : State) (c : Crossing) : (s.putCrossing c).pins = s.pins := rfl
@[simp] theorem State.putCrossing_prov (s : State) (c : Crossing) : (s.putCrossing c).prov = s.prov := rfl
@[simp] theorem State.putCrossing_oscs (s : State) (c : Crossing) : (s.putCrossing c).oscs = s.oscs := rfl
@[simp] theorem State.putCrossing_doms (s : State) (c : Crossing) : (s.putCrossing c).doms = s.doms := rfl
@[simp] theorem State.putCrossing_corrections (s : State) (c : Crossing) : (s.putCrossing c).corrections = s.corrections := rfl
@[simp] theorem State.putCrossing_power (s : State) (c : Crossing) : (s.putCrossing c).power = s.power := rfl
@[simp] theorem State.putCrossing_dip (s : State) (c : Crossing) : (s.putCrossing c).dip = s.dip := rfl
@[simp] theorem State.putCrossing_bank (s : State) (c : Crossing) : (s.putCrossing c).bank = s.bank := rfl
@[simp] theorem State.putCrossing_dipAreas (s : State) (c : Crossing) : (s.putCrossing c).dipAreas = s.dipAreas := rfl
@[simp] theorem State.putCrossing_log (s : State) (c : Crossing) : (s.putCrossing c).log = s.log := rfl
@[simp] theorem State.putCrossing_recov (s : State) (c : Crossing) : (s.putCrossing c).recov = s.recov := rfl
@[simp] theorem State.putCrossing_spare (s : State) (c : Crossing) : (s.putCrossing c).spare = s.spare := rfl
@[simp] theorem State.putCrossing_tiles (s : State) (c : Crossing) : (s.putCrossing c).tiles = s.tiles := rfl
@[simp] theorem State.putCrossing_groups (s : State) (c : Crossing) : (s.putCrossing c).groups = s.groups := rfl
@[simp] theorem State.putCrossing_arbs (s : State) (c : Crossing) : (s.putCrossing c).arbs = s.arbs := rfl
@[simp] theorem State.putCrossing_queues (s : State) (c : Crossing) : (s.putCrossing c).queues = s.queues := rfl
@[simp] theorem State.putCrossing_pools (s : State) (c : Crossing) : (s.putCrossing c).pools = s.pools := rfl
@[simp] theorem State.putCrossing_fly (s : State) (c : Crossing) : (s.putCrossing c).fly = s.fly := rfl
@[simp] theorem State.putCrossing_passes (s : State) (c : Crossing) : (s.putCrossing c).passes = s.passes := rfl
@[simp] theorem State.putCrossing_nextPass (s : State) (c : Crossing) : (s.putCrossing c).nextPass = s.nextPass := rfl
@[simp] theorem State.putCrossing_dram (s : State) (c : Crossing) : (s.putCrossing c).dram = s.dram := rfl
@[simp] theorem State.putCrossing_caches (s : State) (c : Crossing) : (s.putCrossing c).caches = s.caches := rfl
@[simp] theorem State.putCrossing_carts (s : State) (c : Crossing) : (s.putCrossing c).carts = s.carts := rfl
@[simp] theorem State.putCrossing_memSet (s : State) (c : Crossing) : (s.putCrossing c).memSet = s.memSet := rfl
@[simp] theorem State.putCrossing_chips (s : State) (c : Crossing) : (s.putCrossing c).chips = s.chips := rfl
@[simp] theorem State.putCrossing_exTimeout (s : State) (c : Crossing) : (s.putCrossing c).exTimeout = s.exTimeout := rfl
@[simp] theorem State.putCrossing_ports (s : State) (c : Crossing) : (s.putCrossing c).ports = s.ports := rfl
@[simp] theorem State.putCrossing_ring (s : State) (c : Crossing) : (s.putCrossing c).ring = s.ring := rfl
@[simp] theorem State.putCrossing_link (s : State) (c : Crossing) : (s.putCrossing c).link = s.link := rfl
@[simp] theorem State.putCrossing_topo (s : State) (c : Crossing) : (s.putCrossing c).topo = s.topo := rfl
@[simp] theorem State.putCrossing_spaces (s : State) (c : Crossing) : (s.putCrossing c).spaces = s.spaces := rfl
@[simp] theorem State.putCrossing_slots (s : State) (c : Crossing) : (s.putCrossing c).slots = s.slots := rfl
@[simp] theorem State.putCrossing_fw (s : State) (c : Crossing) : (s.putCrossing c).fw = s.fw := rfl
@[simp] theorem State.putCrossing_keys (s : State) (c : Crossing) : (s.putCrossing c).keys = s.keys := rfl
@[simp] theorem State.putCrossing_offers (s : State) (c : Crossing) : (s.putCrossing c).offers = s.offers := rfl
@[simp] theorem State.putCrossing_modAttest (s : State) (c : Crossing) : (s.putCrossing c).modAttest = s.modAttest := rfl
@[simp] theorem State.putCrossing_energy (s : State) (c : Crossing) : (s.putCrossing c).energy = s.energy := rfl
@[simp] theorem State.putCrossing_boxes (s : State) (c : Crossing) : (s.putCrossing c).boxes = s.boxes := rfl
@[simp] theorem State.putCrossing_qps (s : State) (c : Crossing) : (s.putCrossing c).qps = s.qps := rfl
@[simp] theorem State.putCrossing_blobs (s : State) (c : Crossing) : (s.putCrossing c).blobs = s.blobs := rfl
@[simp] theorem State.putCrossing_mgmt (s : State) (c : Crossing) : (s.putCrossing c).mgmt = s.mgmt := rfl
@[simp] theorem State.putCrossing_peerNonce (s : State) (c : Crossing) : (s.putCrossing c).peerNonce = s.peerNonce := rfl
@[simp] theorem State.putCrossing_peerChain (s : State) (c : Crossing) : (s.putCrossing c).peerChain = s.peerChain := rfl
@[simp] theorem State.putCrossing_test (s : State) (c : Crossing) : (s.putCrossing c).test = s.test := rfl

/-! `State.updPass` changes passes. -/

@[simp] theorem State.updPass_pending (s : State) (i : Nat) (f : Pass → Pass) : (s.updPass i f).pending = s.pending := rfl
@[simp] theorem State.updPass_free (s : State) (i : Nat) (f : Pass → Pass) : (s.updPass i f).free = s.free := rfl
@[simp] theorem State.updPass_out (s : State) (i : Nat) (f : Pass → Pass) : (s.updPass i f).out = s.out := rfl
@[simp] theorem State.updPass_mod (s : State) (i : Nat) (f : Pass → Pass) : (s.updPass i f).mod = s.mod := rfl
@[simp] theorem State.updPass_pins (s : State) (i : Nat) (f : Pass → Pass) : (s.updPass i f).pins = s.pins := rfl
@[simp] theorem State.updPass_prov (s : State) (i : Nat) (f : Pass → Pass) : (s.updPass i f).prov = s.prov := rfl
@[simp] theorem State.updPass_oscs (s : State) (i : Nat) (f : Pass → Pass) : (s.updPass i f).oscs = s.oscs := rfl
@[simp] theorem State.updPass_doms (s : State) (i : Nat) (f : Pass → Pass) : (s.updPass i f).doms = s.doms := rfl
@[simp] theorem State.updPass_corrections (s : State) (i : Nat) (f : Pass → Pass) : (s.updPass i f).corrections = s.corrections := rfl
@[simp] theorem State.updPass_crossings (s : State) (i : Nat) (f : Pass → Pass) : (s.updPass i f).crossings = s.crossings := rfl
@[simp] theorem State.updPass_power (s : State) (i : Nat) (f : Pass → Pass) : (s.updPass i f).power = s.power := rfl
@[simp] theorem State.updPass_dip (s : State) (i : Nat) (f : Pass → Pass) : (s.updPass i f).dip = s.dip := rfl
@[simp] theorem State.updPass_bank (s : State) (i : Nat) (f : Pass → Pass) : (s.updPass i f).bank = s.bank := rfl
@[simp] theorem State.updPass_dipAreas (s : State) (i : Nat) (f : Pass → Pass) : (s.updPass i f).dipAreas = s.dipAreas := rfl
@[simp] theorem State.updPass_log (s : State) (i : Nat) (f : Pass → Pass) : (s.updPass i f).log = s.log := rfl
@[simp] theorem State.updPass_recov (s : State) (i : Nat) (f : Pass → Pass) : (s.updPass i f).recov = s.recov := rfl
@[simp] theorem State.updPass_spare (s : State) (i : Nat) (f : Pass → Pass) : (s.updPass i f).spare = s.spare := rfl
@[simp] theorem State.updPass_tiles (s : State) (i : Nat) (f : Pass → Pass) : (s.updPass i f).tiles = s.tiles := rfl
@[simp] theorem State.updPass_groups (s : State) (i : Nat) (f : Pass → Pass) : (s.updPass i f).groups = s.groups := rfl
@[simp] theorem State.updPass_arbs (s : State) (i : Nat) (f : Pass → Pass) : (s.updPass i f).arbs = s.arbs := rfl
@[simp] theorem State.updPass_queues (s : State) (i : Nat) (f : Pass → Pass) : (s.updPass i f).queues = s.queues := rfl
@[simp] theorem State.updPass_pools (s : State) (i : Nat) (f : Pass → Pass) : (s.updPass i f).pools = s.pools := rfl
@[simp] theorem State.updPass_fly (s : State) (i : Nat) (f : Pass → Pass) : (s.updPass i f).fly = s.fly := rfl
@[simp] theorem State.updPass_nextPass (s : State) (i : Nat) (f : Pass → Pass) : (s.updPass i f).nextPass = s.nextPass := rfl
@[simp] theorem State.updPass_dram (s : State) (i : Nat) (f : Pass → Pass) : (s.updPass i f).dram = s.dram := rfl
@[simp] theorem State.updPass_caches (s : State) (i : Nat) (f : Pass → Pass) : (s.updPass i f).caches = s.caches := rfl
@[simp] theorem State.updPass_carts (s : State) (i : Nat) (f : Pass → Pass) : (s.updPass i f).carts = s.carts := rfl
@[simp] theorem State.updPass_memSet (s : State) (i : Nat) (f : Pass → Pass) : (s.updPass i f).memSet = s.memSet := rfl
@[simp] theorem State.updPass_chips (s : State) (i : Nat) (f : Pass → Pass) : (s.updPass i f).chips = s.chips := rfl
@[simp] theorem State.updPass_exTimeout (s : State) (i : Nat) (f : Pass → Pass) : (s.updPass i f).exTimeout = s.exTimeout := rfl
@[simp] theorem State.updPass_ports (s : State) (i : Nat) (f : Pass → Pass) : (s.updPass i f).ports = s.ports := rfl
@[simp] theorem State.updPass_ring (s : State) (i : Nat) (f : Pass → Pass) : (s.updPass i f).ring = s.ring := rfl
@[simp] theorem State.updPass_link (s : State) (i : Nat) (f : Pass → Pass) : (s.updPass i f).link = s.link := rfl
@[simp] theorem State.updPass_topo (s : State) (i : Nat) (f : Pass → Pass) : (s.updPass i f).topo = s.topo := rfl
@[simp] theorem State.updPass_spaces (s : State) (i : Nat) (f : Pass → Pass) : (s.updPass i f).spaces = s.spaces := rfl
@[simp] theorem State.updPass_slots (s : State) (i : Nat) (f : Pass → Pass) : (s.updPass i f).slots = s.slots := rfl
@[simp] theorem State.updPass_fw (s : State) (i : Nat) (f : Pass → Pass) : (s.updPass i f).fw = s.fw := rfl
@[simp] theorem State.updPass_keys (s : State) (i : Nat) (f : Pass → Pass) : (s.updPass i f).keys = s.keys := rfl
@[simp] theorem State.updPass_offers (s : State) (i : Nat) (f : Pass → Pass) : (s.updPass i f).offers = s.offers := rfl
@[simp] theorem State.updPass_modAttest (s : State) (i : Nat) (f : Pass → Pass) : (s.updPass i f).modAttest = s.modAttest := rfl
@[simp] theorem State.updPass_energy (s : State) (i : Nat) (f : Pass → Pass) : (s.updPass i f).energy = s.energy := rfl
@[simp] theorem State.updPass_boxes (s : State) (i : Nat) (f : Pass → Pass) : (s.updPass i f).boxes = s.boxes := rfl
@[simp] theorem State.updPass_qps (s : State) (i : Nat) (f : Pass → Pass) : (s.updPass i f).qps = s.qps := rfl
@[simp] theorem State.updPass_blobs (s : State) (i : Nat) (f : Pass → Pass) : (s.updPass i f).blobs = s.blobs := rfl
@[simp] theorem State.updPass_mgmt (s : State) (i : Nat) (f : Pass → Pass) : (s.updPass i f).mgmt = s.mgmt := rfl
@[simp] theorem State.updPass_peerNonce (s : State) (i : Nat) (f : Pass → Pass) : (s.updPass i f).peerNonce = s.peerNonce := rfl
@[simp] theorem State.updPass_peerChain (s : State) (i : Nat) (f : Pass → Pass) : (s.updPass i f).peerChain = s.peerChain := rfl
@[simp] theorem State.updPass_test (s : State) (i : Nat) (f : Pass → Pass) : (s.updPass i f).test = s.test := rfl

/-! `State.answer` changes out and mgmt. -/

@[simp] theorem State.answer_pending (s : State) (st : Status) (d : Nat) : (s.answer st d).pending = s.pending := rfl
@[simp] theorem State.answer_free (s : State) (st : Status) (d : Nat) : (s.answer st d).free = s.free := rfl
@[simp] theorem State.answer_mod (s : State) (st : Status) (d : Nat) : (s.answer st d).mod = s.mod := rfl
@[simp] theorem State.answer_pins (s : State) (st : Status) (d : Nat) : (s.answer st d).pins = s.pins := rfl
@[simp] theorem State.answer_prov (s : State) (st : Status) (d : Nat) : (s.answer st d).prov = s.prov := rfl
@[simp] theorem State.answer_oscs (s : State) (st : Status) (d : Nat) : (s.answer st d).oscs = s.oscs := rfl
@[simp] theorem State.answer_doms (s : State) (st : Status) (d : Nat) : (s.answer st d).doms = s.doms := rfl
@[simp] theorem State.answer_corrections (s : State) (st : Status) (d : Nat) : (s.answer st d).corrections = s.corrections := rfl
@[simp] theorem State.answer_crossings (s : State) (st : Status) (d : Nat) : (s.answer st d).crossings = s.crossings := rfl
@[simp] theorem State.answer_power (s : State) (st : Status) (d : Nat) : (s.answer st d).power = s.power := rfl
@[simp] theorem State.answer_dip (s : State) (st : Status) (d : Nat) : (s.answer st d).dip = s.dip := rfl
@[simp] theorem State.answer_bank (s : State) (st : Status) (d : Nat) : (s.answer st d).bank = s.bank := rfl
@[simp] theorem State.answer_dipAreas (s : State) (st : Status) (d : Nat) : (s.answer st d).dipAreas = s.dipAreas := rfl
@[simp] theorem State.answer_log (s : State) (st : Status) (d : Nat) : (s.answer st d).log = s.log := rfl
@[simp] theorem State.answer_recov (s : State) (st : Status) (d : Nat) : (s.answer st d).recov = s.recov := rfl
@[simp] theorem State.answer_spare (s : State) (st : Status) (d : Nat) : (s.answer st d).spare = s.spare := rfl
@[simp] theorem State.answer_tiles (s : State) (st : Status) (d : Nat) : (s.answer st d).tiles = s.tiles := rfl
@[simp] theorem State.answer_groups (s : State) (st : Status) (d : Nat) : (s.answer st d).groups = s.groups := rfl
@[simp] theorem State.answer_arbs (s : State) (st : Status) (d : Nat) : (s.answer st d).arbs = s.arbs := rfl
@[simp] theorem State.answer_queues (s : State) (st : Status) (d : Nat) : (s.answer st d).queues = s.queues := rfl
@[simp] theorem State.answer_pools (s : State) (st : Status) (d : Nat) : (s.answer st d).pools = s.pools := rfl
@[simp] theorem State.answer_fly (s : State) (st : Status) (d : Nat) : (s.answer st d).fly = s.fly := rfl
@[simp] theorem State.answer_passes (s : State) (st : Status) (d : Nat) : (s.answer st d).passes = s.passes := rfl
@[simp] theorem State.answer_nextPass (s : State) (st : Status) (d : Nat) : (s.answer st d).nextPass = s.nextPass := rfl
@[simp] theorem State.answer_dram (s : State) (st : Status) (d : Nat) : (s.answer st d).dram = s.dram := rfl
@[simp] theorem State.answer_caches (s : State) (st : Status) (d : Nat) : (s.answer st d).caches = s.caches := rfl
@[simp] theorem State.answer_carts (s : State) (st : Status) (d : Nat) : (s.answer st d).carts = s.carts := rfl
@[simp] theorem State.answer_memSet (s : State) (st : Status) (d : Nat) : (s.answer st d).memSet = s.memSet := rfl
@[simp] theorem State.answer_chips (s : State) (st : Status) (d : Nat) : (s.answer st d).chips = s.chips := rfl
@[simp] theorem State.answer_exTimeout (s : State) (st : Status) (d : Nat) : (s.answer st d).exTimeout = s.exTimeout := rfl
@[simp] theorem State.answer_ports (s : State) (st : Status) (d : Nat) : (s.answer st d).ports = s.ports := rfl
@[simp] theorem State.answer_ring (s : State) (st : Status) (d : Nat) : (s.answer st d).ring = s.ring := rfl
@[simp] theorem State.answer_link (s : State) (st : Status) (d : Nat) : (s.answer st d).link = s.link := rfl
@[simp] theorem State.answer_topo (s : State) (st : Status) (d : Nat) : (s.answer st d).topo = s.topo := rfl
@[simp] theorem State.answer_spaces (s : State) (st : Status) (d : Nat) : (s.answer st d).spaces = s.spaces := rfl
@[simp] theorem State.answer_slots (s : State) (st : Status) (d : Nat) : (s.answer st d).slots = s.slots := rfl
@[simp] theorem State.answer_fw (s : State) (st : Status) (d : Nat) : (s.answer st d).fw = s.fw := rfl
@[simp] theorem State.answer_keys (s : State) (st : Status) (d : Nat) : (s.answer st d).keys = s.keys := rfl
@[simp] theorem State.answer_offers (s : State) (st : Status) (d : Nat) : (s.answer st d).offers = s.offers := rfl
@[simp] theorem State.answer_modAttest (s : State) (st : Status) (d : Nat) : (s.answer st d).modAttest = s.modAttest := rfl
@[simp] theorem State.answer_energy (s : State) (st : Status) (d : Nat) : (s.answer st d).energy = s.energy := rfl
@[simp] theorem State.answer_boxes (s : State) (st : Status) (d : Nat) : (s.answer st d).boxes = s.boxes := rfl
@[simp] theorem State.answer_qps (s : State) (st : Status) (d : Nat) : (s.answer st d).qps = s.qps := rfl
@[simp] theorem State.answer_blobs (s : State) (st : Status) (d : Nat) : (s.answer st d).blobs = s.blobs := rfl
@[simp] theorem State.answer_peerNonce (s : State) (st : Status) (d : Nat) : (s.answer st d).peerNonce = s.peerNonce := rfl
@[simp] theorem State.answer_peerChain (s : State) (st : Status) (d : Nat) : (s.answer st d).peerChain = s.peerChain := rfl
@[simp] theorem State.answer_test (s : State) (st : Status) (d : Nat) : (s.answer st d).test = s.test := rfl

/-! `State.meter` changes slots. -/

@[simp] theorem State.meter_pending (s : State) (p i n : Nat) : (s.meter p i n).pending = s.pending := rfl
@[simp] theorem State.meter_free (s : State) (p i n : Nat) : (s.meter p i n).free = s.free := rfl
@[simp] theorem State.meter_out (s : State) (p i n : Nat) : (s.meter p i n).out = s.out := rfl
@[simp] theorem State.meter_mod (s : State) (p i n : Nat) : (s.meter p i n).mod = s.mod := rfl
@[simp] theorem State.meter_pins (s : State) (p i n : Nat) : (s.meter p i n).pins = s.pins := rfl
@[simp] theorem State.meter_prov (s : State) (p i n : Nat) : (s.meter p i n).prov = s.prov := rfl
@[simp] theorem State.meter_oscs (s : State) (p i n : Nat) : (s.meter p i n).oscs = s.oscs := rfl
@[simp] theorem State.meter_doms (s : State) (p i n : Nat) : (s.meter p i n).doms = s.doms := rfl
@[simp] theorem State.meter_corrections (s : State) (p i n : Nat) : (s.meter p i n).corrections = s.corrections := rfl
@[simp] theorem State.meter_crossings (s : State) (p i n : Nat) : (s.meter p i n).crossings = s.crossings := rfl
@[simp] theorem State.meter_power (s : State) (p i n : Nat) : (s.meter p i n).power = s.power := rfl
@[simp] theorem State.meter_dip (s : State) (p i n : Nat) : (s.meter p i n).dip = s.dip := rfl
@[simp] theorem State.meter_bank (s : State) (p i n : Nat) : (s.meter p i n).bank = s.bank := rfl
@[simp] theorem State.meter_dipAreas (s : State) (p i n : Nat) : (s.meter p i n).dipAreas = s.dipAreas := rfl
@[simp] theorem State.meter_log (s : State) (p i n : Nat) : (s.meter p i n).log = s.log := rfl
@[simp] theorem State.meter_recov (s : State) (p i n : Nat) : (s.meter p i n).recov = s.recov := rfl
@[simp] theorem State.meter_spare (s : State) (p i n : Nat) : (s.meter p i n).spare = s.spare := rfl
@[simp] theorem State.meter_tiles (s : State) (p i n : Nat) : (s.meter p i n).tiles = s.tiles := rfl
@[simp] theorem State.meter_groups (s : State) (p i n : Nat) : (s.meter p i n).groups = s.groups := rfl
@[simp] theorem State.meter_arbs (s : State) (p i n : Nat) : (s.meter p i n).arbs = s.arbs := rfl
@[simp] theorem State.meter_queues (s : State) (p i n : Nat) : (s.meter p i n).queues = s.queues := rfl
@[simp] theorem State.meter_pools (s : State) (p i n : Nat) : (s.meter p i n).pools = s.pools := rfl
@[simp] theorem State.meter_fly (s : State) (p i n : Nat) : (s.meter p i n).fly = s.fly := rfl
@[simp] theorem State.meter_passes (s : State) (p i n : Nat) : (s.meter p i n).passes = s.passes := rfl
@[simp] theorem State.meter_nextPass (s : State) (p i n : Nat) : (s.meter p i n).nextPass = s.nextPass := rfl
@[simp] theorem State.meter_dram (s : State) (p i n : Nat) : (s.meter p i n).dram = s.dram := rfl
@[simp] theorem State.meter_caches (s : State) (p i n : Nat) : (s.meter p i n).caches = s.caches := rfl
@[simp] theorem State.meter_carts (s : State) (p i n : Nat) : (s.meter p i n).carts = s.carts := rfl
@[simp] theorem State.meter_memSet (s : State) (p i n : Nat) : (s.meter p i n).memSet = s.memSet := rfl
@[simp] theorem State.meter_chips (s : State) (p i n : Nat) : (s.meter p i n).chips = s.chips := rfl
@[simp] theorem State.meter_exTimeout (s : State) (p i n : Nat) : (s.meter p i n).exTimeout = s.exTimeout := rfl
@[simp] theorem State.meter_ports (s : State) (p i n : Nat) : (s.meter p i n).ports = s.ports := rfl
@[simp] theorem State.meter_ring (s : State) (p i n : Nat) : (s.meter p i n).ring = s.ring := rfl
@[simp] theorem State.meter_link (s : State) (p i n : Nat) : (s.meter p i n).link = s.link := rfl
@[simp] theorem State.meter_topo (s : State) (p i n : Nat) : (s.meter p i n).topo = s.topo := rfl
@[simp] theorem State.meter_spaces (s : State) (p i n : Nat) : (s.meter p i n).spaces = s.spaces := rfl
@[simp] theorem State.meter_fw (s : State) (p i n : Nat) : (s.meter p i n).fw = s.fw := rfl
@[simp] theorem State.meter_keys (s : State) (p i n : Nat) : (s.meter p i n).keys = s.keys := rfl
@[simp] theorem State.meter_offers (s : State) (p i n : Nat) : (s.meter p i n).offers = s.offers := rfl
@[simp] theorem State.meter_modAttest (s : State) (p i n : Nat) : (s.meter p i n).modAttest = s.modAttest := rfl
@[simp] theorem State.meter_energy (s : State) (p i n : Nat) : (s.meter p i n).energy = s.energy := rfl
@[simp] theorem State.meter_boxes (s : State) (p i n : Nat) : (s.meter p i n).boxes = s.boxes := rfl
@[simp] theorem State.meter_qps (s : State) (p i n : Nat) : (s.meter p i n).qps = s.qps := rfl
@[simp] theorem State.meter_blobs (s : State) (p i n : Nat) : (s.meter p i n).blobs = s.blobs := rfl
@[simp] theorem State.meter_mgmt (s : State) (p i n : Nat) : (s.meter p i n).mgmt = s.mgmt := rfl
@[simp] theorem State.meter_peerNonce (s : State) (p i n : Nat) : (s.meter p i n).peerNonce = s.peerNonce := rfl
@[simp] theorem State.meter_peerChain (s : State) (p i n : Nat) : (s.meter p i n).peerChain = s.peerChain := rfl
@[simp] theorem State.meter_test (s : State) (p i n : Nat) : (s.meter p i n).test = s.test := rfl

/-! `State.energyPj` changes slots. -/

@[simp] theorem State.energyPj_pending (s : State) (p pj : Nat) : (s.energyPj p pj).pending = s.pending := rfl
@[simp] theorem State.energyPj_free (s : State) (p pj : Nat) : (s.energyPj p pj).free = s.free := rfl
@[simp] theorem State.energyPj_out (s : State) (p pj : Nat) : (s.energyPj p pj).out = s.out := rfl
@[simp] theorem State.energyPj_mod (s : State) (p pj : Nat) : (s.energyPj p pj).mod = s.mod := rfl
@[simp] theorem State.energyPj_pins (s : State) (p pj : Nat) : (s.energyPj p pj).pins = s.pins := rfl
@[simp] theorem State.energyPj_prov (s : State) (p pj : Nat) : (s.energyPj p pj).prov = s.prov := rfl
@[simp] theorem State.energyPj_oscs (s : State) (p pj : Nat) : (s.energyPj p pj).oscs = s.oscs := rfl
@[simp] theorem State.energyPj_doms (s : State) (p pj : Nat) : (s.energyPj p pj).doms = s.doms := rfl
@[simp] theorem State.energyPj_corrections (s : State) (p pj : Nat) : (s.energyPj p pj).corrections = s.corrections := rfl
@[simp] theorem State.energyPj_crossings (s : State) (p pj : Nat) : (s.energyPj p pj).crossings = s.crossings := rfl
@[simp] theorem State.energyPj_power (s : State) (p pj : Nat) : (s.energyPj p pj).power = s.power := rfl
@[simp] theorem State.energyPj_dip (s : State) (p pj : Nat) : (s.energyPj p pj).dip = s.dip := rfl
@[simp] theorem State.energyPj_bank (s : State) (p pj : Nat) : (s.energyPj p pj).bank = s.bank := rfl
@[simp] theorem State.energyPj_dipAreas (s : State) (p pj : Nat) : (s.energyPj p pj).dipAreas = s.dipAreas := rfl
@[simp] theorem State.energyPj_log (s : State) (p pj : Nat) : (s.energyPj p pj).log = s.log := rfl
@[simp] theorem State.energyPj_recov (s : State) (p pj : Nat) : (s.energyPj p pj).recov = s.recov := rfl
@[simp] theorem State.energyPj_spare (s : State) (p pj : Nat) : (s.energyPj p pj).spare = s.spare := rfl
@[simp] theorem State.energyPj_tiles (s : State) (p pj : Nat) : (s.energyPj p pj).tiles = s.tiles := rfl
@[simp] theorem State.energyPj_groups (s : State) (p pj : Nat) : (s.energyPj p pj).groups = s.groups := rfl
@[simp] theorem State.energyPj_arbs (s : State) (p pj : Nat) : (s.energyPj p pj).arbs = s.arbs := rfl
@[simp] theorem State.energyPj_queues (s : State) (p pj : Nat) : (s.energyPj p pj).queues = s.queues := rfl
@[simp] theorem State.energyPj_pools (s : State) (p pj : Nat) : (s.energyPj p pj).pools = s.pools := rfl
@[simp] theorem State.energyPj_fly (s : State) (p pj : Nat) : (s.energyPj p pj).fly = s.fly := rfl
@[simp] theorem State.energyPj_passes (s : State) (p pj : Nat) : (s.energyPj p pj).passes = s.passes := rfl
@[simp] theorem State.energyPj_nextPass (s : State) (p pj : Nat) : (s.energyPj p pj).nextPass = s.nextPass := rfl
@[simp] theorem State.energyPj_dram (s : State) (p pj : Nat) : (s.energyPj p pj).dram = s.dram := rfl
@[simp] theorem State.energyPj_caches (s : State) (p pj : Nat) : (s.energyPj p pj).caches = s.caches := rfl
@[simp] theorem State.energyPj_carts (s : State) (p pj : Nat) : (s.energyPj p pj).carts = s.carts := rfl
@[simp] theorem State.energyPj_memSet (s : State) (p pj : Nat) : (s.energyPj p pj).memSet = s.memSet := rfl
@[simp] theorem State.energyPj_chips (s : State) (p pj : Nat) : (s.energyPj p pj).chips = s.chips := rfl
@[simp] theorem State.energyPj_exTimeout (s : State) (p pj : Nat) : (s.energyPj p pj).exTimeout = s.exTimeout := rfl
@[simp] theorem State.energyPj_ports (s : State) (p pj : Nat) : (s.energyPj p pj).ports = s.ports := rfl
@[simp] theorem State.energyPj_ring (s : State) (p pj : Nat) : (s.energyPj p pj).ring = s.ring := rfl
@[simp] theorem State.energyPj_link (s : State) (p pj : Nat) : (s.energyPj p pj).link = s.link := rfl
@[simp] theorem State.energyPj_topo (s : State) (p pj : Nat) : (s.energyPj p pj).topo = s.topo := rfl
@[simp] theorem State.energyPj_spaces (s : State) (p pj : Nat) : (s.energyPj p pj).spaces = s.spaces := rfl
@[simp] theorem State.energyPj_fw (s : State) (p pj : Nat) : (s.energyPj p pj).fw = s.fw := rfl
@[simp] theorem State.energyPj_keys (s : State) (p pj : Nat) : (s.energyPj p pj).keys = s.keys := rfl
@[simp] theorem State.energyPj_offers (s : State) (p pj : Nat) : (s.energyPj p pj).offers = s.offers := rfl
@[simp] theorem State.energyPj_modAttest (s : State) (p pj : Nat) : (s.energyPj p pj).modAttest = s.modAttest := rfl
@[simp] theorem State.energyPj_energy (s : State) (p pj : Nat) : (s.energyPj p pj).energy = s.energy := rfl
@[simp] theorem State.energyPj_boxes (s : State) (p pj : Nat) : (s.energyPj p pj).boxes = s.boxes := rfl
@[simp] theorem State.energyPj_qps (s : State) (p pj : Nat) : (s.energyPj p pj).qps = s.qps := rfl
@[simp] theorem State.energyPj_blobs (s : State) (p pj : Nat) : (s.energyPj p pj).blobs = s.blobs := rfl
@[simp] theorem State.energyPj_mgmt (s : State) (p pj : Nat) : (s.energyPj p pj).mgmt = s.mgmt := rfl
@[simp] theorem State.energyPj_peerNonce (s : State) (p pj : Nat) : (s.energyPj p pj).peerNonce = s.peerNonce := rfl
@[simp] theorem State.energyPj_peerChain (s : State) (p pj : Nat) : (s.energyPj p pj).peerChain = s.peerChain := rfl
@[simp] theorem State.energyPj_test (s : State) (p pj : Nat) : (s.energyPj p pj).test = s.test := rfl

/-! `State.enqueue` changes ports. -/

@[simp] theorem State.enqueue_pending (s : State) (k : Nat) (x : Packet) : (s.enqueue k x).pending = s.pending := rfl
@[simp] theorem State.enqueue_free (s : State) (k : Nat) (x : Packet) : (s.enqueue k x).free = s.free := rfl
@[simp] theorem State.enqueue_out (s : State) (k : Nat) (x : Packet) : (s.enqueue k x).out = s.out := rfl
@[simp] theorem State.enqueue_mod (s : State) (k : Nat) (x : Packet) : (s.enqueue k x).mod = s.mod := rfl
@[simp] theorem State.enqueue_pins (s : State) (k : Nat) (x : Packet) : (s.enqueue k x).pins = s.pins := rfl
@[simp] theorem State.enqueue_prov (s : State) (k : Nat) (x : Packet) : (s.enqueue k x).prov = s.prov := rfl
@[simp] theorem State.enqueue_oscs (s : State) (k : Nat) (x : Packet) : (s.enqueue k x).oscs = s.oscs := rfl
@[simp] theorem State.enqueue_doms (s : State) (k : Nat) (x : Packet) : (s.enqueue k x).doms = s.doms := rfl
@[simp] theorem State.enqueue_corrections (s : State) (k : Nat) (x : Packet) : (s.enqueue k x).corrections = s.corrections := rfl
@[simp] theorem State.enqueue_crossings (s : State) (k : Nat) (x : Packet) : (s.enqueue k x).crossings = s.crossings := rfl
@[simp] theorem State.enqueue_power (s : State) (k : Nat) (x : Packet) : (s.enqueue k x).power = s.power := rfl
@[simp] theorem State.enqueue_dip (s : State) (k : Nat) (x : Packet) : (s.enqueue k x).dip = s.dip := rfl
@[simp] theorem State.enqueue_bank (s : State) (k : Nat) (x : Packet) : (s.enqueue k x).bank = s.bank := rfl
@[simp] theorem State.enqueue_dipAreas (s : State) (k : Nat) (x : Packet) : (s.enqueue k x).dipAreas = s.dipAreas := rfl
@[simp] theorem State.enqueue_log (s : State) (k : Nat) (x : Packet) : (s.enqueue k x).log = s.log := rfl
@[simp] theorem State.enqueue_recov (s : State) (k : Nat) (x : Packet) : (s.enqueue k x).recov = s.recov := rfl
@[simp] theorem State.enqueue_spare (s : State) (k : Nat) (x : Packet) : (s.enqueue k x).spare = s.spare := rfl
@[simp] theorem State.enqueue_tiles (s : State) (k : Nat) (x : Packet) : (s.enqueue k x).tiles = s.tiles := rfl
@[simp] theorem State.enqueue_groups (s : State) (k : Nat) (x : Packet) : (s.enqueue k x).groups = s.groups := rfl
@[simp] theorem State.enqueue_arbs (s : State) (k : Nat) (x : Packet) : (s.enqueue k x).arbs = s.arbs := rfl
@[simp] theorem State.enqueue_queues (s : State) (k : Nat) (x : Packet) : (s.enqueue k x).queues = s.queues := rfl
@[simp] theorem State.enqueue_pools (s : State) (k : Nat) (x : Packet) : (s.enqueue k x).pools = s.pools := rfl
@[simp] theorem State.enqueue_fly (s : State) (k : Nat) (x : Packet) : (s.enqueue k x).fly = s.fly := rfl
@[simp] theorem State.enqueue_passes (s : State) (k : Nat) (x : Packet) : (s.enqueue k x).passes = s.passes := rfl
@[simp] theorem State.enqueue_nextPass (s : State) (k : Nat) (x : Packet) : (s.enqueue k x).nextPass = s.nextPass := rfl
@[simp] theorem State.enqueue_dram (s : State) (k : Nat) (x : Packet) : (s.enqueue k x).dram = s.dram := rfl
@[simp] theorem State.enqueue_caches (s : State) (k : Nat) (x : Packet) : (s.enqueue k x).caches = s.caches := rfl
@[simp] theorem State.enqueue_carts (s : State) (k : Nat) (x : Packet) : (s.enqueue k x).carts = s.carts := rfl
@[simp] theorem State.enqueue_memSet (s : State) (k : Nat) (x : Packet) : (s.enqueue k x).memSet = s.memSet := rfl
@[simp] theorem State.enqueue_chips (s : State) (k : Nat) (x : Packet) : (s.enqueue k x).chips = s.chips := rfl
@[simp] theorem State.enqueue_exTimeout (s : State) (k : Nat) (x : Packet) : (s.enqueue k x).exTimeout = s.exTimeout := rfl
@[simp] theorem State.enqueue_ring (s : State) (k : Nat) (x : Packet) : (s.enqueue k x).ring = s.ring := rfl
@[simp] theorem State.enqueue_link (s : State) (k : Nat) (x : Packet) : (s.enqueue k x).link = s.link := rfl
@[simp] theorem State.enqueue_topo (s : State) (k : Nat) (x : Packet) : (s.enqueue k x).topo = s.topo := rfl
@[simp] theorem State.enqueue_spaces (s : State) (k : Nat) (x : Packet) : (s.enqueue k x).spaces = s.spaces := rfl
@[simp] theorem State.enqueue_slots (s : State) (k : Nat) (x : Packet) : (s.enqueue k x).slots = s.slots := rfl
@[simp] theorem State.enqueue_fw (s : State) (k : Nat) (x : Packet) : (s.enqueue k x).fw = s.fw := rfl
@[simp] theorem State.enqueue_keys (s : State) (k : Nat) (x : Packet) : (s.enqueue k x).keys = s.keys := rfl
@[simp] theorem State.enqueue_offers (s : State) (k : Nat) (x : Packet) : (s.enqueue k x).offers = s.offers := rfl
@[simp] theorem State.enqueue_modAttest (s : State) (k : Nat) (x : Packet) : (s.enqueue k x).modAttest = s.modAttest := rfl
@[simp] theorem State.enqueue_energy (s : State) (k : Nat) (x : Packet) : (s.enqueue k x).energy = s.energy := rfl
@[simp] theorem State.enqueue_boxes (s : State) (k : Nat) (x : Packet) : (s.enqueue k x).boxes = s.boxes := rfl
@[simp] theorem State.enqueue_qps (s : State) (k : Nat) (x : Packet) : (s.enqueue k x).qps = s.qps := rfl
@[simp] theorem State.enqueue_blobs (s : State) (k : Nat) (x : Packet) : (s.enqueue k x).blobs = s.blobs := rfl
@[simp] theorem State.enqueue_mgmt (s : State) (k : Nat) (x : Packet) : (s.enqueue k x).mgmt = s.mgmt := rfl
@[simp] theorem State.enqueue_peerNonce (s : State) (k : Nat) (x : Packet) : (s.enqueue k x).peerNonce = s.peerNonce := rfl
@[simp] theorem State.enqueue_peerChain (s : State) (k : Nat) (x : Packet) : (s.enqueue k x).peerChain = s.peerChain := rfl
@[simp] theorem State.enqueue_test (s : State) (k : Nat) (x : Packet) : (s.enqueue k x).test = s.test := rfl

end Sys2Proof.Machine
end

