-- ==== Sys2Proof/Laws/Tables.lean ====
section
/-! SUPPORT. Lookups in a sparse table after an update, and the canonical form of an addressed memory under every write. -/

namespace Sys2Proof.Machine

@[simp] theorem tget_tput_same {α : Type} (t : Tbl α) (k : Nat) (v d : α) : tget (tput t k v) k d = v := by
  induction t with
  | nil => simp [tput, tget]
  | cons x r ih =>
    obtain ⟨j, w⟩ := x
    by_cases h1 : k < j
    · simp [tput, tget, h1]
    · by_cases h2 : k = j
      · simp [tput, tget, h2]
      · have h3 : ¬ j = k := fun e => h2 e.symm
        simp [tput, tget, h1, h2, h3, ih]

theorem tget_tput_other {α : Type} (t : Tbl α) (k j : Nat) (v d : α) (h : j ≠ k) : tget (tput t k v) j d = tget t j d := by
  have h' : ¬ k = j := fun e => h e.symm
  induction t with
  | nil => simp [tput, tget, h']
  | cons x r ih =>
    obtain ⟨i, w⟩ := x
    by_cases h1 : k < i
    · simp [tput, tget, h1, h']
    · by_cases h2 : k = i
      · have h3 : ¬ i = j := fun e => h (by omega)
        simp [tput, tget, h2, h3]
      · by_cases h4 : i = j
        · subst h4; simp [tput, tget, h1, h2]
        · simp [tput, tget, h1, h2, h4, ih]

@[simp] theorem tget?_tput_same {α : Type} (t : Tbl α) (k : Nat) (v : α) : tget? (tput t k v) k = some v := by
  induction t with
  | nil => simp [tput, tget?]
  | cons x r ih =>
    obtain ⟨j, w⟩ := x
    by_cases h1 : k < j
    · simp [tput, tget?, h1]
    · by_cases h2 : k = j
      · simp [tput, tget?, h2]
      · have h3 : ¬ j = k := fun e => h2 e.symm
        simp [tput, tget?, h1, h2, h3, ih]

theorem tget?_tput_other {α : Type} (t : Tbl α) (k j : Nat) (v : α) (h : j ≠ k) : tget? (tput t k v) j = tget? t j := by
  have h' : ¬ k = j := fun e => h e.symm
  induction t with
  | nil => simp [tput, tget?, h']
  | cons x r ih =>
    obtain ⟨i, w⟩ := x
    by_cases h1 : k < i
    · simp [tput, tget?, h1, h']
    · by_cases h2 : k = i
      · have h3 : ¬ i = j := fun e => h (by omega)
        simp [tput, tget?, h2, h3]
      · by_cases h4 : i = j
        · subst h4; simp [tput, tget?, h1, h2]
        · simp [tput, tget?, h1, h2, h4, ih]

/-! ### Addressed memories -/

theorem Memory.wfFrom_mono (m : Mem) {a b : Nat} (h : a ≤ b) (w : Memory.wfFrom b m = true) : Memory.wfFrom a m = true := by
  cases m with
  | nil => rfl
  | cons x r =>
    obtain ⟨k, v⟩ := x
    simp only [Memory.wfFrom, Bool.and_eq_true, decide_eq_true_eq] at w ⊢
    exact ⟨⟨by omega, w.1.2⟩, w.2⟩

theorem Memory.write_wfFrom (m : Mem) (lo a : Nat) (b : Byte) (h : lo ≤ a) (w : Memory.wfFrom lo m = true) :
    Memory.wfFrom lo (Memory.write m a b) = true := by
  induction m generalizing lo with
  | nil =>
    unfold Memory.write
    split
    · rfl
    · rename_i e
      simp only [Memory.wfFrom, Bool.and_true, Bool.and_eq_true, decide_eq_true_eq]
      exact ⟨h, e⟩
  | cons x r ih =>
    obtain ⟨k, v⟩ := x
    have w' := w
    simp only [Memory.wfFrom, Bool.and_eq_true, decide_eq_true_eq] at w'
    obtain ⟨⟨w1, w2⟩, w3⟩ := w'
    unfold Memory.write
    split
    · split
      · exact w
      · rename_i h1 e
        simp only [Memory.wfFrom, Bool.and_eq_true, decide_eq_true_eq]
        exact ⟨⟨h, e⟩, ⟨by omega, w2⟩, w3⟩
    · split
      · split
        · exact Memory.wfFrom_mono r (by omega) w3
        · rename_i h2 e
          simp only [Memory.wfFrom, Bool.and_eq_true, decide_eq_true_eq]
          exact ⟨⟨h, e⟩, h2 ▸ w3⟩
      · simp only [Memory.wfFrom, Bool.and_eq_true, decide_eq_true_eq]
        exact ⟨⟨w1, w2⟩, ih (k + 1) (by omega) w3⟩

/-- A write of one byte keeps the canonical form. -/
theorem Memory.write_wf (m : Mem) (a : Nat) (b : Byte) (w : Memory.wf m = true) : Memory.wf (Memory.write m a b) = true :=
  Memory.write_wfFrom m 0 a b (by omega) w

/-- A write of several bytes keeps the canonical form. -/
theorem Memory.writeLE_wf (m : Mem) (a n v : Nat) (w : Memory.wf m = true) : Memory.wf (Memory.writeLE m a n v) = true := by
  induction n generalizing m a v with
  | zero => exact w
  | succ n ih => exact ih _ _ _ (Memory.write_wf m a _ w)

/-- Storing a code word keeps the canonical form. -/
theorem Memory.writeWord_wf (m : Mem) (k : Nat) (c : Code160) (w : Memory.wf m = true) : Memory.wf (Memory.writeWord m k c) = true :=
  Memory.writeLE_wf m _ _ _ w

theorem Memory.read_below (m : Mem) (lo a : Nat) (h : a < lo) (w : Memory.wfFrom lo m = true) : Memory.read m a = 0 := by
  induction m generalizing lo with
  | nil => rfl
  | cons x r ih =>
    obtain ⟨k, v⟩ := x
    simp only [Memory.wfFrom, Bool.and_eq_true, decide_eq_true_eq] at w
    have e : ¬ k = a := by omega
    simp only [Memory.read, e, if_false]
    exact ih (k + 1) (by omega) w.2

theorem Memory.read_write_from (m : Mem) (lo a c : Nat) (b : Byte) (w : Memory.wfFrom lo m = true) :
    Memory.read (Memory.write m a b) c = if c = a then b else Memory.read m c := by
  induction m generalizing lo with
  | nil =>
    unfold Memory.write
    by_cases h : c = a
    · subst h; split
      · rename_i e; simp [Memory.read, e]
      · simp [Memory.read]
    · split <;> simp [Memory.read, show ¬ a = c from fun q => h q.symm]
  | cons x r ih =>
    obtain ⟨k, v⟩ := x
    simp only [Memory.wfFrom, Bool.and_eq_true, decide_eq_true_eq] at w
    obtain ⟨⟨w1, w2⟩, w3⟩ := w
    unfold Memory.write
    split
    · rename_i h1
      split
      · rename_i e
        by_cases h : c = a
        · subst h
          have hk : ¬ k = c := by omega
          simp only [if_true, Memory.read, hk, if_false, e]
          exact Memory.read_below r (k + 1) c (by omega) w3
        · simp [h]
      · by_cases h : c = a
        · subst h; simp [Memory.read]
        · have h' : ¬ a = c := fun q => h q.symm
          simp [Memory.read, h, h']
    · split
      · rename_i h1 h2
        subst h2
        split
        · rename_i e
          by_cases h : c = a
          · subst h
            simp only [if_true, e]
            exact Memory.read_below r (c + 1) c (by omega) w3
          · have h' : ¬ a = c := fun q => h q.symm
            simp [Memory.read, h, h']
        · by_cases h : c = a
          · subst h; simp [Memory.read]
          · have h' : ¬ a = c := fun q => h q.symm
            simp [Memory.read, h, h']
      · rename_i h1 h2
        simp only [Memory.read]
        by_cases h : k = c
        · subst h
          have h' : ¬ k = a := fun q => h2 q.symm
          simp [h']
        · simp only [h, if_false]; exact ih (k + 1) w3

/-- A byte read after a write of one byte. -/
theorem Memory.read_write (m : Mem) (a c : Nat) (b : Byte) (w : Memory.wf m = true) :
    Memory.read (Memory.write m a b) c = if c = a then b else Memory.read m c :=
  Memory.read_write_from m 0 a c b w

end Sys2Proof.Machine
end

