-- ==== Sys2Proof/Laws/Slots.lean ====
section
/-! SUPPORT. Slots, domains, oscillators, ports and tiles after an update; counters; what a log record and an answer leave. -/

namespace Sys2Proof.Machine

/-! ### Slots -/

theorem State.slot_updSlot (s : State) (p : Nat) (f : Slot → Slot) (h : p < s.slots.length) : (s.updSlot p f).slot p = f (s.slot p) := by
  simp [State.slot, State.updSlot, List.getD_eq_getElem?_getD, h]
theorem State.slot_updSlot_other (s : State) (p k : Nat) (f : Slot → Slot) (h : k ≠ p) : (s.updSlot p f).slot k = s.slot k := by
  have h' : ¬ p = k := fun e => h e.symm
  simp [State.slot, State.updSlot, List.getD_eq_getElem?_getD, h']
theorem State.slot_setSlot (s : State) (p : Nat) (x : Slot) (h : p < s.slots.length) : (s.setSlot p x).slot p = x := by
  simp [State.slot, State.setSlot, List.getD_eq_getElem?_getD, h]
theorem State.slot_setSlot_other (s : State) (p k : Nat) (x : Slot) (h : k ≠ p) : (s.setSlot p x).slot k = s.slot k := by
  have h' : ¬ p = k := fun e => h e.symm
  simp [State.slot, State.setSlot, List.getD_eq_getElem?_getD, h']
@[simp] theorem State.updSlot_length (s : State) (p : Nat) (f : Slot → Slot) : (s.updSlot p f).slots.length = s.slots.length := by
  simp [State.updSlot]
@[simp] theorem State.setSlot_length (s : State) (p : Nat) (x : Slot) : (s.setSlot p x).slots.length = s.slots.length := by
  simp [State.setSlot]
@[simp] theorem State.meter_length (s : State) (p i n : Nat) : (s.meter p i n).slots.length = s.slots.length := by
  simp [State.meter]

/-! ### Counters and meters -/

theorem addAt_same (l : List Nat) (i n : Nat) (h : i < l.length) : (addAt l i n).getD i 0 = l.getD i 0 + n := by
  simp [addAt, List.getD_eq_getElem?_getD, h]
theorem addAt_other (l : List Nat) (i j n : Nat) (h : j ≠ i) : (addAt l i n).getD j 0 = l.getD j 0 := by
  have h' : ¬ i = j := fun e => h e.symm
  simp [addAt, List.getD_eq_getElem?_getD, h']

/-- A meter counts on its own slot's entry alone. -/
theorem State.meter_same (s : State) (p i n : Nat) (h : p < s.slots.length) (hi : i < (s.slot p).meters.v.length) :
    ((s.meter p i n).slot p).meters.v.getD i 0 = (s.slot p).meters.v.getD i 0 + n := by
  unfold State.meter
  rw [State.slot_updSlot _ _ _ h]
  exact addAt_same _ _ _ hi
theorem State.meter_entry_other (s : State) (p i j n : Nat) (h : p < s.slots.length) (hj : j ≠ i) :
    ((s.meter p i n).slot p).meters.v.getD j 0 = (s.slot p).meters.v.getD j 0 := by
  unfold State.meter
  rw [State.slot_updSlot _ _ _ h]
  exact addAt_other _ _ _ _ hj
theorem State.meter_slot_other (s : State) (p i n k : Nat) (h : k ≠ p) : (s.meter p i n).slot k = s.slot k :=
  State.slot_updSlot_other _ _ _ _ h

/-! ### Domains, oscillators, ports, tiles -/

@[simp] theorem State.dom_updDom (s : State) (d : Nat) (f : Domain → Domain) : (s.updDom d f).dom d = f (s.dom d) := by
  simp [State.dom, State.updDom]
theorem State.dom_updDom_other (s : State) (d e : Nat) (f : Domain → Domain) (h : e ≠ d) : (s.updDom d f).dom e = s.dom e := by
  simp [State.dom, State.updDom, tget_tput_other _ _ _ _ _ h]
@[simp] theorem State.osc_updOsc (s : State) (n : Nat) (f : Osc → Osc) : (s.updOsc n f).osc n = f (s.osc n) := by
  simp [State.osc, State.updOsc]
theorem State.osc_updOsc_other (s : State) (n m : Nat) (f : Osc → Osc) (h : m ≠ n) : (s.updOsc n f).osc m = s.osc m := by
  simp [State.osc, State.updOsc, tget_tput_other _ _ _ _ _ h]
@[simp] theorem State.port_updPort (s : State) (k : Nat) (f : Port → Port) : (s.updPort k f).port k = f (s.port k) := by
  simp [State.port, State.updPort]
theorem State.port_updPort_other (s : State) (k j : Nat) (f : Port → Port) (h : j ≠ k) : (s.updPort k f).port j = s.port j := by
  simp [State.port, State.updPort, tget_tput_other _ _ _ _ _ h]
@[simp] theorem State.tile_setTile (s : State) (n : Nat) (x : Tile) : (s.setTile n x).tile n = x := by
  simp [State.tile, State.setTile]
theorem State.tile_setTile_other (s : State) (n m : Nat) (x : Tile) (h : m ≠ n) : (s.setTile n x).tile m = s.tile m := by
  simp [State.tile, State.setTile, tget_tput_other _ _ _ _ _ h]
@[simp] theorem State.tile_updTile (s : State) (n : Nat) (f : Tile → Tile) : (s.updTile n f).tile n = f (s.tile n) := by
  simp [State.updTile]
theorem State.tile_updTile_other (s : State) (n m : Nat) (f : Tile → Tile) (h : m ≠ n) : (s.updTile n f).tile m = s.tile m := by
  simp [State.updTile, State.tile_setTile_other _ _ _ _ h]

/-! ### The log and the answer -/

/-- A posted notification changes queue pairs and host memory alone. -/
theorem State.post_eq (s : State) (i : Nat) (c : Completion) :
    s.post i c = { s with qps := (s.post i c).qps, out := (s.post i c).out } := by
  unfold State.post
  dsimp only
  split
  · split <;> rfl
  · rfl
theorem State.postSlot_eq (s : State) (p : Nat) (c : Completion) :
    s.postSlot p c = { s with qps := (s.postSlot p c).qps, out := (s.postSlot p c).out } := by
  unfold State.postSlot
  rw [State.post_eq (s.post p c) (17 + p) c, State.post_eq s p c]

/-- A record changes the log, the mark that bears on the next Proving, queue pairs and host memory alone. -/
theorem State.logErr_eq (s : State) (r : ErrRec) :
    s.logErr r = { s with log := (s.logErr r).log, mod := { s.mod with cleanSince := (s.logErr r).mod.cleanSince },
                          qps := (s.logErr r).qps, out := (s.logErr r).out } := by
  unfold State.logErr
  dsimp only
  split
  · rfl
  · split
    · rw [State.postSlot_eq]
    · rw [State.post_eq]

/-- The newest record after a record is logged carries the next number and the record's body. -/
theorem State.logErr_head (s : State) (r : ErrRec) : (s.logErr r).log.recs.head? = some ⟨s.log.next, s.mod.ref, r⟩ := by
  have h : ∀ (t : State) (i : Nat) (c : Completion), (t.post i c).log = t.log := fun t i c => by rw [State.post_eq]
  unfold State.logErr
  dsimp only
  split
  · rfl
  · split
    · simp [State.postSlot, h]
    · simp [h]

/-- The log never holds more than 1,024 records after one is logged. -/
theorem State.logErr_length (s : State) (r : ErrRec) : (s.logErr r).log.recs.length ≤ 1024 := by
  have h : ∀ (t : State) (i : Nat) (c : Completion), (t.post i c).log = t.log := fun t i c => by rw [State.post_eq]
  unfold State.logErr
  dsimp only
  split
  · simp
  · split
    · simp [State.postSlot, h]
    · simp [h]

/-- An answer is the response to the request. -/
theorem State.answer_response (s : State) (st : Status) (d : Nat) :
    (s.answer st d).out.response = some { status := st, detail := d } := rfl

end Sys2Proof.Machine
end

