-- ==== Sys2Proof/Laws/Frames.lean ====
section
/-! SUPPORT. What every shared operation leaves as it was: the queue of waiting commands and the numbers of slots, mailboxes
and queue pairs. -/

set_option Elab.async false

namespace Sys2Proof.Machine

/-- Two states with one queue of waiting commands and the same fixed sizes. -/
def State.Same (s t : State) : Prop :=
  t.pending = s.pending ∧ t.slots.length = s.slots.length ∧ t.boxes.length = s.boxes.length ∧ t.qps.length = s.qps.length

theorem State.Same.refl (s : State) : s.Same s := ⟨rfl, rfl, rfl, rfl⟩
theorem State.Same.trans {s t u : State} (h : s.Same t) (k : t.Same u) : s.Same u :=
  ⟨k.1.trans h.1, k.2.1.trans h.2.1, k.2.2.1.trans h.2.2.1, k.2.2.2.trans h.2.2.2⟩
/-- A fold of steps that each keep the shape keeps it. -/
theorem State.Same.foldl {α : Type} (f : State → α → State) (h : ∀ (s : State) (a : α), s.Same (f s a)) (l : List α) (s : State) :
    s.Same (l.foldl f s) := by
  induction l generalizing s with
  | nil => exact .refl s
  | cons a l ih => exact (h s a).trans (ih _)
/-- A choice between two states of the same shape. -/
theorem State.Same.ite {s t u : State} (c : Prop) [Decidable c] (h : s.Same t) (k : s.Same u) : s.Same (if c then t else u) := by
  split
  · exact h
  · exact k

/-! ### Slots, tiles, domains, ports -/

theorem State.same_updSlot (s : State) (p : Nat) (f : Slot → Slot) : s.Same (s.updSlot p f) := ⟨rfl, s.updSlot_length p f, rfl, rfl⟩
theorem State.same_setSlot (s : State) (p : Nat) (x : Slot) : s.Same (s.setSlot p x) := ⟨rfl, s.setSlot_length p x, rfl, rfl⟩
theorem State.same_setTile (s : State) (n : Nat) (x : Tile) : s.Same (s.setTile n x) := ⟨rfl, rfl, rfl, rfl⟩
theorem State.same_updTile (s : State) (n : Nat) (f : Tile → Tile) : s.Same (s.updTile n f) := ⟨rfl, rfl, rfl, rfl⟩
theorem State.same_updGroup (s : State) (n : Nat) (f : GroupCtrs → GroupCtrs) : s.Same (s.updGroup n f) := ⟨rfl, rfl, rfl, rfl⟩
theorem State.same_updPort (s : State) (k : Nat) (f : Port → Port) : s.Same (s.updPort k f) := ⟨rfl, rfl, rfl, rfl⟩
theorem State.same_updPass (s : State) (id : Nat) (f : Pass → Pass) : s.Same (s.updPass id f) := ⟨rfl, rfl, rfl, rfl⟩
theorem State.same_updDom (s : State) (d : Nat) (f : Domain → Domain) : s.Same (s.updDom d f) := ⟨rfl, rfl, rfl, rfl⟩
theorem State.same_updOsc (s : State) (n : Nat) (f : Osc → Osc) : s.Same (s.updOsc n f) := ⟨rfl, rfl, rfl, rfl⟩
theorem State.same_recal (s : State) (n : Nat) : s.Same (s.recal n) := .ite _ (s.same_updOsc n _) (.refl s)
theorem State.same_setMv (s : State) (d mv : Nat) : s.Same (s.setMv d mv) :=
  .ite _ (.refl s) ((s.same_updDom d _).trans (State.same_recal _ d))
theorem State.same_putCrossing (s : State) (c : Crossing) : s.Same (s.putCrossing c) := ⟨rfl, rfl, rfl, rfl⟩
theorem State.same_dropDomain (s : State) (d : Nat) : s.Same (s.dropDomain d) := ⟨rfl, rfl, rfl, rfl⟩

/-! ### Notifications, records, answers, meters -/

theorem State.same_post (s : State) (i : Nat) (c : Completion) : s.Same (s.post i c) := by
  unfold State.post
  dsimp only
  split
  · split <;> exact ⟨rfl, rfl, rfl, by simp⟩
  · exact .refl s
theorem State.same_postSlot (s : State) (p : Nat) (c : Completion) : s.Same (s.postSlot p c) :=
  (s.same_post p c).trans (State.same_post _ (17 + p) c)
theorem State.same_logErr (s : State) (r : ErrRec) : s.Same (s.logErr r) := by
  unfold State.logErr
  dsimp only
  split
  · exact ⟨rfl, rfl, rfl, rfl⟩
  · split
    · refine State.Same.trans ?_ (State.same_postSlot _ _ _)
      exact ⟨rfl, rfl, rfl, rfl⟩
    · refine State.Same.trans ?_ (State.same_post _ _ _)
      exact ⟨rfl, rfl, rfl, rfl⟩
theorem State.same_logSlot (s : State) (p : Nat) (r : ErrRec) : s.Same (s.logSlot p r) := s.same_logErr _
theorem State.same_slotTo (s : State) (p : Nat) (x : SlotState) : s.Same (s.slotTo p x) :=
  .ite _ (.refl s) ((s.same_updSlot p _).trans (State.same_postSlot _ p _))
theorem State.same_answer (s : State) (st : Status) (d : Nat) : s.Same (s.answer st d) := ⟨rfl, rfl, rfl, rfl⟩
theorem State.same_refuse (s : State) (p code : Nat) : s.Same (s.refuse p code) :=
  (State.Same.ite _ (s.same_logSlot p _) (s.same_logErr _)).trans (State.same_answer _ _ _)
theorem State.same_meter (s : State) (p i n : Nat) : s.Same (s.meter p i n) := s.same_updSlot p _
theorem State.same_energyPj (s : State) (p pj : Nat) : s.Same (s.energyPj p pj) := s.same_updSlot p _
theorem State.same_work (s : State) (p i k n : Nat) : s.Same (s.work p i k n) :=
  .ite _ ((s.same_meter p i n).trans (State.same_energyPj _ p _)) (.refl s)
theorem State.same_events (s : State) (p : Nat) (e : Events) : s.Same (s.events p e) :=
  (((s.same_meter p 15 _).trans (State.same_meter _ p 16 _)).trans (State.same_meter _ p 17 _)).trans (State.same_meter _ p 18 _)
theorem State.same_gotUnits (s : State) (p n : Nat) : s.Same (s.gotUnits p n) := s.same_work p 11 3 _

/-! ### Packets -/

theorem State.same_enqueue (s : State) (k : Nat) (p : Packet) : s.Same (s.enqueue k p) := ⟨rfl, rfl, rfl, rfl⟩
theorem State.same_creditBack (s : State) (k : Nat) : s.Same (s.creditBack k) := ⟨rfl, rfl, rfl, rfl⟩
theorem State.same_freeRx (s : State) (k vc n : Nat) : s.Same (s.freeRx k vc n) :=
  (s.same_updPort k _).trans (.ite _ (State.same_creditBack _ k) (.refl _))
theorem State.same_sendPk (s : State) (k : Nat) (h : BitVec 256) (us : List (BitVec 256)) : s.Same (s.sendPk k h us) := by
  unfold State.sendPk
  dsimp only
  split
  · exact (s.same_work _ 10 3 _).trans ⟨rfl, rfl, rfl, rfl⟩
  · exact ⟨rfl, rfl, rfl, rfl⟩
theorem State.same_sendUnits (s : State) (k vc : Nat) (route : Bool) (ring pos tenant : Nat) (us : List (BitVec 256)) :
    s.Same (s.sendUnits k vc route ring pos tenant us) := by
  unfold State.sendUnits
  dsimp only
  refine State.Same.foldl _ (fun s a => ?_) _ s
  obtain ⟨i, c⟩ := a
  exact s.same_sendPk k _ c
theorem State.same_sendTo (s : State) (vc ring pos tenant : Nat) (us : List (BitVec 256)) : s.Same (s.sendTo vc ring pos tenant us) := by
  unfold State.sendTo
  dsimp only
  split
  · refine State.Same.trans ?_ (State.same_sendUnits _ _ vc _ ring pos tenant us)
    exact ⟨rfl, rfl, rfl, rfl⟩
  · exact .refl s
theorem State.same_sendAll (s : State) (p : Nat) (h : BitVec 256) : s.Same (s.sendAll p h) := by
  unfold State.sendAll
  refine State.Same.foldl _ (fun s a => ?_) _ s
  obtain ⟨r, i⟩ := a
  exact s.same_sendTo 7 r i _ [h]
theorem State.same_sendPartner (s : State) (p vc : Nat) (us : List (BitVec 256)) : s.Same (s.sendPartner p vc us) :=
  s.same_sendUnits 2 vc false _ _ _ us

/-! ### Halts, rollbacks, Half-mast and Strike -/

theorem State.same_rejoinFail (s : State) (p : Nat) : s.Same (s.rejoinFail p) :=
  .ite _ (.refl s) ((s.same_logSlot p _).trans (State.same_updSlot _ p _))
theorem State.same_haltSlot (s : State) (p : Nat) : s.Same (s.haltSlot p) :=
  ((s.same_rejoinFail p).trans (State.same_updSlot _ p _)).trans (.ite _ (State.same_slotTo _ p _) (.refl _))
theorem State.same_haltR262 (s : State) (p : Nat) : s.Same (s.haltR262 p) := (s.same_haltSlot p).trans (State.same_updSlot _ p _)
theorem State.same_failover (s : State) (p : Nat) : s.Same (s.failover p) :=
  .ite _ ((s.same_haltSlot p).trans (State.same_updSlot _ p _)) (s.same_haltR262 p)
theorem State.same_freeAreas (s : State) (p : Nat) : s.Same (s.freeAreas p) := by
  unfold State.freeAreas
  dsimp only
  refine State.Same.trans ?_ (State.Same.foldl _ (fun s a => s.same_updTile _ _) _ _)
  exact ⟨rfl, rfl, rfl, rfl⟩
theorem State.same_returnTags (s : State) (p : Nat) : s.Same (s.returnTags p) := ⟨rfl, rfl, rfl, rfl⟩
theorem State.same_dropPk (s : State) (k : Nat) (pk : Packet) : s.Same (s.dropPk k pk) := by
  unfold State.dropPk
  exact State.Same.trans (s.same_updPort k _) (State.same_freeRx _ _ _ _)
theorem State.same_dropHeld (s : State) (p : Nat) : s.Same (s.dropHeld p) := by
  unfold State.dropHeld
  refine State.Same.foldl _ (fun s k => ?_) _ s
  exact State.Same.foldl _ (fun s pk => s.same_dropPk k pk) _ s
theorem State.same_dropWork (s : State) (p : Nat) : s.Same (s.dropWork p) := ⟨rfl, rfl, rfl, rfl⟩
theorem State.same_discardWork (s : State) (p : Nat) : s.Same (s.discardWork p) := by
  unfold State.discardWork
  exact ((((s.same_dropHeld p).trans (State.same_returnTags _ p)).trans (State.same_freeAreas _ p)).trans
    (State.same_dropWork _ p)).trans (State.same_updSlot _ p _)
theorem State.same_rollback (s : State) (p t : Nat) (send : Bool) : s.Same (s.rollback p t send) := by
  unfold State.rollback
  dsimp only
  refine State.Same.trans ?_ (State.same_sendAll _ p _)
  refine State.Same.trans ?_ (State.same_updSlot _ p _)
  refine State.Same.trans ?_ (State.same_discardWork _ p)
  refine State.Same.trans ?_ (State.same_haltSlot _ p)
  have a : ∀ (t : State) (h : BitVec 256), t.Same (if send = true then t.sendAll p h else t) := fun t h =>
    .ite _ (t.same_sendAll p h) (.refl t)
  refine State.Same.trans ?_ (a _ _)
  exact .ite _ (.refl s) (s.same_logSlot p _)
theorem State.same_rollbackFault (s : State) (p : Nat) (r : ErrRec) : s.Same (s.rollbackFault p r) :=
  (s.same_logSlot p _).trans (State.same_rollback _ p _ true)
theorem State.same_programFault (s : State) (p : Nat) (r : ErrRec) : s.Same (s.programFault p r) :=
  (s.same_logSlot p _).trans (State.same_haltR262 _ p)
theorem State.same_passProgram (s : State) (id : Nat) (r : ErrRec) : s.Same (s.passProgram id r) := by
  unfold State.passProgram
  split
  · exact .refl s
  · exact s.same_programFault _ _
theorem State.same_writeDip (s : State) (c : DipCause) (m : List Bool) (v : Nat) : s.Same (s.writeDip c m v) := ⟨rfl, rfl, rfl, rfl⟩
theorem State.same_zeroKeys (s : State) : s.Same s.zeroKeys := ⟨rfl, by simp [State.zeroKeys], rfl, rfl⟩
theorem State.same_struckDown (s : State) : s.Same s.struckDown := ⟨rfl, rfl, rfl, rfl⟩
theorem State.same_strike (s : State) : s.Same s.strike := by
  unfold State.strike
  split
  · have a := State.Same.foldl (fun (s : State) (p : Nat) => if (s.slot p).state = .free then s else s.haltSlot p)
      (fun s p => .ite _ (.refl s) (s.same_haltSlot p)) (List.range 16) s
    exact (((a.trans (State.same_writeDip _ .strike [true, true, true, true, true] _)).trans (State.same_zeroKeys _)).trans
      (State.same_struckDown _)).trans (State.same_logErr _ _)
  · exact .refl s
theorem State.same_halfMast (s : State) (c : Nat) : s.Same (s.halfMast c) := by
  unfold State.halfMast
  dsimp only
  split
  · refine State.Same.trans ?_ (State.same_logErr _ _)
    exact ⟨rfl, rfl, rfl, rfl⟩
  · exact ⟨rfl, rfl, rfl, rfl⟩
theorem State.same_withdraw (s : State) (k : Nat) : s.Same (s.withdraw k) := by
  unfold State.withdraw
  dsimp only
  split
  · refine State.Same.trans ?_ (State.same_failover _ _)
    exact ⟨rfl, rfl, rfl, rfl⟩
  · exact ⟨rfl, rfl, rfl, rfl⟩
theorem State.same_withdrawLasting (s : State) (k : Nat) : s.Same (s.withdrawLasting k) :=
  (s.same_withdraw k).trans ⟨rfl, rfl, rfl, rfl⟩
theorem State.same_retireGroup (s : State) (g cause : Nat) : s.Same (s.retireGroup g cause) := by
  unfold State.retireGroup
  dsimp only
  split
  · exact .refl s
  · have a : ∀ (t : State) (c : Bool), t.Same (if c then t.strike else t.halfMast cause) := fun t c =>
      .ite _ t.same_strike (t.same_halfMast cause)
    refine State.Same.trans ?_ (a _ _)
    refine State.Same.trans ?_ (State.same_withdrawLasting _ _)
    refine State.Same.trans ?_ (State.same_logErr _ _)
    exact ⟨rfl, rfl, rfl, rfl⟩
theorem State.same_failChip (s : State) (n cause : Nat) : s.Same (s.failChip n cause) := by
  unfold State.failChip
  dsimp only
  split
  · exact .refl s
  · have a : ∀ (t : State), t.Same (if t.strikeLimit then t.strike else t.halfMast cause) := fun t =>
      .ite _ t.same_strike (t.same_halfMast cause)
    refine State.Same.trans ?_ (a _)
    refine State.Same.trans ?_ (State.Same.foldl State.withdraw State.same_withdraw _ _)
    exact ⟨rfl, rfl, rfl, rfl⟩
theorem State.same_lastingSite (s : State) (p : Nat) (r : ErrRec) : s.Same (s.lastingSite p r) := by
  unfold State.lastingSite
  dsimp only
  split
  · split
    · exact (s.same_logSlot p _).trans ⟨rfl, rfl, rfl, rfl⟩
    · exact (s.same_logSlot p _).trans (State.same_retireGroup _ _ _)
  · exact s.same_logSlot p _
theorem State.same_returnUnits (s : State) (id : Nat) : s.Same (s.returnUnits id) := by
  unfold State.returnUnits
  dsimp only
  refine State.Same.trans ?_ (State.Same.foldl _ (fun s a => s.same_updTile _ _) _ _)
  exact ⟨rfl, rfl, rfl, rfl⟩

/-! ### A write of the signal book -/

/-- A guarded write either answers alone or does what its object does. -/
theorem State.guard_cases (s : State) (via : Via) (ix sub : Nat) (f : State → State) :
    s.guard via ix sub f = f s ∨ s.guard via ix sub f = s ∨ ∃ st, s.guard via ix sub f = s.answer st := by
  unfold State.guard
  split
  · exact .inr (.inl rfl)
  · exact .inr (.inr ⟨_, rfl⟩)
  · split
    · exact .inr (.inr ⟨_, rfl⟩)
    · exact .inr (.inr ⟨_, rfl⟩)
    · exact .inr (.inr ⟨_, rfl⟩)
    · exact .inl rfl
theorem State.same_guard (s : State) (via : Via) (ix sub : Nat) (f : State → State) (h : s.Same (f s)) :
    s.Same (s.guard via ix sub f) := by
  rcases s.guard_cases via ix sub f with e | e | ⟨st, e⟩ <;> rw [e]
  · exact h
  · exact .refl s
  · exact s.same_answer st 0

/-! ### Halts and strikes in detail -/

/-- A halt changes the slot it halts, the log and what a record and a notification leave, and nothing else. -/
theorem State.haltSlot_other (s : State) (p k : Nat) (h : k ≠ p) : (s.haltSlot p).slot k = s.slot k := by
  have e : ∀ (t : State) (r : ErrRec), (t.logErr r).slot k = t.slot k := fun t r => by
    rw [State.logErr_eq]; rfl
  have ps : ∀ (t : State) (c : Completion), (t.postSlot p c).slot k = t.slot k := fun t c => by rw [State.postSlot_eq]; rfl
  have rj : (s.rejoinFail p).slot k = s.slot k := by
    unfold State.rejoinFail
    dsimp only
    split
    · rfl
    · rw [State.slot_updSlot_other _ _ _ _ h]; exact e _ _
  unfold State.haltSlot
  dsimp only
  split
  · unfold State.slotTo
    split
    · rw [State.slot_updSlot_other _ _ _ _ h, rj]
    · rw [ps, State.slot_updSlot_other _ _ _ _ h, State.slot_updSlot_other _ _ _ _ h, rj]
  · rw [State.slot_updSlot_other _ _ _ _ h, rj]

end Sys2Proof.Machine
end

