-- ==== Sys2Proof/Laws/Operations.lean ====
section
/-! SUPPORT. What the shared operations of the engines leave: an operation that ran, the accesses of its issue steps, its count. -/

set_option Elab.async false

namespace Sys2Proof.Machine

/-- All of a state but what an operation of a pass may change. -/
def State.opRest (s : State) : State := { s with tiles := [], slots := [], passes := [], arbs := [], groups := [], out := {} }
theorem State.eq_of_opRest {s u : State} (h : u.opRest = s.opRest) :
    u = { s with tiles := u.tiles, slots := u.slots, passes := u.passes, arbs := u.arbs, groups := u.groups, out := u.out } := by
  cases u; cases s
  simp only [State.opRest, State.mk.injEq] at h
  simp only [State.mk.injEq, true_and]
  simp only [h, and_true]

theorem State.meter_eq (s : State) (p i n : Nat) : s.meter p i n = { s with slots := (s.meter p i n).slots } := rfl
theorem State.events_eq (s : State) (p : Nat) (e : Events) : s.events p e = { s with slots := (s.events p e).slots } := by
  simp only [State.events, State.meter, State.updSlot]
theorem State.events_slot_other (s : State) (p k : Nat) (e : Events) (h : k ≠ p) : (s.events p e).slot k = s.slot k := by
  simp only [State.events, State.meter_slot_other _ _ _ _ _ h]
theorem State.meter_slot_same (s : State) (p i n : Nat) :
    (s.meter p i n).slot p = { s.slot p with meters := ((s.meter p i n).slot p).meters } ∧
    ∀ j, j ≠ i → ((s.meter p i n).slot p).meters.v.getD j 0 = (s.slot p).meters.v.getD j 0 := by
  by_cases h : p < s.slots.length
  · refine ⟨?_, fun j hj => State.meter_entry_other s p i j n h hj⟩
    unfold State.meter
    rw [State.slot_updSlot _ _ _ h]
  · have e : s.meter p i n = s := by
      unfold State.meter State.updSlot
      rw [List.modify_eq_self (by omega)]
    rw [e]; exact ⟨rfl, fun _ _ => rfl⟩
/-- The events of an operation reach the meters 0x10 to 0x13 of its slot alone. -/
theorem State.events_slot (s : State) (p : Nat) (e : Events) :
    ∃ v, (s.events p e).slot p = { s.slot p with meters := v } ∧ ∀ j < 15, v.v.getD j 0 = (s.slot p).meters.v.getD j 0 := by
  have h1 := State.meter_slot_same s p 15 e.invalid
  have h2 := State.meter_slot_same (s.meter p 15 e.invalid) p 16 e.overflow
  have h3 := State.meter_slot_same ((s.meter p 15 e.invalid).meter p 16 e.overflow) p 17 e.saturate
  have h4 := State.meter_slot_same (((s.meter p 15 e.invalid).meter p 16 e.overflow).meter p 17 e.saturate) p 18 e.nanBlock
  refine ⟨((s.events p e).slot p).meters, ?_, ?_⟩
  · show State.slot _ p = _
    unfold State.events
    rw [h4.1, h3.1, h2.1, h1.1]
  · intro j hj
    show (State.slot _ p).meters.v.getD j 0 = _
    unfold State.events
    rw [h4.2 j (by omega), h3.2 j (by omega), h2.2 j (by omega), h1.2 j (by omega)]

theorem State.slotPass_eq (s : State) (t : TileRef) (p n : Nat) :
    s.slotPass t p n = { s with arbs := (s.slotPass t p n).arbs, groups := (s.slotPass t p n).groups } := by
  unfold State.slotPass
  split
  · rfl
  · dsimp only
    split <;> rfl
theorem State.slotPass_zero (s : State) (t : TileRef) (p : Nat) : s.slotPass t p 0 = s := rfl

theorem State.ranOp_eq (s : State) (x : Pass) (t : TileRef) (o : OpDesc) : s.ranOp x t o = { s with passes := (s.ranOp x t o).passes } := by
  unfold State.ranOp
  dsimp only
  split
  · rfl
  · split
    · rfl
    · split <;> rfl

/-- The count of a pass's descriptors depends on its slot's image and the passes alone. -/
theorem State.ranOp_passes (s t : State) (x : Pass) (r : TileRef) (o : OpDesc) (v : Meters)
    (h : s.slot x.slot = { t.slot x.slot with meters := v }) (hp : s.passes = t.passes) :
    (s.ranOp x r o).passes = (t.ranOp x r o).passes := by
  have h1 : (s.slot x.slot).passParts x = (t.slot x.slot).passParts x := by rw [h]; rfl
  have h2 : ∀ y, (s.slot x.slot).takes y r o = (t.slot x.slot).takes y r o := by intro y; rw [h]; rfl
  unfold State.ranOp
  dsimp only
  rw [h1]
  by_cases e : ((t.slot x.slot).passParts x).isEmpty = true
  · rw [if_pos e, if_pos e, hp]
  · rw [if_neg e, if_neg e]
    have e3 : s.pass? x.id = t.pass? x.id := by simp only [State.pass?, hp]
    rw [e3]
    cases e4 : t.pass? x.id with
    | none => exact hp
    | some y =>
      dsimp only
      rw [h2 y]
      split
      · simp only [State.updPass, hp]
      · exact hp

/-- Accesses that do not conflict join the tile's issue steps. -/
theorem State.conflicts_none (s : State) (c : OpCtx) (x : Pass) (b p : Nat) (plan : List (List BankAccess))
    (h : ∀ l ∈ plan, (stepWaits l).1 = 0) :
    s.conflicts c x b p plan = if plan = [] then s else s.updTile (s.phys c.tile) (fun t => { t with plan := t.plan ++ plan }) := by
  unfold State.conflicts
  have : ((plan.map stepWaits).map (·.1)).sum = 0 := by
    rw [List.sum_eq_zero]
    intro n hn
    simp only [List.map_map, List.mem_map, Function.comp] at hn
    obtain ⟨l, hl, rfl⟩ := hn
    exact h l hl
  dsimp only
  rw [if_pos this]

/-- An operation that ran with every word formed and no conflict (R135, R169, R201): its tile, its slot's event meters, the count
of its pass's descriptors and the slots its merge reads take; nothing else. -/
theorem State.ran_leaves (s : State) (c : OpCtx) (x : Pass) (engine block product : Nat) (d : OpDone) (o : OpDesc)
    (plan : List (List BankAccess)) (hb : d.bad = []) (hp : ∀ l ∈ plan, (stepWaits l).1 = 0) :
    let n := s.phys c.tile
    let u := ((s.finishOp c x engine block (.ok d)).ranOp x c.tile o).conflicts c x block product plan
    let y := ({ d.tile with waits := tdel d.tile.waits engine } : Tile).touch d.rd d.wr
    u.tile n = { y with plan := y.plan ++ plan } ∧ (∀ m, m ≠ n → u.tile m = s.tile m) ∧ (∀ k, k ≠ x.slot → u.slot k = s.slot k) ∧
      (∃ v, u.slot x.slot = { s.slot x.slot with meters := v } ∧ ∀ j < 15, v.v.getD j 0 = (s.slot x.slot).meters.v.getD j 0) ∧
      (d.merges = 0 → u.arbs = s.arbs ∧ u.groups = s.groups) ∧
      u = { s with tiles := u.tiles, slots := u.slots, passes := u.passes, arbs := u.arbs, groups := u.groups,
                   out := { s.out with value := d.value } } ∧
      u.passes = (s.ranOp x c.tile o).passes := by
  intro n u y
  let a := s.setTile n y
  let b := a.events x.slot d.ev
  let e := b.slotPass c.tile x.slot d.merges
  let f : State := { e with out := { e.out with value := d.value } }
  have hf : s.finishOp c x engine block (.ok d) = f := by
    simp only [State.finishOp, hb]; rfl
  let g := f.ranOp x c.tile o
  have hg : g = { f with passes := g.passes } := State.ranOp_eq _ _ _ _
  have hu : u = if plan = [] then g else g.updTile (g.phys c.tile) (fun t => { t with plan := t.plan ++ plan }) := by
    show State.conflicts (State.ranOp (s.finishOp c x engine block (.ok d)) x c.tile o) c x block product plan = _
    rw [hf]; exact State.conflicts_none _ _ _ _ _ _ hp
  have hb1 : b = { a with slots := b.slots } := State.events_eq _ _ _
  have he : e = { b with arbs := e.arbs, groups := e.groups } := State.slotPass_eq _ _ _ _
  have hph : g.phys c.tile = n := by rw [hg]; show State.phys e c.tile = n; rw [he]; show State.phys b c.tile = n; rw [hb1]; rfl
  have ht : g.tiles = a.tiles := by rw [hg]; show e.tiles = a.tiles; rw [he]; show b.tiles = a.tiles; rw [hb1]
  have hsl : g.slots = b.slots := by rw [hg]; show e.slots = b.slots; rw [he]
  obtain ⟨v, hv, hv2⟩ := State.events_slot a x.slot d.ev
  have hv1 : f.slot x.slot = { s.slot x.slot with meters := v } := by
    show State.slot e x.slot = _
    rw [he]; exact hv
  have hpa : g.passes = (s.ranOp x c.tile o).passes := by
    refine State.ranOp_passes f s x c.tile o v hv1 ?_
    show e.passes = s.passes
    rw [he]
    show b.passes = s.passes
    rw [hb1]; rfl
  have hgt : g.tile n = y := by show tget g.tiles n {} = y; rw [ht]; exact State.tile_setTile s n y
  have hgo : ∀ m, m ≠ n → g.tile m = s.tile m := by
    intro m hm
    show tget g.tiles m {} = _
    rw [ht]; exact State.tile_setTile_other s n m y hm
  have hrest : g.opRest = s.opRest := by
    rw [hg]
    show State.opRest e = _
    rw [he]
    show State.opRest b = _
    rw [hb1]
    rfl
  have hout : g.out = { s.out with value := d.value } := by
    rw [hg]
    show ({ e.out with value := d.value } : Outbox) = _
    rw [he]
    show ({ b.out with value := d.value } : Outbox) = _
    rw [hb1]
    rfl
  have hmg : d.merges = 0 → g.arbs = s.arbs ∧ g.groups = s.groups := by
    intro h0
    have : e = b := by show State.slotPass b _ _ d.merges = b; rw [h0]; exact State.slotPass_zero _ _ _
    rw [hg]
    show e.arbs = _ ∧ e.groups = _
    rw [this, hb1]
    exact ⟨rfl, rfl⟩
  have hso : ∀ k, k ≠ x.slot → g.slot k = s.slot k := by
    intro k hk
    show g.slots.getD k {} = _
    rw [hsl]
    exact State.events_slot_other a x.slot k d.ev hk
  have hss : g.slot x.slot = { s.slot x.slot with meters := v } := by
    show g.slots.getD x.slot {} = _
    rw [hsl]
    exact hv
  have key : u.tile n = { y with plan := y.plan ++ plan } ∧ (∀ m, m ≠ n → u.tile m = g.tile m) ∧ u.slots = g.slots ∧ u.passes = g.passes ∧
      u.arbs = g.arbs ∧ u.groups = g.groups ∧ u.out = g.out ∧ u.opRest = g.opRest := by
    rw [hu, hph]
    by_cases h0 : plan = []
    · rw [if_pos h0]
      refine ⟨?_, fun _ _ => rfl, rfl, rfl, rfl, rfl, rfl, rfl⟩
      rw [hgt, h0, List.append_nil]
    · rw [if_neg h0]
      refine ⟨?_, fun m hm => State.tile_updTile_other g n m _ hm, rfl, rfl, rfl, rfl, rfl, rfl⟩
      rw [State.tile_updTile, hgt]
  obtain ⟨k1, k2, k3, k4, k5, k6, k7, k8⟩ := key
  refine ⟨k1, fun m hm => (k2 m hm).trans (hgo m hm), ?_, ⟨v, ?_, hv2⟩, ?_, ?_, k4.trans hpa⟩
  · intro k hk
    show u.slots.getD k {} = _
    rw [k3]; exact hso k hk
  · show u.slots.getD x.slot {} = _
    rw [k3]; exact hss
  · intro h0; rw [k5, k6]; exact hmg h0
  · have := State.eq_of_opRest (k8.trans hrest)
    rw [k7, hout] at this
    exact this

end Sys2Proof.Machine
end

