-- ==== Sys2Proof/WellFormed.lean ====
section
/-! DEFINITION. Well-formed commands: every number an operand carries names a place the module has. -/

namespace Sys2Proof

/-- A logical tile: 4 quarters of 16 groups with 19 logical tiles (R5 ff.). -/
def TileRef.ok (t : TileRef) : Bool := decide (t.q < 4) && decide (t.g < 16) && decide (t.t < 19)
/-- A transport names a VF of 16 or a port of 6. -/
def Transport.ok (t : Transport) : Bool :=
  match t with
  | .vf p => decide (p < 16)
  | .halyard k => decide (k < 6)
  | .pf => true
  | .mgmt => true
/-- A principal on its transport, with a tenant's slot. -/
def Via.ok (v : Via) : Bool := v.tr.ok && decide (v.slot < 17)
/-- A packet has at most 64 data units beside its header and trailer (R402). -/
def Packet.ok (p : Packet) : Bool := decide (p.units.length ≤ 64)
/-- A link codeword has 32 slots (R395). -/
def Codeword.ok (c : Codeword) : Bool := decide (c.slots.length ≤ 32)
/-- Handles of a lane operation (R159, R179). -/
def LaneArgs.ok (a : LaneArgs) : Bool :=
  decide (a.in1 < 128) && decide (a.in2 < 128) && decide (a.in3 < 128) && decide (a.in4 < 128) && decide (a.out < 128)
/-- Code words of a scratchpad: 40,960 words of 32 bytes have two each (R165). -/
def AllocArgs.ok (a : AllocArgs) : Bool := decide (a.image < 81920) && decide (a.result < 81920)
/-- Scale handles of a conversion. -/
def ConvArgs.ok (v : ConvArgs) : Bool := decide (v.scaleIn < 128) && decide (v.scaleOut < 128)
/-- TENSOR_ID has 24 bits (R118). -/
def DrawArgs.ok (v : DrawArgs) : Bool := decide (v.tensor < 2 ^ 24)
/-- A queue pair of a slot, or the module's. -/
def QPair.ok (q : QPair) : Bool :=
  match q with
  | .host p => decide (p < 16)
  | .tenant p => decide (p < 16)
  | .module => true
/-- A resource of Table 6.7. -/
def Resource.ok (x : Resource) : Bool :=
  match x with
  | .scratchSlots t => t.ok
  | .remotePort t => t.ok
  | .cachePort q => decide (q < 4)
  | .bankQueue n pch bank => decide (n < 8) && decide (pch < 32) && decide (bank < 64)
  | .boundary a b => decide (a < 80) && decide (b < 80)
  | .queueEngine q n => decide (q < 4) && decide (n < 4)
/-- A unit that completes handshake steps. -/
def Engine.ok (e : Engine) : Bool :=
  match e with
  | .cube t n => t.ok && decide (n < 16)
  | .lane t => t.ok
  | .stream t => t.ok
  | .queueEngine q n => decide (q < 4) && decide (n < 4)
  | .crossing a b => decide (a < 80) && decide (b < 80)
/-- A width class of Table 4.2 and a stall cause of Table 17.9. -/
def Offer.ok (o : Offer) : Bool := decide (o.width ∈ [32, 16, 8, 4]) && decide (o.cause < 16)
/-- The two sides of a crossing are different domains. -/
def XReading.ok (x : XReading) : Bool := decide (x.a < 80) && decide (x.b < 80) && decide (x.a ≠ x.b)
def JReading.ok (x : JReading) : Bool := decide (x.dom < 80)
/-- A bit of an FP32 accumulator. -/
def Flip.ok (f : Flip) : Bool := decide (f.bit < 32)
/-- A word of a scratchpad (R165, R202). -/
def BankAccess.ok (a : BankAccess) : Bool := decide (a.word < 40960)
/-- A word of a 256-byte unit of a stack (R287). -/
def StackAddr.ok (a : StackAddr) : Bool := decide (a.unit < 2 ^ 30) && decide (a.word < 16)
def ScrubUnit.ok (u : ScrubUnit) : Bool :=
  match u with
  | .stack n => decide (n < 8)
  | .cartridge n => decide (n < 4)
/-- Fields of a request header (Table 14.4). -/
def Request.ok (r : Request) : Bool :=
  decide (r.index < 2 ^ 16) && decide (r.sub < 2 ^ 8) && decide (r.offset < 2 ^ 24) && decide (r.data.length ≤ 32768)
/-- A dip writes five sections (R572). -/
def DipObs.ok (d : DipObs) : Bool := decide (d.committed.length = 5)
/-- A position of a ring, with its five peers (R421). -/
def Announce.ok (a : Announce) : Bool := decide (a.ring < 2) && decide (a.pos < 64) && decide (a.peers.length = 5)
/-- An offer has the 248 bytes of Table 13.7. -/
def KeyOffer.ok (k : KeyOffer) : Bool := decide (k.bytes.length = 248)
/-- A wire block has at most 1,088 bytes: 256 FP32 values and no scale, or 1,024 E4M3 values (R332). -/
def RedMsg.ok (m : RedMsg) : Bool := m.blocks.all (fun b => decide (b.length ≤ 1088))
/-- A push belongs to a micro-batch of 16 bits (R361). -/
def PushMsg.ok (m : PushMsg) : Bool := decide (m.mb < 2 ^ 16)
/-- Rounds of the owner exchange (R367). -/
def ExMsg.ok (m : ExMsg) : Bool := decide (m.round < 4)

/-- Whether a command is well formed. -/
def Instr.wf (i : Instr) : Bool :=
  match i with
  | .handshakeStep e o => e.ok && o.ok
  | .calibrationWindowEnd n _ => decide (n < 68)
  | .recalibrationDue n => decide (n < 68)
  | .regionSample q xs => decide (q < 4) && xs.all XReading.ok
  | .regionStep q a b _ => decide (q < 4) && decide (a < 80) && decide (b < 80)
  | .regionCapRelease q a b => decide (q < 4) && decide (a < 80) && decide (b < 80)
  | .crossingFreeze x => x.ok
  | .crossingResume x => x.ok
  | .crossingFrozenTimeout a b => decide (a < 80) && decide (b < 80)
  | .seedCommit via p _ => via.ok && decide (p < 16)
  | .matrix c _ plan flips => c.tile.ok && plan.all (fun l => l.all BankAccess.ok) && flips.all Flip.ok
  | .windowFwd c _ plan flips => c.tile.ok && plan.all (fun l => l.all BankAccess.ok) && flips.all Flip.ok
  | .windowWgrad c _ plan flips => c.tile.ok && plan.all (fun l => l.all BankAccess.ok) && flips.all Flip.ok
  | .flyLaneCheck t => t.ok
  | .laneAdd c a => c.tile.ok && a.ok
  | .laneSub c a => c.tile.ok && a.ok
  | .laneMul c a => c.tile.ok && a.ok
  | .laneFma c a => c.tile.ok && a.ok
  | .laneMin c a => c.tile.ok && a.ok
  | .laneMax c a => c.tile.ok && a.ok
  | .laneCompare c a _ => c.tile.ok && a.ok
  | .laneSelect c a => c.tile.ok && a.ok
  | .laneAbs c a => c.tile.ok && a.ok
  | .laneNeg c a => c.tile.ok && a.ok
  | .laneCopysign c a => c.tile.ok && a.ok
  | .laneConvert c a v => c.tile.ok && a.ok && v.ok
  | .laneExp2 c a => c.tile.ok && a.ok
  | .laneExp c a => c.tile.ok && a.ok
  | .laneRcp c a => c.tile.ok && a.ok
  | .laneRsqrt c a => c.tile.ok && a.ok
  | .laneSqrt c a => c.tile.ok && a.ok
  | .laneDiv c a => c.tile.ok && a.ok
  | .laneSigmoid c a => c.tile.ok && a.ok
  | .laneRowReduce c a _ _ => c.tile.ok && a.ok
  | .laneDraw c a v => c.tile.ok && a.ok && v.ok
  | .softMaximum c a => c.tile.ok && a.ok
  | .rmsNormBwd c a => c.tile.ok && a.ok
  | .layerNormBwd c a => c.tile.ok && a.ok
  | .softmaxBwd c a => c.tile.ok && a.ok
  | .hset c n w => c.tile.ok && decide (n < 128) && decide (w < 81920)
  | .halloc c a => c.tile.ok && a.ok
  | .hclear c n => c.tile.ok && decide (n < 128)
  | .wset c w _ => c.tile.ok && decide (w < 8)
  | .remoteTileRead c h _ _ => c.tile.ok && decide (h < 128)
  | .creq c h _ _ => c.tile.ok && decide (h < 128)
  | .creditGrant t area => t.ok && decide (area < 128)
  | .cdlv c h _ _ => c.tile.ok && decide (h < 128)
  | .crel c area _ _ => c.tile.ok && decide (area < 128)
  | .creditHoldTimeout t area _ _ => t.ok && decide (area < 128)
  | .hoist c _ => c.tile.ok
  | .spill c _ => c.tile.ok
  | .tileRead c _ => c.tile.ok
  | .tileWrite c _ => c.tile.ok
  | .windowWrite c _ => c.tile.ok
  | .queuePush c _ => c.tile.ok
  | .queuePop c _ => c.tile.ok
  | .tierPush c _ => c.tile.ok
  | .sadv c id => c.tile.ok && decide (id < 256)
  | .transferComplete t id => t.ok && decide (id < 256)
  | .streamAnswerTimeout t id _ => t.ok && decide (id < 256)
  | .drainRateUpdate t id => t.ok && decide (id < 256)
  | .arbiterGrant x => x.ok
  | .staleNotice t id _ => t.ok && decide (id < 256)
  | .leaseRefetchDone t id _ => t.ok && decide (id < 256)
  | .leaseRelease t _ => t.ok
  | .pageMove q n _ => decide (q < 4) && decide (n < 1024)
  | .tailTimeout q n => decide (q < 4) && decide (n < 1024)
  | .forwardPassIssue p _ => decide (p < 16)
  | .backwardPassIssue p _ _ => decide (p < 16)
  | .passRelease _ => true
  | .gatherPass p _ _ _ => decide (p < 16)
  | .retryAttempt _ => true
  | .stackWrite n a _ _ _ => decide (n < 8) && a.ok
  | .stackRead n a _ _ => decide (n < 8) && a.ok
  | .cacheRead q p n a _ => decide (q < 4) && decide (p < 16) && decide (n < 8) && a.ok
  | .cacheFill q p n a => decide (q < 4) && decide (p < 16) && decide (n < 8) && a.ok
  | .scrubPassStart u => u.ok
  | .scrubUnit n _ _ => decide (n < 8)
  | .pseudoChannelMoveDone n => decide (n < 8)
  | .cartridgeScrubUnit n _ _ => decide (n < 4)
  | .bankIdleProposal n pc bank => decide (n < 8) && decide (pc < 32) && decide (bank < 64)
  | .bankWake n pc bank => decide (n < 8) && decide (pc < 32) && decide (bank < 64)
  | .push p chip m => decide (p < 16) && decide (chip < 4) && m.ok
  | .heldPushAdd p chip _ => decide (p < 16) && decide (chip < 4)
  | .reductionContribution p src m => decide (p < 16) && decide (src < 64) && m.ok
  | .reductionResult p src m => decide (p < 16) && decide (src < 64) && m.ok
  | .updateStart p chip _ => decide (p < 16) && decide (chip < 4)
  | .exchange p chip _ src m => decide (p < 16) && decide (chip < 4) && decide (src < 4) && m.ok
  | .ownerExchangeTimeout p chip _ => decide (p < 16) && decide (chip < 4)
  | .permit p chip _ _ => decide (p < 16) && decide (chip < 4)
  | .writeback p chip _ => decide (p < 16) && decide (chip < 4)
  | .done p src _ _ => decide (p < 16) && decide (src < 4)
  | .load p chip _ => decide (p < 16) && decide (chip < 4)
  | .scheduleCommit via p k _ => via.ok && decide (p < 16) && decide (k < 4)
  | .lightDetected k => decide (k < 6)
  | .lossOfLight k => decide (k < 6)
  | .trainingStepTimeout k => decide (k < 6)
  | .codewordReceive k cw => decide (k < 6) && cw.ok
  | .retryRequest k _ => decide (k < 6)
  | .retryRequestTimeout k => decide (k < 6)
  | .linkHoldTimeout k => decide (k < 6)
  | .transmitPacket k => decide (k < 6)
  | .queueData k pk => decide (k < 6) && pk.ok
  | .windowWritePacket k pk => decide (k < 6) && pk.ok
  | .windowAck k pk => decide (k < 6) && pk.ok
  | .windowRefuse k pk => decide (k < 6) && pk.ok
  | .frame pk => pk.ok
  | .streamDeclare pk => pk.ok
  | .credit k pk => decide (k < 6) && pk.ok
  | .creditReturnTimeout k => decide (k < 6)
  | .caps k pk => decide (k < 6) && pk.ok
  | .topology k a => decide (k < 6) && a.ok
  | .insertPermit via _ => via.ok
  | .joinHold via _ => via.ok
  | .bypassSwitchFault => true
  | .digestRecord p _ => decide (p < 16)
  | .digestWaitTimeout p _ => decide (p < 16)
  | .probe p _ => decide (p < 16)
  | .probeAnswer p _ => decide (p < 16)
  | .probeTimeout p => decide (p < 16)
  | .halt p _ => decide (p < 16)
  | .target p ring pos _ => decide (p < 16) && decide (ring < 2) && decide (pos < 64)
  | .retainedChunk p _ => decide (p < 16)
  | .selfTest p _ _ => decide (p < 16)
  | .rollbackResume via p => via.ok && decide (p < 16)
  | .rejoinSource via p _ => via.ok && decide (p < 16)
  | .boundary p ring _ => decide (p < 16) && decide (ring < 2)
  | .workingCopyMessage p _ => decide (p < 16)
  | .scaleTableMessage p _ => decide (p < 16)
  | .stateMessage p _ => decide (p < 16)
  | .partDigest p _ _ => decide (p < 16)
  | .reloadDone p _ => decide (p < 16)
  | .exportedPart p _ => decide (p < 16)
  | .spareMapping q g t _ => TileRef.ok ⟨q, g, t⟩
  | .strike => true
  | .grant via p => via.ok && decide (p < 16)
  | .release via p => via.ok && decide (p < 16)
  | .haltCommand via p => via.ok && decide (p < 16)
  | .resume via p => via.ok && decide (p < 16)
  | .keyOffer k => k.ok
  | .keyAgreementRetry p => decide (p < 16)
  | .meterSnapshot via p => via.ok && decide (p < 16)
  | .firmwareImageWrite via _ => via.ok
  | .firmwareActivate via => via.ok
  | .firmwareCommit via => via.ok
  | .attestationNonce via p _ => via.ok && decide (p.getD 0 < 16)
  | .reportReady p => decide (p.getD 0 < 16)
  | .checkpointKeyInstall via p _ => via.ok && decide (p < 16)
  | .chassisKeyWrite via _ => via.ok
  | .vendorUnlock via _ => via.ok
  | .vendorSessionEnd via => via.ok
  | .read via r => via.ok && r.ok
  | .write via r => via.ok && r.ok
  | .readSegment via r => via.ok && r.ok
  | .writeSegment via r => via.ok && r.ok
  | .writeFinal via r => via.ok && r.ok
  | .describe via r => via.ok && r.ok
  | .next via r => via.ok && r.ok
  | .blobTransferTimeout ix sub => decide (ix < 65536) && decide (sub < 256)
  | .registerWrite tr bar _ _ => tr.ok && decide (bar < 6)
  | .go tr d => tr.ok && d.ok
  | .doneClear tr => tr.ok
  | .sqTail qp _ _ => qp.ok
  | .cqHead qp _ => qp.ok
  | .queuePairDisable qp => qp.ok
  | .loadImage qp _ _ => qp.ok
  | .checkpointExport qp _ => qp.ok
  | .checkpointMeta qp _ => qp.ok
  | .managementFrame _ d => d.ok
  | .remoteRequest k pk => decide (k < 6) && pk.ok
  | .remoteResponse k pk => decide (k < 6) && pk.ok
  | .turnOn => true
  | .powerOnStepTimeout _ => true
  | .brownout d => d.ok
  | .overvoltage d => d.ok
  | .rideThrough => true
  | .thermalSample js => js.all JReading.ok
  | .powerCapSample _ _ _ _ _ => true
  | .junctionCriticalTimeout d => decide (d < 80)
  | .regulatorFault d => decide (d < 80)
  | .coolantRiseHigh _ _ => true
  | .vbankLow _ => true
  | .prsntNAsserted => true
  | .prsntNDeasserted d => d.ok
  | .mrstN _ d => d.ok
  | .perst => true
  | .functionLevelReset fn => decide (fn < 17)
  | .moduleReset via d => via.ok && d.ok
  | .proving _ => true
  | .provingStepTimeout _ => true
  | .boundaryScanEntry => true
  | .cartridgeRemoved k => decide (k < 4)
  | .cartridgeInserted k => decide (k < 4)
  | .testMode via _ => via.ok
  | .flyLaneDisabled via _ => via.ok
  | .deepModeTestEnable via _ => via.ok
  | .loopbackStart via k _ => via.ok && decide (k < 20)
  | .loopbackEnd k _ => decide (k < 20)
  | .spareMapReset via _ => via.ok
  | .stallTileSelect via _ => via.ok
  | .logClear via _ => via.ok
  | .deadlineMiss t id => t.ok && decide (id < 256)

/-- The pennant slot a command names. -/
def Instr.slot? (i : Instr) : Option Nat :=
  match i with
  | .seedCommit _ p _ => some p
  | .forwardPassIssue p _ => some p
  | .backwardPassIssue p _ _ => some p
  | .gatherPass p _ _ _ => some p
  | .cacheRead _ p _ _ _ => some p
  | .cacheFill _ p _ _ => some p
  | .push p _ _ => some p
  | .heldPushAdd p _ _ => some p
  | .reductionContribution p _ _ => some p
  | .reductionResult p _ _ => some p
  | .updateStart p _ _ => some p
  | .exchange p _ _ _ _ => some p
  | .ownerExchangeTimeout p _ _ => some p
  | .permit p _ _ _ => some p
  | .writeback p _ _ => some p
  | .done p _ _ _ => some p
  | .load p _ _ => some p
  | .scheduleCommit _ p _ _ => some p
  | .digestRecord p _ => some p
  | .digestWaitTimeout p _ => some p
  | .probe p _ => some p
  | .probeAnswer p _ => some p
  | .probeTimeout p => some p
  | .halt p _ => some p
  | .target p _ _ _ => some p
  | .retainedChunk p _ => some p
  | .selfTest p _ _ => some p
  | .rollbackResume _ p => some p
  | .rejoinSource _ p _ => some p
  | .boundary p _ _ => some p
  | .workingCopyMessage p _ => some p
  | .scaleTableMessage p _ => some p
  | .stateMessage p _ => some p
  | .partDigest p _ _ => some p
  | .reloadDone p _ => some p
  | .exportedPart p _ => some p
  | .grant _ p => some p
  | .release _ p => some p
  | .haltCommand _ p => some p
  | .resume _ p => some p
  | .keyAgreementRetry p => some p
  | .meterSnapshot _ p => some p
  | .checkpointKeyInstall _ p _ => some p
  | _ => none

end Sys2Proof
end

