-- ==== Sys2Proof/Laws/PerInstr.lean ====
section
/-! SUPPORT. Well-formed commands, constructor by constructor. -/

set_option Elab.async false

namespace Sys2Proof.Laws.WellFormed

/-- A well-formed command names one of the 16 pennant slots, where it names one. -/
def Statement (i : Instr) : Prop := i.wf = true → ∀ p, i.slot? = some p → p < 16

theorem handshakeStep (e : Engine) (o : Offer) : Statement (.handshakeStep e o) := fun _ _ e => nomatch e
theorem calibrationWindowEnd (n : Nat) (count : Nat) : Statement (.calibrationWindowEnd n count) := fun _ _ e => nomatch e
theorem recalibrationDue (n : Nat) : Statement (.recalibrationDue n) := fun _ _ e => nomatch e
theorem regionSample (q : Nat) (xs : List XReading) : Statement (.regionSample q xs) := fun _ _ e => nomatch e
theorem regionStep (q : Nat) (a : Nat) (b : Nat) (count : Nat) : Statement (.regionStep q a b count) := fun _ _ e => nomatch e
theorem regionCapRelease (q : Nat) (a : Nat) (b : Nat) : Statement (.regionCapRelease q a b) := fun _ _ e => nomatch e
theorem crossingFreeze (x : XReading) : Statement (.crossingFreeze x) := fun _ _ e => nomatch e
theorem crossingResume (x : XReading) : Statement (.crossingResume x) := fun _ _ e => nomatch e
theorem crossingFrozenTimeout (a : Nat) (b : Nat) : Statement (.crossingFrozenTimeout a b) := fun _ _ e => nomatch e
theorem seedCommit (via : Via) (p : Nat) (e : Nat) : Statement (.seedCommit via p e) := by
  intro h p' e; simp_all [Instr.wf, Instr.slot?]
theorem matrix (c : OpCtx) (d : BitVec 192) (plan : List (List BankAccess)) (flips : List Flip) : Statement (.matrix c d plan flips) := fun _ _ e => nomatch e
theorem windowFwd (c : OpCtx) (d : BitVec 192) (plan : List (List BankAccess)) (flips : List Flip) : Statement (.windowFwd c d plan flips) := fun _ _ e => nomatch e
theorem windowWgrad (c : OpCtx) (d : BitVec 192) (plan : List (List BankAccess)) (flips : List Flip) : Statement (.windowWgrad c d plan flips) := fun _ _ e => nomatch e
theorem flyLaneCheck (t : TileRef) : Statement (.flyLaneCheck t) := fun _ _ e => nomatch e
theorem laneAdd (c : OpCtx) (a : LaneArgs) : Statement (.laneAdd c a) := fun _ _ e => nomatch e
theorem laneSub (c : OpCtx) (a : LaneArgs) : Statement (.laneSub c a) := fun _ _ e => nomatch e
theorem laneMul (c : OpCtx) (a : LaneArgs) : Statement (.laneMul c a) := fun _ _ e => nomatch e
theorem laneFma (c : OpCtx) (a : LaneArgs) : Statement (.laneFma c a) := fun _ _ e => nomatch e
theorem laneMin (c : OpCtx) (a : LaneArgs) : Statement (.laneMin c a) := fun _ _ e => nomatch e
theorem laneMax (c : OpCtx) (a : LaneArgs) : Statement (.laneMax c a) := fun _ _ e => nomatch e
theorem laneCompare (c : OpCtx) (a : LaneArgs) (p : Cmp) : Statement (.laneCompare c a p) := fun _ _ e => nomatch e
theorem laneSelect (c : OpCtx) (a : LaneArgs) : Statement (.laneSelect c a) := fun _ _ e => nomatch e
theorem laneAbs (c : OpCtx) (a : LaneArgs) : Statement (.laneAbs c a) := fun _ _ e => nomatch e
theorem laneNeg (c : OpCtx) (a : LaneArgs) : Statement (.laneNeg c a) := fun _ _ e => nomatch e
theorem laneCopysign (c : OpCtx) (a : LaneArgs) : Statement (.laneCopysign c a) := fun _ _ e => nomatch e
theorem laneConvert (c : OpCtx) (a : LaneArgs) (v : ConvArgs) : Statement (.laneConvert c a v) := fun _ _ e => nomatch e
theorem laneExp2 (c : OpCtx) (a : LaneArgs) : Statement (.laneExp2 c a) := fun _ _ e => nomatch e
theorem laneExp (c : OpCtx) (a : LaneArgs) : Statement (.laneExp c a) := fun _ _ e => nomatch e
theorem laneRcp (c : OpCtx) (a : LaneArgs) : Statement (.laneRcp c a) := fun _ _ e => nomatch e
theorem laneRsqrt (c : OpCtx) (a : LaneArgs) : Statement (.laneRsqrt c a) := fun _ _ e => nomatch e
theorem laneSqrt (c : OpCtx) (a : LaneArgs) : Statement (.laneSqrt c a) := fun _ _ e => nomatch e
theorem laneDiv (c : OpCtx) (a : LaneArgs) : Statement (.laneDiv c a) := fun _ _ e => nomatch e
theorem laneSigmoid (c : OpCtx) (a : LaneArgs) : Statement (.laneSigmoid c a) := fun _ _ e => nomatch e
theorem laneRowReduce (c : OpCtx) (a : LaneArgs) (op : RowOp) (byCol : Bool) : Statement (.laneRowReduce c a op byCol) := fun _ _ e => nomatch e
theorem laneDraw (c : OpCtx) (a : LaneArgs) (v : DrawArgs) : Statement (.laneDraw c a v) := fun _ _ e => nomatch e
theorem softMaximum (c : OpCtx) (a : LaneArgs) : Statement (.softMaximum c a) := fun _ _ e => nomatch e
theorem rmsNormBwd (c : OpCtx) (a : LaneArgs) : Statement (.rmsNormBwd c a) := fun _ _ e => nomatch e
theorem layerNormBwd (c : OpCtx) (a : LaneArgs) : Statement (.layerNormBwd c a) := fun _ _ e => nomatch e
theorem softmaxBwd (c : OpCtx) (a : LaneArgs) : Statement (.softmaxBwd c a) := fun _ _ e => nomatch e
theorem hset (c : OpCtx) (n : Nat) (w : Nat) : Statement (.hset c n w) := fun _ _ e => nomatch e
theorem halloc (c : OpCtx) (a : AllocArgs) : Statement (.halloc c a) := fun _ _ e => nomatch e
theorem hclear (c : OpCtx) (n : Nat) : Statement (.hclear c n) := fun _ _ e => nomatch e
theorem wset (c : OpCtx) (w : Nat) (e : BitVec 128) : Statement (.wset c w e) := fun _ _ e => nomatch e
theorem remoteTileRead (c : OpCtx) (h : Nat) (off : Nat) (len : Nat) : Statement (.remoteTileRead c h off len) := fun _ _ e => nomatch e
theorem creq (c : OpCtx) (h : Nat) (first : Nat) (count : Nat) : Statement (.creq c h first count) := fun _ _ e => nomatch e
theorem creditGrant (t : TileRef) (area : Nat) : Statement (.creditGrant t area) := fun _ _ e => nomatch e
theorem cdlv (c : OpCtx) (h : Nat) (first : Nat) (count : Nat) : Statement (.cdlv c h first count) := fun _ _ e => nomatch e
theorem crel (c : OpCtx) (area : Nat) (first : Nat) (count : Nat) : Statement (.crel c area first count) := fun _ _ e => nomatch e
theorem creditHoldTimeout (t : TileRef) (area : Nat) (first : Nat) (count : Nat) : Statement (.creditHoldTimeout t area first count) := fun _ _ e => nomatch e
theorem hoist (c : OpCtx) (d : BitVec 256) : Statement (.hoist c d) := fun _ _ e => nomatch e
theorem spill (c : OpCtx) (d : BitVec 256) : Statement (.spill c d) := fun _ _ e => nomatch e
theorem tileRead (c : OpCtx) (d : BitVec 256) : Statement (.tileRead c d) := fun _ _ e => nomatch e
theorem tileWrite (c : OpCtx) (d : BitVec 256) : Statement (.tileWrite c d) := fun _ _ e => nomatch e
theorem windowWrite (c : OpCtx) (d : BitVec 256) : Statement (.windowWrite c d) := fun _ _ e => nomatch e
theorem queuePush (c : OpCtx) (d : BitVec 256) : Statement (.queuePush c d) := fun _ _ e => nomatch e
theorem queuePop (c : OpCtx) (d : BitVec 256) : Statement (.queuePop c d) := fun _ _ e => nomatch e
theorem tierPush (c : OpCtx) (d : BitVec 256) : Statement (.tierPush c d) := fun _ _ e => nomatch e
theorem sadv (c : OpCtx) (id : Nat) : Statement (.sadv c id) := fun _ _ e => nomatch e
theorem transferComplete (t : TileRef) (id : Nat) : Statement (.transferComplete t id) := fun _ _ e => nomatch e
theorem streamAnswerTimeout (t : TileRef) (id : Nat) (sq : Nat) : Statement (.streamAnswerTimeout t id sq) := fun _ _ e => nomatch e
theorem drainRateUpdate (t : TileRef) (id : Nat) : Statement (.drainRateUpdate t id) := fun _ _ e => nomatch e
theorem arbiterGrant (x : Resource) : Statement (.arbiterGrant x) := fun _ _ e => nomatch e
theorem staleNotice (t : TileRef) (id : Nat) (unit : Nat) : Statement (.staleNotice t id unit) := fun _ _ e => nomatch e
theorem leaseRefetchDone (t : TileRef) (id : Nat) (unit : Nat) : Statement (.leaseRefetchDone t id unit) := fun _ _ e => nomatch e
theorem leaseRelease (t : TileRef) (ev : Nat) : Statement (.leaseRelease t ev) := fun _ _ e => nomatch e
theorem pageMove (q : Nat) (n : Nat) (d : PageDir) : Statement (.pageMove q n d) := fun _ _ e => nomatch e
theorem tailTimeout (q : Nat) (n : Nat) : Statement (.tailTimeout q n) := fun _ _ e => nomatch e
theorem forwardPassIssue (p : Nat) (b : Nat) : Statement (.forwardPassIssue p b) := by
  intro h p' e; simp_all [Instr.wf, Instr.slot?]
theorem backwardPassIssue (p : Nat) (b : Nat) (mb : Nat) : Statement (.backwardPassIssue p b mb) := by
  intro h p' e; simp_all [Instr.wf, Instr.slot?]
theorem passRelease (id : Nat) : Statement (.passRelease id) := fun _ _ e => nomatch e
theorem gatherPass (p : Nat) (tensor : Nat) (mb : Nat) (stp : Nat) : Statement (.gatherPass p tensor mb stp) := by
  intro h p' e; simp_all [Instr.wf, Instr.slot?]
theorem retryAttempt (id : Nat) : Statement (.retryAttempt id) := fun _ _ e => nomatch e
theorem stackWrite (n : Nat) (a : StackAddr) (who : Nat) (w : Code160) (nz : Noise) : Statement (.stackWrite n a who w nz) := fun _ _ e => nomatch e
theorem stackRead (n : Nat) (a : StackAddr) (who : Nat) (nz : Noise) : Statement (.stackRead n a who nz) := fun _ _ e => nomatch e
theorem cacheRead (q : Nat) (p : Nat) (n : Nat) (a : StackAddr) (nz : Noise) : Statement (.cacheRead q p n a nz) := by
  intro h p' e; simp_all [Instr.wf, Instr.slot?]
theorem cacheFill (q : Nat) (p : Nat) (n : Nat) (a : StackAddr) : Statement (.cacheFill q p n a) := by
  intro h p' e; simp_all [Instr.wf, Instr.slot?]
theorem scrubPassStart (u : ScrubUnit) : Statement (.scrubPassStart u) := fun _ _ e => nomatch e
theorem scrubUnit (n : Nat) (noise : List (BitVec 160)) (again : List (BitVec 160)) : Statement (.scrubUnit n noise again) := fun _ _ e => nomatch e
theorem pseudoChannelMoveDone (n : Nat) : Statement (.pseudoChannelMoveDone n) := fun _ _ e => nomatch e
theorem cartridgeScrubUnit (n : Nat) (noise : List (BitVec 160)) (again : List (BitVec 160)) : Statement (.cartridgeScrubUnit n noise again) := fun _ _ e => nomatch e
theorem bankIdleProposal (n : Nat) (pc : Nat) (bank : Nat) : Statement (.bankIdleProposal n pc bank) := fun _ _ e => nomatch e
theorem bankWake (n : Nat) (pc : Nat) (bank : Nat) : Statement (.bankWake n pc bank) := fun _ _ e => nomatch e
theorem push (p : Nat) (chip : Nat) (m : PushMsg) : Statement (.push p chip m) := by
  intro h p' e; simp_all [Instr.wf, Instr.slot?]
theorem heldPushAdd (p : Nat) (chip : Nat) (ix : Nat) : Statement (.heldPushAdd p chip ix) := by
  intro h p' e; simp_all [Instr.wf, Instr.slot?]
theorem reductionContribution (p : Nat) (src : Nat) (m : RedMsg) : Statement (.reductionContribution p src m) := by
  intro h p' e; simp_all [Instr.wf, Instr.slot?]
theorem reductionResult (p : Nat) (src : Nat) (m : RedMsg) : Statement (.reductionResult p src m) := by
  intro h p' e; simp_all [Instr.wf, Instr.slot?]
theorem updateStart (p : Nat) (chip : Nat) (ix : Nat) : Statement (.updateStart p chip ix) := by
  intro h p' e; simp_all [Instr.wf, Instr.slot?]
theorem exchange (p : Nat) (chip : Nat) (ix : Nat) (src : Nat) (m : ExMsg) : Statement (.exchange p chip ix src m) := by
  intro h p' e; simp_all [Instr.wf, Instr.slot?]
theorem ownerExchangeTimeout (p : Nat) (chip : Nat) (ix : Nat) : Statement (.ownerExchangeTimeout p chip ix) := by
  intro h p' e; simp_all [Instr.wf, Instr.slot?]
theorem permit (p : Nat) (chip : Nat) (set : Nat) (stp : Nat) : Statement (.permit p chip set stp) := by
  intro h p' e; simp_all [Instr.wf, Instr.slot?]
theorem writeback (p : Nat) (chip : Nat) (ix : Nat) : Statement (.writeback p chip ix) := by
  intro h p' e; simp_all [Instr.wf, Instr.slot?]
theorem done (p : Nat) (src : Nat) (set : Nat) (stp : Nat) : Statement (.done p src set stp) := by
  intro h p' e; simp_all [Instr.wf, Instr.slot?]
theorem load (p : Nat) (chip : Nat) (m : LoadMsg) : Statement (.load p chip m) := by
  intro h p' e; simp_all [Instr.wf, Instr.slot?]
theorem scheduleCommit (via : Via) (p : Nat) (k : Nat) (e : Nat) : Statement (.scheduleCommit via p k e) := by
  intro h p' e; simp_all [Instr.wf, Instr.slot?]
theorem lightDetected (k : Nat) : Statement (.lightDetected k) := fun _ _ e => nomatch e
theorem lossOfLight (k : Nat) : Statement (.lossOfLight k) := fun _ _ e => nomatch e
theorem trainingStepTimeout (k : Nat) : Statement (.trainingStepTimeout k) := fun _ _ e => nomatch e
theorem codewordReceive (k : Nat) (cw : Codeword) : Statement (.codewordReceive k cw) := fun _ _ e => nomatch e
theorem retryRequest (k : Nat) (sq : Nat) : Statement (.retryRequest k sq) := fun _ _ e => nomatch e
theorem retryRequestTimeout (k : Nat) : Statement (.retryRequestTimeout k) := fun _ _ e => nomatch e
theorem linkHoldTimeout (k : Nat) : Statement (.linkHoldTimeout k) := fun _ _ e => nomatch e
theorem transmitPacket (k : Nat) : Statement (.transmitPacket k) := fun _ _ e => nomatch e
theorem queueData (k : Nat) (pk : Packet) : Statement (.queueData k pk) := fun _ _ e => nomatch e
theorem windowWritePacket (k : Nat) (pk : Packet) : Statement (.windowWritePacket k pk) := fun _ _ e => nomatch e
theorem windowAck (k : Nat) (pk : Packet) : Statement (.windowAck k pk) := fun _ _ e => nomatch e
theorem windowRefuse (k : Nat) (pk : Packet) : Statement (.windowRefuse k pk) := fun _ _ e => nomatch e
theorem frame (pk : Packet) : Statement (.frame pk) := fun _ _ e => nomatch e
theorem streamDeclare (pk : Packet) : Statement (.streamDeclare pk) := fun _ _ e => nomatch e
theorem credit (k : Nat) (pk : Packet) : Statement (.credit k pk) := fun _ _ e => nomatch e
theorem creditReturnTimeout (k : Nat) : Statement (.creditReturnTimeout k) := fun _ _ e => nomatch e
theorem caps (k : Nat) (pk : Packet) : Statement (.caps k pk) := fun _ _ e => nomatch e
theorem topology (k : Nat) (a : Announce) : Statement (.topology k a) := fun _ _ e => nomatch e
theorem insertPermit (via : Via) (v : Nat) : Statement (.insertPermit via v) := fun _ _ e => nomatch e
theorem joinHold (via : Via) (v : Nat) : Statement (.joinHold via v) := fun _ _ e => nomatch e
theorem bypassSwitchFault : Statement (.bypassSwitchFault) := fun _ _ e => nomatch e
theorem digestRecord (p : Nat) (d : BitVec 512) : Statement (.digestRecord p d) := by
  intro h p' e; simp_all [Instr.wf, Instr.slot?]
theorem digestWaitTimeout (p : Nat) (id : Nat) : Statement (.digestWaitTimeout p id) := by
  intro h p' e; simp_all [Instr.wf, Instr.slot?]
theorem probe (p : Nat) (m : RecMsg) : Statement (.probe p m) := by
  intro h p' e; simp_all [Instr.wf, Instr.slot?]
theorem probeAnswer (p : Nat) (m : RecMsg) : Statement (.probeAnswer p m) := by
  intro h p' e; simp_all [Instr.wf, Instr.slot?]
theorem probeTimeout (p : Nat) : Statement (.probeTimeout p) := by
  intro h p' e; simp_all [Instr.wf, Instr.slot?]
theorem halt (p : Nat) (m : RecMsg) : Statement (.halt p m) := by
  intro h p' e; simp_all [Instr.wf, Instr.slot?]
theorem target (p : Nat) (ring : Nat) (pos : Nat) (m : RecMsg) : Statement (.target p ring pos m) := by
  intro h p' e; simp_all [Instr.wf, Instr.slot?]
theorem retainedChunk (p : Nat) (m : RecMsg) : Statement (.retainedChunk p m) := by
  intro h p' e; simp_all [Instr.wf, Instr.slot?]
theorem selfTest (p : Nat) (m : RecMsg) (own : Option (SiteKind × Nat)) : Statement (.selfTest p m own) := by
  intro h p' e; simp_all [Instr.wf, Instr.slot?]
theorem rollbackResume (via : Via) (p : Nat) : Statement (.rollbackResume via p) := by
  intro h p' e; simp_all [Instr.wf, Instr.slot?]
theorem rejoinSource (via : Via) (p : Nat) (v : Nat) : Statement (.rejoinSource via p v) := by
  intro h p' e; simp_all [Instr.wf, Instr.slot?]
theorem boundary (p : Nat) (ring : Nat) (m : RecMsg) : Statement (.boundary p ring m) := by
  intro h p' e; simp_all [Instr.wf, Instr.slot?]
theorem workingCopyMessage (p : Nat) (m : RecMsg) : Statement (.workingCopyMessage p m) := by
  intro h p' e; simp_all [Instr.wf, Instr.slot?]
theorem scaleTableMessage (p : Nat) (m : RecMsg) : Statement (.scaleTableMessage p m) := by
  intro h p' e; simp_all [Instr.wf, Instr.slot?]
theorem stateMessage (p : Nat) (m : RecMsg) : Statement (.stateMessage p m) := by
  intro h p' e; simp_all [Instr.wf, Instr.slot?]
theorem partDigest (p : Nat) (f : Bool) (m : RecMsg) : Statement (.partDigest p f m) := by
  intro h p' e; simp_all [Instr.wf, Instr.slot?]
theorem reloadDone (p : Nat) (m : RecMsg) : Statement (.reloadDone p m) := by
  intro h p' e; simp_all [Instr.wf, Instr.slot?]
theorem exportedPart (p : Nat) (m : RecMsg) : Statement (.exportedPart p m) := by
  intro h p' e; simp_all [Instr.wf, Instr.slot?]
theorem spareMapping (q : Nat) (g : Nat) (t : Nat) (lost : Bool) : Statement (.spareMapping q g t lost) := fun _ _ e => nomatch e
theorem strike : Statement (.strike) := fun _ _ e => nomatch e
theorem grant (via : Via) (p : Nat) : Statement (.grant via p) := by
  intro h p' e; simp_all [Instr.wf, Instr.slot?]
theorem release (via : Via) (p : Nat) : Statement (.release via p) := by
  intro h p' e; simp_all [Instr.wf, Instr.slot?]
theorem haltCommand (via : Via) (p : Nat) : Statement (.haltCommand via p) := by
  intro h p' e; simp_all [Instr.wf, Instr.slot?]
theorem resume (via : Via) (p : Nat) : Statement (.resume via p) := by
  intro h p' e; simp_all [Instr.wf, Instr.slot?]
theorem keyOffer (k : KeyOffer) : Statement (.keyOffer k) := fun _ _ e => nomatch e
theorem keyAgreementRetry (p : Nat) : Statement (.keyAgreementRetry p) := by
  intro h p' e; simp_all [Instr.wf, Instr.slot?]
theorem meterSnapshot (via : Via) (p : Nat) : Statement (.meterSnapshot via p) := by
  intro h p' e; simp_all [Instr.wf, Instr.slot?]
theorem firmwareImageWrite (via : Via) (f : FwImage) : Statement (.firmwareImageWrite via f) := fun _ _ e => nomatch e
theorem firmwareActivate (via : Via) : Statement (.firmwareActivate via) := fun _ _ e => nomatch e
theorem firmwareCommit (via : Via) : Statement (.firmwareCommit via) := fun _ _ e => nomatch e
theorem attestationNonce (via : Via) (p : Option Nat) (nonce : List Byte) : Statement (.attestationNonce via p nonce) := fun _ _ e => nomatch e
theorem reportReady (p : Option Nat) : Statement (.reportReady p) := fun _ _ e => nomatch e
theorem checkpointKeyInstall (via : Via) (p : Nat) (v : List Byte) : Statement (.checkpointKeyInstall via p v) := by
  intro h p' e; simp_all [Instr.wf, Instr.slot?]
theorem chassisKeyWrite (via : Via) (v : List Byte) : Statement (.chassisKeyWrite via v) := fun _ _ e => nomatch e
theorem vendorUnlock (via : Via) (v : List Byte) : Statement (.vendorUnlock via v) := fun _ _ e => nomatch e
theorem vendorSessionEnd (via : Via) : Statement (.vendorSessionEnd via) := fun _ _ e => nomatch e
theorem read (via : Via) (r : Request) : Statement (.read via r) := fun _ _ e => nomatch e
theorem write (via : Via) (r : Request) : Statement (.write via r) := fun _ _ e => nomatch e
theorem readSegment (via : Via) (r : Request) : Statement (.readSegment via r) := fun _ _ e => nomatch e
theorem writeSegment (via : Via) (r : Request) : Statement (.writeSegment via r) := fun _ _ e => nomatch e
theorem writeFinal (via : Via) (r : Request) : Statement (.writeFinal via r) := fun _ _ e => nomatch e
theorem describe (via : Via) (r : Request) : Statement (.describe via r) := fun _ _ e => nomatch e
theorem next (via : Via) (r : Request) : Statement (.next via r) := fun _ _ e => nomatch e
theorem blobTransferTimeout (ix : Nat) (sub : Nat) : Statement (.blobTransferTimeout ix sub) := fun _ _ e => nomatch e
theorem registerWrite (tr : Transport) (bar : Nat) (off : Nat) (v : List Byte) : Statement (.registerWrite tr bar off v) := fun _ _ e => nomatch e
theorem go (tr : Transport) (d : DipObs) : Statement (.go tr d) := fun _ _ e => nomatch e
theorem doneClear (tr : Transport) : Statement (.doneClear tr) := fun _ _ e => nomatch e
theorem sqTail (qp : QPair) (v : Nat) (ents : List (BitVec 512)) : Statement (.sqTail qp v ents) := fun _ _ e => nomatch e
theorem cqHead (qp : QPair) (v : Nat) : Statement (.cqHead qp v) := fun _ _ e => nomatch e
theorem queuePairDisable (qp : QPair) : Statement (.queuePairDisable qp) := fun _ _ e => nomatch e
theorem loadImage (qp : QPair) (e : BitVec 512) (im : Option Image) : Statement (.loadImage qp e im) := fun _ _ e => nomatch e
theorem checkpointExport (qp : QPair) (e : BitVec 512) : Statement (.checkpointExport qp e) := fun _ _ e => nomatch e
theorem checkpointMeta (qp : QPair) (e : BitVec 512) : Statement (.checkpointMeta qp e) := fun _ _ e => nomatch e
theorem managementFrame (f : List Byte) (d : DipObs) : Statement (.managementFrame f d) := fun _ _ e => nomatch e
theorem remoteRequest (k : Nat) (pk : Packet) : Statement (.remoteRequest k pk) := fun _ _ e => nomatch e
theorem remoteResponse (k : Nat) (pk : Packet) : Statement (.remoteResponse k pk) := fun _ _ e => nomatch e
theorem turnOn : Statement (.turnOn) := fun _ _ e => nomatch e
theorem powerOnStepTimeout (n : Nat) : Statement (.powerOnStepTimeout n) := fun _ _ e => nomatch e
theorem brownout (d : DipObs) : Statement (.brownout d) := fun _ _ e => nomatch e
theorem overvoltage (d : DipObs) : Statement (.overvoltage d) := fun _ _ e => nomatch e
theorem rideThrough : Statement (.rideThrough) := fun _ _ e => nomatch e
theorem thermalSample (js : List JReading) : Statement (.thermalSample js) := fun _ _ e => nomatch e
theorem powerCapSample (vin : Nat) (w : Nat) (die : Nat) (mw : List (Nat × Nat)) (calm : Bool) : Statement (.powerCapSample vin w die mw calm) := fun _ _ e => nomatch e
theorem junctionCriticalTimeout (d : Nat) : Statement (.junctionCriticalTimeout d) := fun _ _ e => nomatch e
theorem regulatorFault (d : Nat) : Statement (.regulatorFault d) := fun _ _ e => nomatch e
theorem coolantRiseHigh (inlet : Int) (outlet : Int) : Statement (.coolantRiseHigh inlet outlet) := fun _ _ e => nomatch e
theorem vbankLow (mv : Nat) : Statement (.vbankLow mv) := fun _ _ e => nomatch e
theorem prsntNAsserted : Statement (.prsntNAsserted) := fun _ _ e => nomatch e
theorem prsntNDeasserted (d : DipObs) : Statement (.prsntNDeasserted d) := fun _ _ e => nomatch e
theorem mrstN (us : Nat) (d : DipObs) : Statement (.mrstN us d) := fun _ _ e => nomatch e
theorem perst : Statement (.perst) := fun _ _ e => nomatch e
theorem functionLevelReset (fn : Nat) : Statement (.functionLevelReset fn) := fun _ _ e => nomatch e
theorem moduleReset (via : Via) (d : DipObs) : Statement (.moduleReset via d) := fun _ _ e => nomatch e
theorem proving (x : ProveIn) : Statement (.proving x) := fun _ _ e => nomatch e
theorem provingStepTimeout (n : Nat) : Statement (.provingStepTimeout n) := fun _ _ e => nomatch e
theorem boundaryScanEntry : Statement (.boundaryScanEntry) := fun _ _ e => nomatch e
theorem cartridgeRemoved (k : Nat) : Statement (.cartridgeRemoved k) := fun _ _ e => nomatch e
theorem cartridgeInserted (k : Nat) : Statement (.cartridgeInserted k) := fun _ _ e => nomatch e
theorem testMode (via : Via) (v : Nat) : Statement (.testMode via v) := fun _ _ e => nomatch e
theorem flyLaneDisabled (via : Via) (v : Nat) : Statement (.flyLaneDisabled via v) := fun _ _ e => nomatch e
theorem deepModeTestEnable (via : Via) (v : Nat) : Statement (.deepModeTestEnable via v) := fun _ _ e => nomatch e
theorem loopbackStart (via : Via) (k : Nat) (v : Nat) : Statement (.loopbackStart via k v) := fun _ _ e => nomatch e
theorem loopbackEnd (k : Nat) (res : LoopResult) : Statement (.loopbackEnd k res) := fun _ _ e => nomatch e
theorem spareMapReset (via : Via) (v : Nat) : Statement (.spareMapReset via v) := fun _ _ e => nomatch e
theorem stallTileSelect (via : Via) (v : Nat) : Statement (.stallTileSelect via v) := fun _ _ e => nomatch e
theorem logClear (via : Via) (v : Nat) : Statement (.logClear via v) := fun _ _ e => nomatch e
theorem deadlineMiss (t : TileRef) (id : Nat) : Statement (.deadlineMiss t id) := fun _ _ e => nomatch e

end Sys2Proof.Laws.WellFormed
end

