-- ==== Sys2Proof/Laws/Products.lean ====
section
/-! SUPPORT. Products and lane operations run: from what Safety asks of the operands alone to the answer of the command. -/

set_option Elab.async false

namespace Sys2Proof.Laws

open Sys2Proof.Machine

section
variable {α β ε : Type}
theorem mapM_ok (l : List α) (f : α → Except ε β) (g : α → β) (h : ∀ a ∈ l, f a = .ok (g a)) : l.mapM f = .ok (l.map g) := by
  induction l with
  | nil => rfl
  | cons a l ih =>
    have h1 := h a (by simp)
    have h2 := ih (fun b hb => h b (by simp [hb]))
    simp only [List.mapM_cons, h1, h2, List.map_cons]
    rfl
theorem ok_bind (a : α) (f : α → Except ε β) : (Except.ok a >>= f) = f a := rfl
end

theorem prodRegs_ready (t : Tile) (d : BitVec 192) (z : ProdShape) (g : ProdRegs) (h : Safety.ProductReady t d z g) :
    shapeRegs t d z = .ok g := by
  obtain ⟨h1, h2, h3, h4, h5, h6, h7, h8, h9, h10, ha, hac, haf, hat, hb, hbc, hbf, hbt, ho, hoc, hof, hsa, hsb, hbi, hov, hwr, hrd, hr⟩ := h
  have e : prodRegs t d z.op z.ar z.ac z.al z.br z.bc z.bl = .ok g := by
    have o1 : ¬ (pOp d ≠ z.op ∨ fld d 118 96 ≠ 0) := by simp [h1, h2]
    have o2 : ¬ (¬ fmtDefined (pAFmt d) = true ∨ ¬ fmtDefined (pBFmt d) = true) := by simp [h3, h4]
    have o3 : ¬ (1 < pOutFmt d ∨ (pInit d = 2 ∧ pOutFmt d ≠ 0)) := by
      rintro (h | ⟨h, h'⟩)
      · omega
      · exact h' (h7 h).1
    have o4 : ¬ pInit d = 3 := by omega
    have o5 : ¬ (pM d = 0 ∨ pN d = 0 ∨ pK d = 0) := by tauto
    have o6 : ¬ (g.a.fmt ≠ pAFmt d ∨ g.b.fmt ≠ pBFmt d ∨ g.out.fmt ≠ pOutFmt d) := by simp [haf, hbf, hof]
    have o7 : ∃ r, optRegion (decide (pInit d = 2)) (t.region (pOut d) false) = .ok r := by
      by_cases h : pInit d = 2
      · obtain ⟨_, r, hr⟩ := h7 h; exact ⟨some r, by simp [optRegion, h, hr, Except.map]⟩
      · exact ⟨none, by simp [optRegion, h]⟩
    obtain ⟨r7, o7⟩ := o7
    have oA : optRegion (fmtScaled (pAFmt d)) (t.scaleRegion (pAScale d) false (pAFmt d) z.al true) = .ok g.aS := by
      split at hsa
      · rename_i h; obtain ⟨r, hr1, hr2⟩ := hsa; simp [optRegion, hr1, hr2, h, Except.map]
      · rename_i h; simp [optRegion, h, hsa]
    have oB : optRegion (fmtScaled (pBFmt d)) (t.scaleRegion (pBScale d) false (pBFmt d) z.bl true) = .ok g.bS := by
      split at hsb
      · rename_i h; obtain ⟨r, hr1, hr2⟩ := hsb; simp [optRegion, hr1, hr2, h, Except.map]
      · rename_i h; simp [optRegion, h, hsb]
    have oC : optRegion (decide (pInit d = 1)) (t.biasRegion d) = .ok g.bias := by
      split at hbi
      · rename_i hi
        obtain ⟨r, k1, k2, k3, k4⟩ := hbi
        have : t.biasRegion d = .ok r := by simp [Tile.biasRegion, k1, ok_bind, k2, k3]
        simp [optRegion, hi, this, k4, Except.map]
      · rename_i hi
        simp [optRegion, hi, hbi]
    have o8 : ¬ ((g.a :: g.b :: (g.aS.toList ++ g.bS.toList ++ g.bias.toList)).map Region.whole).any (overlap g.out.whole) = true := by
      rw [Bool.not_eq_true, List.any_eq_false]
      intro y hy
      obtain ⟨r, hr1, rfl⟩ := List.mem_map.mp hy
      simp [hov r hr1]
    have o9 : t.ready (prodReads d z.ar z.ac z.al z.br z.bc z.bl g.a g.b g.out g.aS g.bS g.bias) [g.out.span (pM d) (pN d)] = .ok () := by
      rw [← hrd, ← hwr]; exact hr
    unfold prodRegs
    simp only [o1, o2, o3, o4, o5, if_false, ha, hac, hb, hbc, ho, hoc, ok_bind, o6, o7, oA, oB, oC, o8, o9]
    show Except.ok _ = Except.ok g
    rw [← hrd, ← hwr]
  have o9 : ¬ ((z.aT = true ∧ ¬ g.a.tiled = true) ∨ (z.bT = true ∧ ¬ g.b.tiled = true)) := by tauto
  simp only [shapeRegs, e]
  show (if _ then _ else _) = _
  rw [if_neg o9]; rfl

section
variable {α β γ ε : Type}
theorem mapM_ex (l : List α) (f : α → Except ε β) (h : ∀ a ∈ l, ∃ b, f a = .ok b) : ∃ bs, l.mapM f = .ok bs ∧ bs.length = l.length := by
  induction l with
  | nil => exact ⟨[], rfl, rfl⟩
  | cons a l ih =>
    obtain ⟨b, h1⟩ := h a (by simp)
    obtain ⟨bs, h2, h3⟩ := ih (fun b hb => h b (by simp [hb]))
    refine ⟨b :: bs, ?_, by simp [h3]⟩
    simp only [List.mapM_cons, h1, h2]
    rfl
theorem mapM_mem (l : List α) (f : α → Except ε β) (bs : List β) (h : l.mapM f = .ok bs) : ∀ a ∈ l, ∃ b, f a = .ok b := by
  induction l generalizing bs with
  | nil => simp
  | cons a l ih =>
    simp only [List.mapM_cons] at h
    cases e : f a with
    | error x => rw [e] at h; cases h
    | ok b =>
      rw [e] at h
      cases e2 : l.mapM f with
      | error x => rw [e2] at h; cases h
      | ok c =>
        intro y hy
        rcases List.mem_cons.mp hy with rfl | hy
        · exact ⟨b, e⟩
        · exact ih c e2 y hy
theorem mapM_zip (l : List α) (f : α → Except ε β) (bs : List β) (h : l.mapM f = .ok bs) : ∀ b ∈ bs, ∃ a ∈ l, f a = .ok b := by
  induction l generalizing bs with
  | nil => cases h; simp
  | cons a l ih =>
    simp only [List.mapM_cons] at h
    cases e : f a with
    | error x => rw [e] at h; cases h
    | ok b =>
      rw [e] at h
      cases e2 : l.mapM f with
      | error x => rw [e2] at h; cases h
      | ok c =>
        rw [e2] at h
        cases h
        intro y hy
        rcases List.mem_cons.mp hy with rfl | hy
        · exact ⟨a, by simp, e⟩
        · obtain ⟨z, hz, hf⟩ := ih c e2 y hy
          exact ⟨z, by simp [hz], hf⟩
theorem foldlM_ex (l : List α) (f : List β → α → Except ε (List β)) (n : Nat) (h : ∀ (b : List β), ∀ a ∈ l, ∃ c : List β, f b a = .ok c ∧ c.length = b.length + n) :
    ∀ b : List β, ∃ c : List β, l.foldlM f b = .ok c ∧ c.length = b.length + l.length * n := by
  induction l with
  | nil => intro b; exact ⟨b, rfl, by simp⟩
  | cons a l ih =>
    intro b
    obtain ⟨c, h1, h2⟩ := h b a (by simp)
    obtain ⟨e, h3, h4⟩ := ih (fun b a ha => h b a (by simp [ha])) c
    refine ⟨e, ?_, by simp [h4, h2]; ring⟩
    simp only [List.foldlM_cons, h1]
    exact h3
end

theorem runProduct_ok (p : ProdIn) (fs : List Flip) (gs : Nat → Nat → List (List (Val × Val))) (ini : Nat → Nat → Word32)
    (h : ∀ i < p.walk.m, ∀ j < p.walk.n, p.walk.elem i j = .ok (gs i j) ∧ p.init i j = .ok (ini i j)) :
    ∃ ev, runProduct p fs = .ok ((List.range p.walk.m).map (fun i => (List.range p.walk.n).map (fun j =>
      (ini i j, flipAcc fs i j (runGroups (ini i j) (gs i j)).1))), ev) := by
  have e : (List.range p.walk.m).mapM (fun i => (List.range p.walk.n).mapM (p.accum fs i)) =
      .ok ((List.range p.walk.m).map (fun i => (List.range p.walk.n).map (fun j =>
        (ini i j, flipAcc fs i j (runGroups (ini i j) (gs i j)).1, (runGroups (ini i j) (gs i j)).2)))) := by
    refine mapM_ok _ _ _ (fun i hi => mapM_ok _ _ _ (fun j hj => ?_))
    obtain ⟨h1, h2⟩ := h i (List.mem_range.mp hi) j (List.mem_range.mp hj)
    simp only [ProdIn.accum, h1, h2, ok_bind]
  simp only [runProduct, e, ok_bind, List.map_map, Function.comp_def]
  exact ⟨_, rfl⟩

theorem map_ok {α β ε : Type} {x : Except ε α} {f : α → β} {b : β} (h : x.map f = .ok b) : ∃ a, x = .ok a ∧ f a = b := by
  cases x with
  | error e => cases h
  | ok a => cases h; exact ⟨a, rfl, rfl⟩

theorem colCheck_ok (w : Walk) (rows : List Nat) (j : Nat) (ini : List Val) (accs : List Word32) (hj : j < w.n)
    (hr : ∀ i ∈ rows, i < w.m) (h : ∀ i < w.m, ∀ j < w.n, ∃ g, w.elem i j = .ok g) : ∃ c, colCheck w rows j ini accs = .ok c := by
  have ha : ∀ g ∈ w.groups, ∀ k ∈ g, ∀ i ∈ rows, ∃ v, w.a i k = .ok v ∧ (v ≠ none → ∃ b, w.b k j = .ok b) := by
    intro g hg k hk i hi
    obtain ⟨e, he⟩ := h i (hr i hi) j hj
    obtain ⟨y, hy⟩ := mapM_mem _ _ _ he g hg
    obtain ⟨xs, hx, -⟩ := map_ok hy
    obtain ⟨z, hz⟩ := mapM_mem _ _ _ hx k hk
    unfold Walk.pair at hz
    cases hv : w.a i k with
    | error q => rw [hv] at hz; cases hz
    | ok v =>
      refine ⟨v, rfl, fun hn => ?_⟩
      rw [hv] at hz
      cases v with
      | none => exact absurd rfl hn
      | some v => obtain ⟨b, hb, -⟩ := map_ok hz; exact ⟨b, hb⟩
  obtain ⟨gs, hgs, -⟩ := mapM_ex w.groups (fun g => g.mapM (w.column rows j)) (by
      intro g hg
      obtain ⟨y, hy, -⟩ := mapM_ex g (w.column rows j) (by
          intro k hk
          obtain ⟨xs, hxs, -⟩ := mapM_ex rows (fun i => w.a i k) (fun i hi => by
            obtain ⟨v, hv, -⟩ := ha g hg k hk i hi; exact ⟨v, hv⟩)
          by_cases he : xs.filterMap id = []
          · exact ⟨_, by simp only [Walk.column, hxs, ok_bind, he, if_true]; rfl⟩
          · have : ∃ v ∈ xs, v ≠ none := by
              by_contra hc
              push Not at hc
              exact he (List.filterMap_eq_nil_iff.mpr (fun v hv => hc v hv))
            obtain ⟨v, hv, hn⟩ := this
            obtain ⟨i, hi, hf⟩ := mapM_zip _ _ _ hxs v hv
            obtain ⟨v', hv', hb⟩ := ha g hg k hk i hi
            rw [hf] at hv'
            cases hv'
            obtain ⟨b, hb⟩ := hb hn
            exact ⟨_, by simp only [Walk.column, hxs, ok_bind, he, if_false, hb, Except.map]; rfl⟩)
      exact ⟨y, hy⟩)
  unfold colCheck
  rw [hgs]
  simp only [ok_bind]
  split
  · exact ⟨_, rfl⟩
  · split
    · exact ⟨_, rfl⟩
    · split
      · exact ⟨_, rfl⟩
      · exact ⟨_, rfl⟩

theorem productChecks_ok (p : ProdIn) (accs : List (List (Word32 × Word32))) (x : Pass) (d : BitVec 192)
    (h : ∀ i < p.walk.m, ∀ j < p.walk.n, ∃ g, p.walk.elem i j = .ok g) :
    ∃ cks, productChecks p accs x d = .ok cks ∧ cks.length = (p.walk.m + 31) / 32 * ((p.walk.n + 31) / 32) := by
  obtain ⟨cks, h1, h2⟩ := mapM_ex ((List.range ((p.walk.m + 31) / 32)).flatMap (fun i => (List.range ((p.walk.n + 31) / 32)).map (fun j => (i, j))))
    (fun b => fragmentCheck p accs x d b.1 b.2) (by
      rintro ⟨fi, fj⟩ -
      let rows := (List.range 32).filterMap (fun r => if 32 * fi + r < p.walk.m then some (32 * fi + r) else none)
      obtain ⟨cc, hcc, -⟩ := mapM_ex ((List.range 32).filterMap (fun c => if 32 * fj + c < p.walk.n then some (32 * fj + c) else none))
        (fun j => let col := rows.map (fun i => (accs.getD i []).getD j (0, 0))
          colCheck p.walk rows j (col.map (fun y => dec32 y.1)) (col.map (·.2))) (by
          intro j hj
          obtain ⟨c, -, hc⟩ := List.mem_filterMap.mp hj
          refine colCheck_ok _ _ _ _ _ ?_ ?_ h
          · split at hc
            · cases hc; assumption
            · cases hc
          · intro i hi
            obtain ⟨r, -, hr⟩ := List.mem_filterMap.mp hi
            split at hr
            · cases hr; assumption
            · cases hr)
      exact ⟨_, by simp only [fragmentCheck]; rw [hcc]; rfl⟩)
  refine ⟨cks, h1, ?_⟩
  rw [h2]
  simp

theorem finish_ok (x : Pass) (t : Tile) (d : BitVec 192) (g : ProdRegs) (w : Walk) (off : Bool) (fs : List Flip)
    (gs : Nat → Nat → List (List (Val × Val))) (ini : Nat → Nat → Word32) (hm : w.m = pM d) (hn : w.n = pN d)
    (h : ∀ i < pM d, ∀ j < pN d, w.elem i j = .ok (gs i j) ∧ initOf t.mem d g i j = .ok (ini i j)) :
    let acc := fun i j => flipAcc fs i j (runGroups (ini i j) (gs i j)).1
    let rows := (List.range (pM d)).map (fun i => (List.range (pN d)).map (fun j => (ini i j, acc i j)))
    let cv := g.out.cover ((List.range (pM d)).map (fun i => (List.range (pN d)).map (fun j =>
      (i, j, if pOutFmt d = 0 then (acc i j).toNat else (toIeee shapeBf .even (dec32 (acc i j))).1)))).flatten
    let st := storeCover t.mem cv
    ∃ ev cks, (if off then cks = [] else productChecks ⟨w, g.out, initOf t.mem d g⟩ rows x d = .ok cks ∧
          cks.length = (pM d + 31) / 32 * ((pN d + 31) / 32)) ∧
      finishProduct x t d g w off fs = .ok
        { tile := { t with mem := st.1, checks := t.checks ++ cks, accs := accSets (rows.map (fun l => l.map (·.2))),
                           drain := drainWait d w.groups.length },
          ev := ev, bad := st.2, badHandle := pOut d, rd := g.rd, wr := [g.wr], merges := merges cv } := by
  intro acc rows cv st
  let p : ProdIn := ⟨w, g.out, initOf t.mem d g⟩
  obtain ⟨ev, hev⟩ := runProduct_ok p fs gs ini (by rw [hm, hn]; exact h)
  have hev : runProduct p fs = .ok (rows, ev) := by rw [hev]; show Except.ok _ = Except.ok _; rw [hm, hn]
  obtain ⟨cks0, hck, hlen⟩ := productChecks_ok p rows x d (by rw [hm, hn]; intro a b c e; exact ⟨_, (h a b c e).1⟩)
  rw [hm, hn] at hlen
  have hcv : ∀ (f : Word32 → Nat × Events), (((rows.map (fun l => l.map (fun y => f y.2))).mapIdx (fun i l => l.mapIdx (fun j c => (i, j, c.1)))).flatten) =
      ((List.range (pM d)).map (fun i => (List.range (pN d)).map (fun j => (i, j, (f (acc i j)).1)))).flatten := by
    intro f
    congr 1
    apply List.ext_getElem
    · simp [rows]
    · intro i h1 h2
      apply List.ext_getElem
      · simp [rows]
      · intro j h3 h4
        simp [rows]
  have hc2 : (List.range (pM d)).map (fun i => (List.range (pN d)).map (fun j =>
      (i, j, ((fun w => if pOutFmt d = 0 then (w.toNat, ({} : Events)) else toIeee shapeBf .even (dec32 w)) (acc i j)).1))) =
      (List.range (pM d)).map (fun i => (List.range (pN d)).map (fun j =>
      (i, j, if pOutFmt d = 0 then (acc i j).toNat else (toIeee shapeBf .even (dec32 (acc i j))).1))) := by
    refine List.map_congr_left (fun i _ => List.map_congr_left (fun j _ => ?_))
    dsimp only
    split <;> rfl
  have hcov := hcv (fun w => if pOutFmt d = 0 then (w.toNat, ({} : Events)) else toIeee shapeBf .even (dec32 w))
  rw [hc2] at hcov
  let ev2 := (rows.map (fun l => l.map (fun y => if pOutFmt d = 0 then (y.2.toNat, ({} : Events)) else toIeee shapeBf .even (dec32 y.2)))).foldl
    (fun e l => l.foldl (fun e c => e.add { overflow := c.2.overflow }) e) ev
  cases off with
  | true =>
    refine ⟨ev2, [], by simp, ?_⟩
    unfold finishProduct
    show (runProduct p fs >>= _) = _
    rw [hev, ok_bind]
    dsimp only
    rw [hcov]
    rfl
  | false =>
    refine ⟨ev2, cks0, by simp only [Bool.false_eq_true, if_false]; exact ⟨hck, hlen⟩, ?_⟩
    unfold finishProduct
    show (runProduct p fs >>= _) = _
    rw [hev, ok_bind]
    dsimp only
    rw [hcov]
    show (productChecks p rows x d >>= _) = _
    rw [hck]
    rfl

theorem product_runs (i : OpCtx → BitVec 192 → List (List BankAccess) → List Flip → Instr) (shape : Tile → BitVec 192 → ProdShape → Prop)
    (op : BitVec 192 → Bool → List Flip → Pass → Tile → Except OpErr OpDone)
    (he : ∀ c d p f s, exec (i c d p f) s = .next (s.product c d p (fun off x t => op d off f x t)))
    (ho : ∀ t d z off f x, shape t d z → op d off f x t = runShape x t d z off f)
    (hm : ∀ t d z, shape t d z → ∀ m g, (z.walk m g).m = pM d ∧ (z.walk m g).n = pN d) : Safety.ProductRuns i shape := by
  intro s c d acs fs x z g gs ini n t w acc rows cv st plan hx hz hr hop hst hp
  obtain ⟨wm, wn⟩ : w.m = pM d ∧ w.n = pN d := hm t d z hz t.mem g
  obtain ⟨ev, cks, h1, h2⟩ := finish_ok x t d g w (s.test.mode && s.test.flyOff) fs gs ini wm wn hop
  have hs := prodRegs_ready t d z g hr
  let o0 : OpDone :=
    { tile := { t with mem := st.1, checks := t.checks ++ cks, accs := accSets (rows.map (fun l => l.map (·.2))),
                       drain := drainWait d w.groups.length },
      ev := ev, bad := st.2, badHandle := pOut d, rd := g.rd, wr := [g.wr], merges := merges cv }
  let o : OpDone := { o0 with tile := { o0.tile with cur := x.id } }
  have hrun : op d (s.test.mode && s.test.flyOff) fs x t = .ok o0 := by
    rw [ho t d z _ fs x hz, runShape, hs]
    simp only [ok_bind]
    exact h2
  have hl := State.ran_leaves s c x 0 (pBlock d) (pIndex d) o (.product d []) plan hst hp
  dsimp only at hl
  obtain ⟨k1, k2, k3, k4, k5, k6, k7⟩ := hl
  refine ⟨_, _, cks, he c d acs fs s, h1, rfl, ?_⟩
  have hpr : s.product c d acs (fun off x t => op d off fs x t) =
      ((s.finishOp c x 0 (pBlock d) (.ok o)).ranOp x c.tile (.product d [])).conflicts c x (pBlock d) (pIndex d) plan := by
    simp only [State.product, hx]
    show (match op d (s.test.mode && s.test.flyOff) fs x t with | .ok o => _ | .error e => _) = _
    rw [hrun]
  rw [hpr]
  exact ⟨⟨k1, k2, k3, k4, k5, k6⟩, k7⟩

theorem lane_runs (i : OpCtx → LaneArgs → Instr) (ins : LaneArgs → List (Nat × Nat × Nat)) (ext : LaneArgs → Nat × Nat) (fp32 : Bool)
    (f : State → Pass → LaneArgs → List (List (List Word32)) → List (List Word32))
    (F : State → LaneArgs → Pass → List (List (List Word32)) → List (List Word32) × Events)
    (he : ∀ c a s, exec (i c a) s = .next (s.laneOp c a (fun x t => rowsOp t a (ins a) (ext a).1 (ext a).2 fp32 (F s a x))))
    (hf : ∀ s a x xs, (F s a x xs).1 = f s x a xs) : Safety.LaneRuns i ins ext fp32 f := by
  intro s c a x rs o xs n t cv st rd wr plan hx hrs ho hfp hr hxs hst hp
  have hfp' : ¬ (fp32 = true ∧ o.fmt ≠ 0) := by rintro ⟨h1, h2⟩; exact h2 (hfp h1)
  let y := F s a x (xs.map (·.1))
  let ev := sumEv (xs.map (·.2))
  let d : OpDone := { laneWrite t o y.1 (ev.add y.2) with rd := rd, wr := wr }
  have hop : rowsOp t a (ins a) (ext a).1 (ext a).2 fp32 (F s a x) = .ok d := by
    unfold rowsOp
    rw [hrs, ok_bind, ho, ok_bind, if_neg hfp']
    have hr' : t.ready ((rs.zip (ins a)).map (fun (r, _, n, c) => r.span n c)) [o.span (ext a).1 (ext a).2] = .ok () := hr
    have hx' : (rs.zip (ins a)).mapM (fun (r, _, n, c) => laneRead t.mem r n c) = .ok xs := hxs
    dsimp only
    rw [hr', ok_bind, hx', ok_bind]
    rfl
  have hcells : ((y.1.map (fun l => l.map (laneCode o.fmt))).mapIdx (fun i l => l.mapIdx (fun j c => (i, j, c.1)))).flatten =
      Safety.laneCells o.fmt y.1 := by
    unfold Safety.laneCells
    congr 1
    apply List.ext_getElem
    · simp
    · intro i h1 h2
      apply List.ext_getElem
      · simp
      · intro j h3 h4; simp
  have hcv : o.cover (((y.1.map (fun l => l.map (laneCode o.fmt))).mapIdx (fun i l => l.mapIdx (fun j c => (i, j, c.1)))).flatten) = cv := by
    rw [hcells]; show o.cover (Safety.laneCells o.fmt (F s a x (xs.map (·.1))).1) = _; rw [hf]
  have d1 : d.tile = { t with mem := st.1 } := by
    show ({ t with mem := (storeCover t.mem (o.cover _)).1 } : Tile) = _; rw [hcv]
  have d2 : d.bad = [] := by show (storeCover t.mem (o.cover _)).2 = []; rw [hcv]; exact hst
  have d3 : d.merges = merges cv := by show merges (o.cover _) = _; rw [hcv]
  have hl := State.ran_leaves s c x 1 x.block 0 d (.lane none [a.in1, a.in2, a.in3, a.in4] a.out) plan d2 hp
  dsimp only at hl
  obtain ⟨k1, k2, k3, k4, k5, k6, k7⟩ := hl
  rw [d3] at k5
  rw [d1] at k1
  refine ⟨_, _, he c a s, rfl, ?_⟩
  have hpr : s.laneOp c a (fun x t => rowsOp t a (ins a) (ext a).1 (ext a).2 fp32 (F s a x)) =
      ((s.finishOp c x 1 x.block (.ok d)).ranOp x c.tile (.lane none [a.in1, a.in2, a.in3, a.in4] a.out)).conflicts c x x.block 0 plan := by
    simp only [State.laneOp, hx]
    show (match rowsOp t a (ins a) (ext a).1 (ext a).2 fp32 (F s a x) with | .ok o => _ | .error e => _) = _
    rw [hop]
  rw [hpr]
  exact ⟨⟨k1, k2, k3, k4, k5, k6⟩, k7⟩

end Sys2Proof.Laws
end

