-- ==== Sys2Proof/Tests/Slice0.lean ====
section
/-! SUPPORT. The model's own tests: ill-formed commands that the checks refuse, and small steps. -/

set_option Elab.async false

namespace Sys2Proof.Tests

open Sys2Proof.Machine

/-! ### Ill-formed commands -/

theorem test_wf_tile_quarter : Instr.wf (.flyLaneCheck ⟨4, 0, 0⟩) = false := by decide
theorem test_wf_tile_group : Instr.wf (.flyLaneCheck ⟨0, 16, 0⟩) = false := by decide
theorem test_wf_tile_number : Instr.wf (.flyLaneCheck ⟨0, 0, 19⟩) = false := by decide
theorem test_wf_slot : Instr.wf (.keyAgreementRetry 16) = false := by decide
theorem test_wf_port : Instr.wf (.lossOfLight 6) = false := by decide
theorem test_wf_chip : Instr.wf (.heldPushAdd 0 4 0) = false := by decide
theorem test_wf_quarter : Instr.wf (.regionSample 4 []) = false := by decide
theorem test_wf_oscillator : Instr.wf (.calibrationWindowEnd 68 0) = false := by decide
theorem test_wf_crossing_side : Instr.wf (.crossingFrozenTimeout 80 0) = false := by decide
theorem test_wf_queue : Instr.wf (.tailTimeout 0 1024) = false := by decide
theorem test_wf_stack : Instr.wf (.pseudoChannelMoveDone 8) = false := by decide
theorem test_wf_pseudo_channel : Instr.wf (.bankWake 0 32 0) = false := by decide
theorem test_wf_bank : Instr.wf (.bankWake 0 0 64) = false := by decide
theorem test_wf_handle : Instr.wf (.hclear ⟨⟨0, 0, 0⟩, 1⟩ 128) = false := by decide
theorem test_wf_window_register : Instr.wf (.wset ⟨⟨0, 0, 0⟩, 1⟩ 8 0) = false := by decide
theorem test_wf_entry_image : Instr.wf (.hset ⟨⟨0, 0, 0⟩, 1⟩ 0 81920) = false := by decide
theorem test_wf_alloc_image : Instr.wf (.halloc ⟨⟨0, 0, 0⟩, 1⟩ ⟨81920, 0⟩) = false := by decide
theorem test_wf_alloc_result : Instr.wf (.halloc ⟨⟨0, 0, 0⟩, 1⟩ ⟨0, 81920⟩) = false := by decide
theorem test_wf_stream : Instr.wf (.deadlineMiss ⟨0, 0, 0⟩ 256) = false := by decide
theorem test_wf_area : Instr.wf (.creditGrant ⟨0, 0, 0⟩ 128) = false := by decide
theorem test_wf_spare_tile : Instr.wf (.spareMapping 0 0 19 false) = false := by decide
theorem test_wf_schedule : Instr.wf (.scheduleCommit {} 0 4 0) = false := by decide
theorem test_wf_loopback : Instr.wf (.loopbackEnd 20 {}) = false := by decide
theorem test_wf_socket : Instr.wf (.cartridgeRemoved 4) = false := by decide
theorem test_wf_domain : Instr.wf (.regulatorFault 80) = false := by decide
theorem test_wf_function : Instr.wf (.functionLevelReset 17) = false := by decide
theorem test_wf_ring : Instr.wf (.boundary 0 2 ⟨0, [], true⟩) = false := by decide
theorem test_wf_position : Instr.wf (.target 0 0 64 ⟨0, [], true⟩) = false := by decide
theorem test_wf_replica : Instr.wf (.reductionResult 0 64 ⟨0, [], []⟩) = false := by decide
theorem test_wf_source_chip : Instr.wf (.done 0 4 0 0) = false := by decide
theorem test_wf_object : Instr.wf (.blobTransferTimeout 65536 0) = false := by decide
theorem test_wf_subindex : Instr.wf (.blobTransferTimeout 0 256) = false := by decide
theorem test_wf_bar : Instr.wf (.registerWrite .pf 6 0 []) = false := by decide
theorem test_wf_vf : Instr.wf (.registerWrite (.vf 16) 0 0 []) = false := by decide
theorem test_wf_halyard_port : Instr.wf (.doneClear (.halyard 6)) = false := by decide
theorem test_wf_packet : Instr.wf (.caps 0 { hdr := 0, units := List.replicate 65 0 }) = false := by decide
theorem test_wf_codeword : Instr.wf (.codewordReceive 0 { fecOk := true, sq := 0, ack := 0, slots := List.replicate 33 0 }) = false := by decide
theorem test_wf_lane_handle : Instr.wf (.laneAbs ⟨⟨0, 0, 0⟩, 1⟩ { in1 := 128, out := 0, rows := 1, cols := 1 }) = false := by decide
theorem test_wf_scale_handle : Instr.wf (.laneConvert ⟨⟨0, 0, 0⟩, 1⟩ { in1 := 0, out := 0, rows := 1, cols := 1 } { word := 0, scaleIn := 128 }) = false := by decide
theorem test_wf_draw_tensor : Instr.wf (.laneDraw ⟨⟨0, 0, 0⟩, 1⟩ { in1 := 0, out := 0, rows := 1, cols := 1 } { tensor := 2 ^ 24, first := 0, float := false }) = false := by decide
theorem test_wf_queue_pair : Instr.wf (.cqHead (.host 16) 0) = false := by decide
theorem test_wf_tenant_pair : Instr.wf (.cqHead (.tenant 16) 0) = false := by decide
theorem test_wf_resource : Instr.wf (.arbiterGrant (.bankQueue 8 0 0)) = false := by decide
theorem test_wf_queue_engine : Instr.wf (.arbiterGrant (.queueEngine 0 4)) = false := by decide
theorem test_wf_cube : Instr.wf (.handshakeStep (.cube ⟨0, 0, 0⟩ 16) ⟨true, true, false, true, 3, 8, true, false⟩) = false := by decide
theorem test_wf_width_class : Instr.wf (.handshakeStep (.lane ⟨0, 0, 0⟩) ⟨true, true, false, true, 3, 5, true, false⟩) = false := by decide
theorem test_wf_crossing_itself : Instr.wf (.crossingFreeze ⟨3, 3, 0, 0⟩) = false := by decide
theorem test_wf_junction : Instr.wf (.thermalSample [⟨80, 0⟩]) = false := by decide
theorem test_wf_flip : Instr.wf (.matrix ⟨⟨0, 0, 0⟩, 1⟩ 0 [] [⟨0, 0, 32⟩]) = false := by decide
theorem test_wf_access_word : Instr.wf (.matrix ⟨⟨0, 0, 0⟩, 1⟩ 0 [[⟨0, 40960, false⟩]] []) = false := by decide
theorem test_wf_stack_word : Instr.wf (.stackRead 0 ⟨0, 16⟩ 0 {}) = false := by decide
theorem test_wf_stack_unit : Instr.wf (.stackRead 0 ⟨2 ^ 30, 0⟩ 0 {}) = false := by decide
theorem test_wf_scrub_cartridge : Instr.wf (.scrubPassStart (.cartridge 4)) = false := by decide
theorem test_wf_request_index : Instr.wf (.read {} { op := .read, index := 65536, sub := 0 }) = false := by decide
theorem test_wf_dip : Instr.wf (.brownout { committed := [] }) = false := by decide
theorem test_wf_announce : Instr.wf (.topology 0 ⟨0, 64, 0, 0, [0, 0, 0, 0, 0]⟩) = false := by decide
theorem test_wf_key_offer : Instr.wf (.keyOffer ⟨[], false, 0, 0, true, []⟩) = false := by decide
theorem test_wf_wire_block : Instr.wf (.reductionResult 0 0 ⟨0, [List.replicate 1089 0], []⟩) = false := by
  simp only [Instr.wf, RedMsg.ok, List.all_cons, List.length_replicate]; decide
theorem test_wf_push_mb : Instr.wf (.push 0 0 ⟨0, [], 0, 65536⟩) = false := by decide
theorem test_wf_exchange_round : Instr.wf (.exchange 0 0 0 0 { round := 4 }) = false := by decide
theorem test_wf_attest_slot : Instr.wf (.reportReady (some 16)) = false := by decide
theorem test_wf_via_slot : Instr.wf (.grant { slot := 17 } 0) = false := by decide
/-- A well-formed command passes. -/
theorem test_wf_accepts : Instr.wf (.matrix ⟨⟨3, 15, 18⟩, 1⟩ 0 [[⟨7, 40959, true⟩]] [⟨0, 0, 31⟩]) = true := by decide

/-! ### What the statements assume is met -/

theorem wit_IdleStepEndsDip_dips : ∃ s : State, s.pending = [] ∧ s.mod.state = .dipping ∧
    ∀ p < 16, (s.slot p).mirror.pending = false ∧ (s.slot p).mirror.rj = .idle ∧ (s.slot p).exp = none ∧ (s.slot p).imp = none :=
  ⟨{ mod := { state := .dipping } }, by decide⟩
theorem wit_IdleStepEndsDip_idles : ∃ s : State, s.pending = [] ∧ s.mod.state ≠ .dipping ∧
    ∀ p < 16, (s.slot p).mirror.pending = false ∧ (s.slot p).mirror.rj = .idle ∧ (s.slot p).exp = none ∧ (s.slot p).imp = none :=
  ⟨{ mod := { state := .hoisted } }, by decide⟩
theorem wit_EveryStepKeepsShape : ∃ s t : State, Safety.Shape s ∧ step s = .next t :=
  ⟨{ pending := [.strike, .perst] }, _, by decide, rfl⟩
/-- A Hoisted module with slot 0 holding granule 0 and running, its groups on. -/
def hoisted : State :=
  { mod := { state := .hoisted }, doms := (List.range 80).map (fun d => (d, { state := .on, mv := 720 })),
    slots := { state := .running, burgee := 0x10000000000000007#256 } :: List.replicate 15 {} }
theorem wit_HandshakeStepsAndMeters_cube : hoisted.slots.length = 16 ∧ (hoisted.slot 0).meters.v.length = 19 ∧ trOk ⟨0, 0, 0⟩ = true ∧
    hoisted.domOn 0 = true ∧ hoisted.tileSlot ⟨0, 0, 0⟩ = some 0 ∧ hoisted.pass? (hoisted.tile (hoisted.phys ⟨0, 0, 0⟩)).cur = none ∧
    (hoisted.tile (hoisted.phys ⟨0, 0, 0⟩)).drain = 0 ∧ (hoisted.tile (hoisted.phys ⟨0, 0, 0⟩)).plan.headD [] = [] := by decide
theorem wit_HandshakeStepsAndMeters_reserved : ∃ s : State, s.domOn 0 = true ∧ (s.tile (s.phys ⟨0, 0, 0⟩)).issue % 64 = 63 ∧
    (s.tile (s.phys ⟨0, 0, 0⟩)).plan.headD [] ≠ [] :=
  ⟨{ hoisted with tiles := [(0, { issue := 63, plan := [[⟨0, 0, false⟩]] })] }, by decide⟩
theorem wit_HandshakeStepsAndMeters_crossing : adjacent 0 1 = true ∧ hoisted.frozen 0 1 = false ∧ hoisted.widened 0 1 = false ∧
    ({ crossings := [{ a := 0, b := 1, frozen := true }] } : State).frozen 0 1 = true := by decide
theorem wit_HandshakeStepsAndMeters_widened : ∃ s : State, adjacent 0 1 = true ∧ s.frozen 0 1 = false ∧ s.widened 0 1 = true :=
  ⟨{ corrections := [{ q := 0, a := 0, b := 1, fast := 0, tempEx := false, peakV := 0, peakT := 0, widened := true }] }, by decide⟩
theorem wit_CalibrationPublishesRate : ∃ s : State, s.domOn 67 = true ∧ (s.osc 67).inWindow = true ∧ 81920 * 1 ≤ 2 * 40960 :=
  ⟨{ doms := [(67, { state := .on })], oscs := [(67, { inWindow := true })] }, by decide⟩
theorem wit_RegionControllersCorrect_sample : ∃ (s : State) (x : XReading), s.samples 0 x.a x.b = true ∧
    s.corrections.any (fun c => c.joins x.a x.b) = false ∧ 240 < (x.ja - x.jb).natAbs ∧ s.domRate x.a ≠ s.domRate x.b :=
  ⟨{ hoisted with oscs := [(0, { rate := 7 })] }, ⟨0, 1, 500, 741⟩, by decide⟩
theorem wit_RegionControllersCorrect_again : ∃ (s : State) (x : XReading) (c : Correction), s.samples 0 x.a x.b = true ∧ s.corrections = [c] ∧
    c.joins x.a x.b = true ∧ c.held = true ∧ c.widened = false ∧ 240 < (x.ja - x.jb).natAbs ∧ s.domRate x.a ≠ s.domRate x.b :=
  ⟨{ hoisted with oscs := [(0, { rate := 7 })],
                  corrections := [{ q := 0, a := 0, b := 1, fast := 1, tempEx := false, peakV := 0, peakT := 0, held := true, caps := [(1, 700)] }] },
    ⟨0, 1, 500, 741⟩, _, by decide, rfl, by decide⟩
theorem wit_RegionControllersCorrect_within : hoisted.samples 0 0 1 = true ∧ hoisted.pairMv 0 1 ≤ 120 := by decide
theorem wit_RegionControllersCorrect_step : ∃ (s : State) (c : Correction),
    s.corrections.find? (fun c => c.joins 0 1 && decide (c.q = 0) && !c.held) = some c ∧ c.fast < 64 ∧ 600 < (s.dom c.fast).mv ∧
    c.a = c.fast ∧ c.b = 1 ∧ (((s.dom c.fast).mv - 10 : Nat) - ((s.dom 1).mv : Int)).natAbs ≤ 100 ∧ c.tempEx = false :=
  ⟨{ hoisted with corrections := [{ q := 0, a := 0, b := 1, fast := 0, tempEx := false, peakV := 0, peakT := 0 }] }, { q := 0, a := 0, b := 1, fast := 0, tempEx := false, peakV := 0, peakT := 0 }, by decide⟩
theorem wit_RegionControllersCorrect_floor : ∃ (s : State) (c : Correction),
    s.corrections.find? (fun c => c.joins 0 1 && decide (c.q = 0) && !c.held) = some c ∧ c.fast < 64 ∧ (s.dom c.fast).mv ≤ 600 :=
  ⟨{ doms := [(0, { state := .on, mv := 600 })],
     corrections := [{ q := 0, a := 0, b := 1, fast := 0, tempEx := false, peakV := 0, peakT := 0 }] }, { q := 0, a := 0, b := 1, fast := 0, tempEx := false, peakV := 0, peakT := 0 }, by decide⟩
theorem wit_RegionControllersCorrect_release : hoisted.pairMv 0 1 ≤ 80 := by decide
theorem wit_CrossingFreezesAtGuard_freeze : adjacent 0 1 = true ∧ hoisted.frozen 0 1 = false ∧ 320 ≤ ((0 : Int) - 320).natAbs := by decide
theorem wit_CrossingFreezesAtGuard_resume : ∃ s : State, s.frozen 0 1 = true ∧ s.pairMv 0 1 ≤ 120 ∧ s.crossing? 0 1 = some ⟨0, 1, true, 1, 0, 0, false⟩ ∧
    ¬ 1 ∈ s.spare.retired := ⟨{ hoisted with crossings := [⟨0, 1, true, 1, 0, 0, false⟩] }, by decide⟩
theorem wit_CrossingFreezesAtGuard_strike : ∃ s : State, s.crossing? 64 68 = some ⟨64, 68, true, 68, 0, 0, false⟩ ∧ s.mod.state = .hoisted :=
  ⟨{ hoisted with crossings := [⟨64, 68, true, 68, 0, 0, false⟩] }, by decide⟩
theorem wit_SeedCommitInForce : Safety.Serves hoisted ∧ hoisted.slots.length = 16 ∧ (hoisted.slot 0).seed.pending = false ∧
    (hoisted.slot 0).hasIssued 5 = false ∧ (hoisted.slot 0).converted 5 = false := by decide
theorem wit_SeedCommitInForce_pending : ∃ s : State, Safety.Serves s ∧ (s.slot 0).seed.pending = true :=
  ⟨{ mod := { state := .hoisted }, slots := { seed := { pending := true } } :: List.replicate 15 {} }, by decide⟩
/-- A module whose slot 0 runs a pass 1 on tile Q0.G00.T00, with linear FP32 regions at handles 1 to 4, one word each. -/
def passing : State :=
  { hoisted with
    passes := [{ id := 1, slot := 0, kind := .forward }],
    tiles := [(0, { handles := [
      (1, BitVec.ofNat 128 (2 ^ 127 + 2 ^ 119 + 2 ^ 118 + 2 ^ 72 + 0 * 2 ^ 48 + 1 * 2 ^ 32)),
      (2, BitVec.ofNat 128 (2 ^ 127 + 2 ^ 119 + 2 ^ 118 + 2 ^ 72 + 1 * 2 ^ 48 + 1 * 2 ^ 32)),
      (3, BitVec.ofNat 128 (2 ^ 127 + 2 ^ 119 + 2 ^ 118 + 2 ^ 72 + 2 * 2 ^ 48 + 1 * 2 ^ 32)),
      (4, BitVec.ofNat 128 (2 ^ 127 + 2 ^ 119 + 2 ^ 118 + 2 ^ 72 + 3 * 2 ^ 48 + 1 * 2 ^ 32))] })] }
def at0 : OpCtx := ⟨⟨0, 0, 0⟩, 1⟩
/-- A product of 1 by 1 by 1 FP32 elements from handles 1 and 2 to 3, and a tile with a tiled region at handle 1 and three window
words of extent 1 at handle 5. -/
def prodWord (op : Nat) : BitVec 192 :=
  BitVec.ofNat 192 (op * 2 ^ 184 + 1 * 2 ^ 161 + 2 * 2 ^ 154 + 3 * 2 ^ 147 + 5 * 2 ^ 119 + 2 ^ 72 + 2 ^ 48 + 2 ^ 24)
def prodHandle (base len : Nat) : BitVec 128 := BitVec.ofNat 128 (2 ^ 127 + 2 ^ 119 + 2 ^ 118 + 2 ^ 72 + base * 2 ^ 48 + len * 2 ^ 32)
def prodTile : Tile :=
  { mem := (storeCover [] (coverBits (coverBits (coverBits [] 2560 64 (2 ^ 48 + 2 ^ 32)) 2624 64 (2 ^ 48 + 2 ^ 32)) 2688 64 (2 ^ 48 + 2 ^ 32))).1,
    handles := [(1, prodHandle 0 8 ||| BitVec.ofNat 128 (2 ^ 124)), (2, prodHandle 8 1), (3, prodHandle 9 1), (5, prodHandle 10 1)] }
def prodIn : ProdRegs :=
  ⟨⟨1, 0, 8, 1, true, 0⟩, none, ⟨2, 8, 1, 1, false, 0⟩, none, ⟨3, 9, 1, 1, false, 0⟩, none, [(0, 8), (8, 1)], (9, 1)⟩
def oneWin : Wins := ⟨winOf 0x0001000100000000#64, winOf 0x0001000100000000#64, winOf 0x0001000100000000#64⟩
def prodShapes (op : Nat) : ProdShape :=
  if op = 0x20 then matrixShape (prodWord op) else if op = 0x21 then windowFwdShape (prodWord op) oneWin else windowWgradShape (prodWord op) oneWin
theorem wit_ProductsRun_ready : ∀ op ∈ [0x20, 0x21, 0x22], Safety.ProductReady prodTile (prodWord op) (prodShapes op) prodIn := by
  intro op h
  have e : op = 0x20 ∨ op = 0x21 ∨ op = 0x22 := by simpa using h
  rcases e with rfl | rfl | rfl <;>
  exact ⟨by decide +kernel, by decide +kernel, by decide +kernel, by decide +kernel, by decide +kernel, by decide +kernel,
    fun h => absurd h (by decide +kernel), by decide +kernel, by decide +kernel, by decide +kernel,
    by decide +kernel, by decide +kernel, by decide +kernel, by decide +kernel,
    by decide +kernel, by decide +kernel, by decide +kernel, by decide +kernel,
    by decide +kernel, by decide +kernel, by decide +kernel,
    by rw [if_neg (by decide +kernel)]; rfl, by rw [if_neg (by decide +kernel)]; rfl, by rw [if_neg (by decide +kernel)]; rfl,
    by decide +kernel, by decide +kernel, by decide +kernel, by decide +kernel⟩
theorem wit_ProductsRun_shapes : windowsOf prodTile (prodWord 0x21) = .ok oneWin ∧ windowsOf prodTile (prodWord 0x22) = .ok oneWin ∧
    oneWin.outs = 1 ∧ oneWin.kernels = 1 := by decide +kernel
theorem wit_ProductsRun_reads : ∀ op ∈ [0x20, 0x21, 0x22],
    (((prodShapes op).walk prodTile.mem prodIn).elem 0 0).map List.flatten = .ok [(.num false 0 (-149), .num false 0 (-149))] ∧
    initOf prodTile.mem (prodWord op) prodIn 0 0 = .ok 0#32 ∧
    (storeCover prodTile.mem (prodIn.out.cover [(0, 0, 0)])).2 = [] := by decide +kernel
theorem wit_passing : (passing.opPass at0).isSome = true ∧ (passing.tile (passing.phys at0.tile)).streams = [] ∧
    passing.slots.length = 16 ∧ (passing.slot 0).mirror.rj = .idle := by decide +kernel
def flyCol (c : Int) : ColCheck := ⟨true, ⟨0, 0⟩, ⟨0, 0⟩, true, ⟨c, 0⟩⟩
def flying (c : Int) (ps : List Pass) : State := { passes := ps, tiles := [(0, { checks := [⟨1, 0, 0, 0, 0, 0, 1, [flyCol c]⟩] })] }
theorem wit_FlyLaneChecks_pass : ((flying 0 []).tile ((flying 0 []).phys ⟨0, 0, 0⟩)).checks = [⟨1, 0, 0, 0, 0, 0, 1, [flyCol 0]⟩] ∧
    tget (flying 0 []).fly 0 [0, 0, 0] = [0, 0, 0] ∧
    ([flyCol 0].mapIdx (fun i c => (i, c))).filter (fun e => e.2.support && !e.2.pass 1) = [] := by decide +kernel
theorem wit_FlyLaneChecks_mismatch : ([flyCol 1].mapIdx (fun i c => (i, c))).filter (fun e => e.2.support && !e.2.pass 1) = [(0, flyCol 1)] ∧
    (flying 1 []).pass? 1 = none ∧ (flying 1 [{ id := 1, slot := 0, kind := .forward, attempt := 1 }]).pass? 1 = some { id := 1, slot := 0, kind := .forward, attempt := 1 } ∧
    (flying 1 [{ id := 1, slot := 0, kind := .forward }]).pass? 1 = some { id := 1, slot := 0, kind := .forward } ∧
    ((flying 1 []).tile ((flying 1 []).phys ⟨0, 0, 0⟩)).checks.length = 1 := by decide +kernel
theorem wit_LaneElementwise : ∃ (rs : List Region) (o : Region) (xs : List (List (List Word32) × Events)),
    let t := passing.tile (passing.phys at0.tile)
    let a : LaneArgs := { in1 := 1, in2 := 2, in3 := 3, out := 4, rows := 1, cols := 1 }
    (Safety.ins 3 a).mapM (fun h => laneRegion t h.1 false h.2.1 h.2.2) = .ok rs ∧ laneRegion t 4 true 1 1 = .ok o ∧ o.fmt = 0 ∧
    (rs.zip (Safety.ins 3 a)).mapM (fun r => laneRead t.mem r.1 r.2.2.1 r.2.2.2) = .ok xs ∧
    t.ready ((rs.zip (Safety.ins 3 a)).map (fun r => r.1.span r.2.2.1 r.2.2.2)) [o.span 1 1] = .ok () ∧
    (storeCover t.mem (o.cover (Safety.laneCells o.fmt [[1#32]]))).2 = [] :=
  ⟨[⟨1, 0, 1, 1, false, 0⟩, ⟨2, 1, 1, 1, false, 0⟩, ⟨3, 2, 1, 1, false, 0⟩], ⟨4, 3, 1, 1, false, 0⟩,
    [([[0#32]], {}), ([[0#32]], {}), ([[0#32]], {})], by decide +kernel⟩
theorem wit_LaneSpecialValues : (dec32 0x7F800001#32).isNan = true ∧ 0x80000000#32 < 0x80000001#32 ∧
    (0x80000000#32 &&& 0x7FFFFFFF#32) = 0#32 ∧ (0x00000001#32 &&& 0x7FFFFFFF#32) < 0x7F800000#32 := by decide +kernel
theorem wit_LaneRowOperations : ∃ (rs : List Region) (xs : List (List (List Word32) × Events)),
    let t := passing.tile (passing.phys at0.tile)
    let l := [(1, 1, 1), (2, 1, 1), (3, 1, 1), (3, 1, 1)]
    l.mapM (fun h => laneRegion t h.1 false h.2.1 h.2.2) = .ok rs ∧
    (rs.zip l).mapM (fun r => laneRead t.mem r.1 r.2.2.1 r.2.2.2) = .ok xs :=
  ⟨[⟨1, 0, 1, 1, false, 0⟩, ⟨2, 1, 1, 1, false, 0⟩, ⟨3, 2, 1, 1, false, 0⟩, ⟨3, 2, 1, 1, false, 0⟩],
    [([[0#32]], {}), ([[0#32]], {}), ([[0#32]], {}), ([[0#32]], {})], by decide +kernel⟩
theorem wit_LaneConvertRuns : ∃ (g : ConvRegs) (vals : Nat → Nat → Val),
    let t := passing.tile (passing.phys at0.tile)
    let a : LaneArgs := { in1 := 1, out := 2, rows := 1, cols := 1 }
    let v : ConvArgs := { word := 0 }
    let ps := Safety.pieces a v 0 { id := 1, slot := 0, kind := .forward } vals
    Safety.ConvertReady t a v g ∧ (∀ line < 1, ∀ pos < 1, convVal t.mem g a v line pos = .ok (vals line pos)) ∧
    (storeCover t.mem (g.dst.cover (convCells v ps))).2 = [] ∧ convScales a v g ps = [] ∧ convOk 0xF000#64 = false :=
  ⟨⟨⟨1, 0, 1, 1, false, 0⟩, ⟨2, 1, 1, 1, false, 0⟩, none, none⟩, fun _ _ => .num false 0 (-149),
    ⟨by decide, ⟨_, rfl, rfl, by decide⟩, ⟨_, rfl, rfl, by decide⟩, by rw [if_neg (by decide)], by rw [if_neg (by decide)], by decide +kernel⟩,
    by decide +kernel, by decide +kernel, rfl, by decide⟩
/-- A linear FP32 region of the first word, readable and writable. -/
def entry0 : BitVec 128 := BitVec.ofNat 128 (2 ^ 127 + 2 ^ 119 + 2 ^ 118 + 2 ^ 72 + 2 ^ 32)
/-- As `passing`, with an entry's image in code word 100, the same past the scratchpad in word 102, and one with VALID = 0 in 104. -/
def imaged : State :=
  { passing with tiles := [(0, { passing.tile 0 with
      mem := Memory.writeWord (Memory.writeWord [] 100 (encodeWord entry0)) 102 (encodeWord (entry0 + BitVec.ofNat 128 (40960 * 2 ^ 48))) })] }
theorem wit_HandleTableWrites : ∃ x, imaged.opPass at0 = some x ∧
    let t := imaged.tile (imaged.phys at0.tile)
    t.entryFree 0 = .ok () ∧ t.image 100 = .ok entry0 ∧ hValid entry0 = true ∧ imaged.entryCheck x.slot at0.tile t 0 entry0 = none ∧
    t.image 104 = .ok 0 ∧ hValid 0 = false ∧ t.lowFree = some 0 ∧ t.entryFree 128 = .ok () ∧ t.ready [] [(60, 1)] = .ok () ∧
    (let e := entry0 + BitVec.ofNat 128 (40960 * 2 ^ 48)
     t.image 102 = .ok e ∧ hValid e = true ∧ imaged.entryCheck x.slot at0.tile t 0 e = some 0x6133 ∧ hKind e ≠ 3 ∧ hFmt e < 12 ∧
     40960 < hBase e + hLen e) ∧ imaged.slots.length = 16 ∧ (imaged.slot 0).mirror.rj = .idle :=
  ⟨{ id := 1, slot := 0, kind := .forward }, by decide +kernel⟩
def naming (full : Bool) (st : List Stream) (ar : Tbl Area) : State :=
  { passing with tiles := [(0, { handles := if full then (List.range 128).map (fun k => (k, entry0)) else [], streams := st, areas := ar })] }
theorem wit_HandleTableWrites_waits : ∃ x, (naming false [] [(3, ⟨[.held 1 5 1], [], [], []⟩)]).opPass at0 = some x ∧
    ((naming false [] [(3, ⟨[.held 1 5 1], [], [], []⟩)]).tile 0).anyHeld 3 = true ∧
    ((naming false [{ id := 0, desc := BitVec.ofNat 256 (0x30 * 2 ^ 248 + 3 * 2 ^ 233), pass := 1, slot := 0 }] []).tile 0).named 3 = true ∧
    ((naming true [] []).tile 0).lowFree = none ∧ ((naming true [] []).tile 0).entryFree 128 = .ok () ∧
    ((naming true [] []).tile 0).image 1000 = .ok 0 :=
  ⟨{ id := 1, slot := 0, kind := .forward }, by decide +kernel⟩
theorem wit_WindowRegisterWrites : (passing.opPass at0).isSome = true ∧
    let t := passing.tile (passing.phys at0.tile)
    let e : BitVec 128 := BitVec.ofNat 128 (2 ^ 127 + 1 * 2 ^ 64)
    wOpen (0 : BitVec 128) = false ∧ wOpen e = true ∧ wPeer e ≤ 1 ∧ fld e 112 104 = 0 ∧ fld e 15 0 = 0 ∧ 0 < wLen e ∧ wLen e ≤ 40960 ∧
    t.writable (wBase e) (wLen e) = true ∧ wLen (BitVec.ofNat 128 (2 ^ 127)) = 0 ∧ 1 < wPeer (BitVec.ofNat 128 (2 ^ 127 + 2 ^ 125)) := by decide +kernel
/-- Tile T00 writes through handle 5 to a receive area of two units at entry 6 of T01. -/
def credits (l : List UnitState) (q : List CreditReq) : State :=
  { passing with tiles := [
    (0, { handles := [(5, BitVec.ofNat 128 (2 ^ 127 + 2 ^ 125 + 2 ^ 118 + 1 * 2 ^ 95 + 6 * 2 ^ 88 + 64 * 2 ^ 32))] }),
    (1, { handles := [(6, BitVec.ofNat 128 (2 ^ 127 + 2 ^ 118 + 2 ^ 117 + 64 * 2 ^ 32))], areas := [(6, { units := l, queue := q })] })] }
theorem wit_Credits_request : ∃ x, (credits [.free, .free] []).livePass at0 = some x ∧
    let e := ((credits [.free, .free] []).tile 0).handle 5
    hValid e = true ∧ hKind e = 1 ∧ hWr e = true ∧ (credits [.free, .free] []).area (hTile e) (hTarget e) = some { units := [.free, .free] } ∧
    (credits [.free, .free] []).pathFrozen at0.tile (hTile e) = false :=
  ⟨{ id := 1, slot := 0, kind := .forward }, by decide +kernel⟩
theorem wit_Credits_grant : (credits [.free, .free] [⟨0, 5, 1, 0, 2⟩]).area ⟨0, 0, 1⟩ 6 = some { units := [.free, .free], queue := [⟨0, 5, 1, 0, 2⟩] } ∧
    (credits [.free, .full] [⟨0, 5, 1, 0, 2⟩]).area ⟨0, 0, 1⟩ 6 = some { units := [.free, .full], queue := [⟨0, 5, 1, 0, 2⟩] } ∧
    (credits [.free, .free] [⟨0, 5, 1, 0, 2⟩]).pathFrozen ⟨0, 0, 1⟩ (refOf 0) = false := by decide +kernel
theorem wit_Credits_deliver : (credits [.held 0 5 1, .held 0 5 1] []).area ⟨0, 0, 1⟩ 6 = some { units := [.held 0 5 1, .held 0 5 1] } ∧
    heldBy (trNum at0.tile) 5 (.held 0 5 1) = true ∧ ((credits [.held 0 5 1, .held 0 5 1] []).tile 0).writing 5 0 2 = false := by decide +kernel
def released (src : Tbl Nat) : State :=
  { passing with tiles := [(0, { areas := [(6, { units := [.full, .free], src := src })] })],
                 slots := { passing.slot 0 with image := some { (default : Image) with blocks := [1] } } :: List.replicate 15 {} }
theorem wit_Credits_release : ∃ x, (released []).livePass at0 = some x ∧ (released []).area at0.tile 6 = some { units := [.full, .free] } ∧
    ((released []).slot x.slot).inBlock x (refOf (tget [] 0 (trNum at0.tile + 1) - 1)) = true ∧
    ((released [(0, 21)]).slot x.slot).inBlock x (refOf (tget [(0, 21)] 0 (trNum at0.tile + 1) - 1)) = false ∧
    (released [(0, 21)]).livePass at0 = some x :=
  ⟨{ id := 1, slot := 0, kind := .forward }, by decide +kernel⟩
/-- Handle 7 of tile T00 names entry 2 of T01, a linear FP32 region of one word. -/
def reading : State :=
  { passing with tiles := [
    (0, { handles := [(1, BitVec.ofNat 128 (2 ^ 127 + 2 ^ 119 + 2 ^ 118 + 2 ^ 72 + 4 * 2 ^ 32)),
      (7, BitVec.ofNat 128 (2 ^ 127 + 2 ^ 125 + 2 ^ 119 + 2 ^ 118 + 1 * 2 ^ 95 + 2 * 2 ^ 88 + 4 * 2 ^ 32))] }),
    (1, { handles := [(2, BitVec.ofNat 128 (2 ^ 127 + 2 ^ 119 + 2 ^ 118 + 2 ^ 72 + 8 * 2 ^ 48 + 4 * 2 ^ 32))] })] }
/-- As `reading`, across a frozen crossing: the handle's target is T01 of group 1. -/
def freezing : State :=
  { reading with
    tiles := [(0, { handles := [(7, BitVec.ofNat 128 (2 ^ 127 + 2 ^ 125 + 2 ^ 119 + 2 ^ 118 + 33 * 2 ^ 95 + 4 * 2 ^ 32))] })],
    crossings := [{ a := 0, b := 64, frozen := true }] }
theorem wit_RemoteReadsServe : (reading.livePass at0).isSome = true ∧
    reading.pathFrozen at0.tile (hTile ((reading.tile 0).handle 7)) = false ∧
    (let e := (reading.tile 0).handle 7
     hValid e = true ∧ hKind e = 1 ∧ hRd e = true ∧ 3 + 1 ≤ hLen e ∧ reading.phys (hTile e) = 1 ∧
       (match (reading.tile 1).region (hTarget e) false with | .ok r => decide (hBase e + 3 + 1 ≤ r.len) | .error _ => false) = true) ∧
    hValid ((reading.tile 0).handle 9) = false ∧ hKind ((reading.tile 0).handle 1) ≠ 1 ∧ hLen ((reading.tile 0).handle 7) < 3 + 2 ∧
    reading.slots.length = 16 ∧ (reading.slot 0).mirror.rj = .idle := by decide +kernel
theorem wit_RemoteReadsServe_frozen : (freezing.livePass at0).isSome = true ∧
    freezing.pathFrozen at0.tile (hTile ((freezing.tile 0).handle 7)) = true := by decide +kernel
/-- A stream descriptor: op, remote handle, leased, stack address or queue, bytes; local handle 1, identity 3. -/
def sdesc (op remote lease a len : Nat) : BitVec 256 :=
  BitVec.ofNat 256 (op * 2 ^ 248 + 3 * 2 ^ 240 + 1 * 2 ^ 233 + remote * 2 ^ 226 + lease * 2 ^ 217 + a * 2 ^ 160 + len * 2 ^ 128 + lease * 2 ^ 64)
/-- With a window handle 8, a receive-area handle 7, and queues 1 and 2 from and to tile T00. -/
def streaming : State :=
  { reading with
    tiles := (0, { handles := [(1, BitVec.ofNat 128 (2 ^ 127 + 2 ^ 119 + 2 ^ 118 + 2 ^ 72 + 4 * 2 ^ 32)),
      (7, BitVec.ofNat 128 (2 ^ 127 + 2 ^ 125 + 2 ^ 119 + 2 ^ 118 + 1 * 2 ^ 95 + 2 * 2 ^ 88 + 4 * 2 ^ 32)),
      (8, BitVec.ofNat 128 (2 ^ 127 + 2 ^ 126 + 2 ^ 118 + 4 * 2 ^ 32))] }) :: reading.tiles.tail,
    queues := [(1, { desc := BitVec.ofNat 192 (1 * 2 ^ 182 + 512 * 2 ^ 86), slot := 0, credit := 8192 }),
               (2, { desc := BitVec.ofNat 192 (2 * 2 ^ 182 + 512 * 2 ^ 99), slot := 0, credit := 8192 })] }
theorem wit_StreamsIssue : (streaming.opPass at0).isSome = true ∧ (streaming.tile 0).queued = [] ∧
    (∀ x ∈ [(0x30, sdesc 0x30 0 0 0 64), (0x30, sdesc 0x30 0 1 0 64), (0x31, sdesc 0x31 0 0 0 64), (0x32, sdesc 0x32 7 0 0 64),
      (0x33, sdesc 0x33 7 0 0 64), (0x34, sdesc 0x34 8 0 0 64), (0x35, sdesc 0x35 0 0 1 64), (0x36, sdesc 0x36 0 0 2 64),
      (0x37, sdesc 0x37 0 0 0 64)], streamCheck (streaming.tile 0) ⟨0, 0, 0⟩ (streaming.slot 0).stackTop 0 streaming.queues x.1 x.2 = .ok () ∧
        (streaming.tile 0).mayStart [] { id := sId x.2, desc := x.2, pass := 1, slot := 0 } = true ∧ sConvert x.2 = false ∧
        (x.1 = 0x31 → sAddr x.2 + ({ id := 3, desc := x.2, pass := 1, slot := 0 } : Stream).total ≤ (streaming.slot 0).stackTop)) ∧
    streamCheck (streaming.tile 0) ⟨0, 0, 0⟩ (streaming.slot 0).stackTop 0 streaming.queues 0x30 (sdesc 0x30 0 0 0 63) = .error (.fault 0x6141) := by
  decide +kernel
theorem wit_StreamsIssue_leases : ∀ k, (streaming.stack k).leases.length < 8192 := by intro k; simp [streaming, reading, passing, hoisted, State.stack, tget]
/-- A die without a free lease entry. -/
def unleased : State := { streaming with dram := [(0, { leases := List.replicate 8192 { tile := 1, stream := 0, units := [] } })] }
theorem wit_StreamsIssue_no_lease : sLease (sdesc 0x30 0 1 0 64) = true ∧ (0, 0) ∈ (unleased.slot 0).rangeUnits 0 64 ∧
    8192 ≤ (unleased.stack 0).leases.length := by
  refine ⟨by decide +kernel, by decide +kernel, ?_⟩
  show 8192 ≤ (List.replicate 8192 _).length
  rw [List.length_replicate]
theorem wit_StreamsIssue_waits : ∃ t : Tile, t.mayStart [] { id := 3, desc := 0, pass := 1, slot := 0 } = false :=
  ⟨{ streams := List.replicate 32 { id := 4, desc := 0, pass := 1, slot := 0 } }, by decide +kernel⟩
/-- The stream of a descriptor that converts FP32 to BF16 under the control word at word 1 of handle 6's region. -/
def converting : State :=
  { streaming with tiles := (0, { streaming.tile 0 with
      handles := (streaming.tile 0).handles ++ [(6, BitVec.ofNat 128 (2 ^ 127 + 2 ^ 119 + 2 ^ 118 + 2 ^ 72 + 100 * 2 ^ 48 + 4 * 2 ^ 32))],
      mem := Memory.writeWord [] 200 (encodeWord (BitVec.ofNat 128 (1 * 2 ^ 12))) }) :: streaming.tiles.tail }
theorem wit_StreamsIssue_converts : ∃ w, convWord (converting.tile 0) (sdesc 0x30 0 0 0 64 ||| BitVec.ofNat 256 (2 ^ 218 + 6 * 2 ^ 219)) = .ok w ∧
    sConvert (sdesc 0x30 0 0 0 64 ||| BitVec.ofNat 256 (2 ^ 218 + 6 * 2 ^ 219)) = true := ⟨0x1000#64, by decide +kernel⟩
theorem wit_StreamsIssue_again : ∃ t : Tile, t.streams.any (fun y => decide (y.pass = 1) && decide (y.desc = sdesc 0x36 0 0 2 64)
    && (streaming.slot 0).inputStream (sdesc 0x36 0 0 2 64) t) = true :=
  ⟨{ streams := [{ id := 3, desc := sdesc 0x36 0 0 2 64, pass := 1, slot := 0 }] }, by decide +kernel⟩
/-- Stream 3 of tile T00 with descriptor d, granted one transfer. -/
def moving (d : BitVec 256) (passed : Nat) (qs : Tbl Queue) : State :=
  { streaming with queues := qs, tiles := (0, { streaming.tile 0 with streams := [{ id := 3, desc := d, pass := 1, slot := 0, granted := 1, passed := passed }] }) :: streaming.tiles.tail }
theorem wit_Transfers_hoist : ∃ x, ((moving (sdesc 0x30 0 0 0 64) 0 []).tile 0).stream? 3 = some x ∧
    (moving (sdesc 0x30 0 0 0 64) 0 []).chunkOf (streaming.tile 0) x 0 = 64 ∧ x.room (streaming.tile 0) 0 = true ∧
    (moving (sdesc 0x30 0 0 0 64) 0 []).place x 0 = .stack 0 ∧
    ({ moving (sdesc 0x30 0 0 0 64) 0 [] with dram := [(0, { keys := [(0, 1)] })] }.readUnit 0 0 0).2.isSome = true :=
  ⟨{ id := 3, desc := sdesc 0x30 0 0 0 64, pass := 1, slot := 0, granted := 1 }, by decide +kernel⟩
theorem wit_Transfers_read : ∃ x, ((moving (sdesc 0x32 7 0 0 64) 0 []).tile 0).stream? 3 = some x ∧ (moving (sdesc 0x32 7 0 0 64) 0 []).chunkOf (streaming.tile 0) x 0 = 64 ∧
    x.room (streaming.tile 0) 0 = true ∧ (moving (sdesc 0x32 7 0 0 64) 0 []).remoteBase ((streaming.tile 0).handle 7) 0 2 false = .ok (1, 8) :=
  ⟨{ id := 3, desc := sdesc 0x32 7 0 0 64, pass := 1, slot := 0, granted := 1 }, by decide +kernel⟩
/-- Stream 3 of T00 writes to the receive area at entry 2 of T01. -/
def writingTo (u : UnitState) (q : List CreditReq) : State :=
  let s := moving (sdesc 0x33 7 0 0 64) 1 []
  { s with tiles := [(0, s.tile 0), (1, { s.tile 1 with areas := [(2, { units := [u], queue := q })] })] }
theorem wit_Transfers_write : ∃ x, ((writingTo (.held 0 7 1) []).tile 0).stream? 3 = some x ∧ (writingTo (.held 0 7 1) []).chunkOf (streaming.tile 0) x 0 = 64 ∧
    x.room (streaming.tile 0) 0 = true ∧ (writingTo (.held 0 7 1) []).area (hTile ((streaming.tile 0).handle 7)) (hTarget ((streaming.tile 0).handle 7)) = some { units := [.held 0 7 1] } ∧
    (∀ i < 2, heldBy (trNum ⟨0, 0, 0⟩) 7 ([UnitState.held 0 7 1].getD ((hBase ((streaming.tile 0).handle 7) + i) / 32) .free) = true) ∧
    (writingTo .free [⟨0, 7, 1, 0, 1⟩]).area ⟨0, 0, 1⟩ 2 = some { units := [.free], queue := [⟨0, 7, 1, 0, 1⟩] } :=
  ⟨{ id := 3, desc := sdesc 0x33 7 0 0 64, pass := 1, slot := 0, granted := 1, passed := 1 }, by decide +kernel⟩
theorem wit_Transfers_push : ∃ x q, ((moving (sdesc 0x35 0 0 1 64) 1 streaming.queues).tile 0).stream? 3 = some x ∧
    (moving (sdesc 0x35 0 0 1 64) 1 streaming.queues).chunkOf (streaming.tile 0) x 0 = 64 ∧ x.room (streaming.tile 0) 0 = true ∧ (moving (sdesc 0x35 0 0 1 64) 1 streaming.queues).queue? 1 = some q ∧
    (x.part ++ x.fetch (streaming.tile 0) 0 64).length / (2 * qMsg q.desc) = 2 ∧ 32 * qMsg q.desc * 2 ≤ q.credit ∧ q.tail.length + 2 ≤ qPage q.desc :=
  ⟨{ id := 3, desc := sdesc 0x35 0 0 1 64, pass := 1, slot := 0, granted := 1, passed := 1 },
    { desc := BitVec.ofNat 192 (1 * 2 ^ 182 + 512 * 2 ^ 86), slot := 0, credit := 8192 }, by decide +kernel⟩
theorem wit_Transfers_push_no_credit : (∃ q : Queue, q.credit < 32 * qMsg q.desc * 2) ∧
    (∃ q : Queue, 32 * qMsg q.desc * 2 ≤ q.credit ∧ qPage q.desc < q.tail.length + 2) :=
  ⟨⟨{ desc := 0, slot := 0, credit := 63 }, by decide⟩, ⟨{ desc := 0, slot := 0, credit := 64, tail := List.replicate 128 [] }, by decide +kernel⟩⟩
theorem wit_Transfers_pop : ∃ x q m r, ((moving (sdesc 0x36 0 0 2 64) 0 [(2, q)]).tile 0).stream? 3 = some x ∧
    (moving (sdesc 0x36 0 0 2 64) 0 [(2, q)]).chunkOf (streaming.tile 0) x 0 = 32 ∧ x.room (streaming.tile 0) 0 = true ∧ (moving (sdesc 0x36 0 0 2 64) 0 [(2, q)]).queue? 2 = some q ∧
    q.pop = some (m, r) ∧ 0 < m.length ∧ m.length ≤ 32 / 16 ∧ (∀ k < 6, ((moving (sdesc 0x36 0 0 2 64) 0 [(2, q)]).port k).heldRx = []) ∧
    ({ q with head := [] } : Queue).pop = none :=
  ⟨{ id := 3, desc := sdesc 0x36 0 0 2 64, pass := 1, slot := 0, granted := 1 },
    { desc := BitVec.ofNat 192 (2 * 2 ^ 182 + 512 * 2 ^ 99), slot := 0, head := [[1, 2]] }, [1, 2],
    { desc := BitVec.ofNat 192 (2 * 2 ^ 182 + 512 * 2 ^ 99), slot := 0, head := [] }, by decide +kernel⟩
theorem wit_Transfers_tier : ∃ x, ((moving (sdesc 0x37 0 0 0 64) 1 []).tile 0).stream? 3 = some x ∧
    (moving (sdesc 0x37 0 0 0 64) 1 []).chunkOf (streaming.tile 0) x 0 = 64 ∧ x.room (streaming.tile 0) 0 = true ∧ sLen x.desc ≤ 0 + 64 ∧
    ((moving (sdesc 0x37 0 0 0 64) 1 []).slot 0).pushWaits (pushHeader (x.fetch (streaming.tile 0) 0 64)) 0 = false :=
  ⟨{ id := 3, desc := sdesc 0x37 0 0 0 64, pass := 1, slot := 0, granted := 1, passed := 1 }, by decide +kernel⟩
theorem wit_Transfers_tier_waits : ∃ x : Slot, x.pushWaits 0 1 = true :=
  ⟨{ chips := [(0, { shards := [{ desc := 0 }] })] }, by decide +kernel⟩
theorem wit_Sections_sadv : ∃ (s : State) (p : Pass) (x : Stream), s.livePass at0 = some p ∧ (s.tile 0).stream? 3 = some x ∧ x.pass = p.id ∧
    x.passed + x.due < (sLen x.desc + x.secBytes (s.tile 0) - 1) / max 1 (x.secBytes (s.tile 0)) ∧ sInbound x.desc = false ∧
    (s.slot x.slot).inputStream x.desc (s.tile 0) = false :=
  ⟨moving (sdesc 0x31 0 0 0 64) 0 [], { id := 1, slot := 0, kind := .forward }, { id := 3, desc := sdesc 0x31 0 0 0 64, pass := 1, slot := 0, granted := 1 }, by decide +kernel⟩
theorem wit_Sections_sadv_waits : ∃ (s : State) (x : Stream), (s.tile 0).stream? 3 = some x ∧ sInbound x.desc = true ∧
    x.secDone (s.tile 0) ≤ x.passed ∧ x.passed < (sLen x.desc + x.secBytes (s.tile 0) - 1) / max 1 (x.secBytes (s.tile 0)) :=
  ⟨moving (sdesc 0x30 0 0 0 64) 0 [], { id := 3, desc := sdesc 0x30 0 0 0 64, pass := 1, slot := 0, granted := 1 }, by decide +kernel⟩
theorem wit_Sections_sadv_input : ∃ (s : State) (x : Stream), (s.tile 0).stream? 3 = some x ∧ sInbound x.desc = true ∧
    x.passed + x.due < x.secDone (s.tile 0) ∧ (s.slot x.slot).inputStream x.desc (s.tile 0) = true ∧
    x.passed + x.due < (sLen x.desc + x.secBytes (s.tile 0) - 1) / max 1 (x.secBytes (s.tile 0)) :=
  ⟨{ streaming with tiles := (0, { streaming.tile 0 with streams := [{ id := 3, desc := sdesc 0x36 0 0 2 64, pass := 1, slot := 0, done := 64 }] }) :: streaming.tiles.tail },
    { id := 3, desc := sdesc 0x36 0 0 2 64, pass := 1, slot := 0, done := 64 }, by decide +kernel⟩
theorem wit_Sections_drain : ∃ (s : State) (x : Stream), (s.tile (s.phys ⟨0, 0, 0⟩)).stream? 3 = some x ∧ (s.slot x.slot).ingest.declared = some 5 ∧
    sOp x.desc = 0x36 ∧ sAddr x.desc ∈ s.ingestQueue x.slot ∧ 0 < s.rate (groupNum 0 0) :=
  ⟨{ moving (sdesc 0x36 0 0 2 64) 0 [(2, { desc := BitVec.ofNat 192 ((2 ^ 12 + 5 * 2 ^ 8 + 5 * 2 ^ 5) * 2 ^ 99), slot := 0 })] with
      slots := { ingest := { declared := some 5 } } :: List.replicate 15 {}, oscs := [(0, { rate := 65536 })] },
    { id := 3, desc := sdesc 0x36 0 0 2 64, pass := 1, slot := 0, granted := 1 }, by decide +kernel⟩
theorem wit_Sections_miss : ∃ (s : State) (x : Stream), (s.tile (s.phys ⟨0, 0, 0⟩)).stream? 3 = some x ∧ x.slot < s.slots.length ∧
    x.slack (s.tile (s.phys ⟨0, 0, 0⟩)) = some 0 ∧ s.waiting (trNum ⟨0, 0, 0⟩) 3 = true ∧ x.missed = false :=
  ⟨{ tiles := [(0, { streams := [{ id := 3, desc := sdesc 0x30 0 0 0 64, pass := 1, slot := 0, drain := 1024 }] })],
     arbs := [(5, { reqs := [{ slot := 0, tile := 0, stream := 3, paths := [[]] }] })] }, { id := 3, desc := sdesc 0x30 0 0 0 64, pass := 1, slot := 0, drain := 1024 }, by decide +kernel⟩
theorem wit_Sections_answer : ∃ (s : State) (x : Stream), (s.tile (s.phys ⟨0, 0, 0⟩)).stream? 3 = some x ∧
    x.answers.any (fun a => decide (a.1 = 9)) = true ∧ s.slots.length = 16 :=
  ⟨{ tiles := [(0, { streams := [{ id := 3, desc := 0, pass := 1, slot := 0, answers := [(9, 0, 32)] }] })] },
    { id := 3, desc := 0, pass := 1, slot := 0, answers := [(9, 0, 32)] }, by decide +kernel⟩
theorem wit_ArbitersRotate : ∃ s : State, let a := s.arb (resKey (.cachePort 0))
    a.reqs = [{ slot := 2, tile := 0, stream := 3, paths := [[3 * 2 ^ 16]] }, { slot := 1, tile := 0, stream := 4, paths := [[3 * 2 ^ 16]] }] ∧
    (∀ r ∈ a.reqs, s.frozenAt (resKey (.cachePort 0)) r = false ∧ r.slot < 17 ∧ s.bankBusy ((r.paths.headD []).headD 0) = false) ∧
    1 = (a.last + 1 + 1) % 17 ∧ (∀ j < 1, ∀ r ∈ a.reqs, r.slot ≠ (a.last + 1 + j) % 17) ∧ (a.count + 1) % max 1 s.test.grantPeriod ≠ 0 :=
  ⟨{ arbs := [(3 * 2 ^ 16, { reqs := [{ slot := 2, tile := 0, stream := 3, paths := [[3 * 2 ^ 16]] }, { slot := 1, tile := 0, stream := 4, paths := [[3 * 2 ^ 16]] }] })] }, by decide +kernel⟩
theorem wit_ArbitersRotate_reserved : ∃ s : State, let a := s.arb (resKey (.cachePort 0))
    a.reqs = [{ slot := 2, tile := 0, stream := 3, paths := [[3 * 2 ^ 16]] }] ∧ (a.count + 1) % max 1 s.test.grantPeriod = 0 ∧
    ((s.tile (s.phys (refOf 0))).stream? 3).isSome = true :=
  ⟨{ arbs := [(3 * 2 ^ 16, { count := 7, reqs := [{ slot := 2, tile := 0, stream := 3, paths := [[3 * 2 ^ 16]] }] })], tiles := [(0, { streams := [{ id := 3, desc := 0, pass := 1, slot := 2 }] })] },
    by decide +kernel⟩
theorem wit_ArbitersRotate_engine : ∃ s : State, let a := s.arb (resKey (.queueEngine 0 1))
    a.reqs = [{ slot := 0, tile := queueTile 1, stream := 0, paths := [[resKey (.queueEngine 0 1)]] }] ∧ (s.queue? 1).isSome = true ∧
    (∀ r ∈ a.reqs, s.frozenAt (resKey (.queueEngine 0 1)) r = false ∧ s.bankBusy ((r.paths.headD []).headD 0) = false) :=
  ⟨{ arbs := [(resKey (.queueEngine 0 1), { reqs := [{ slot := 0, tile := queueTile 1, stream := 0, paths := [[resKey (.queueEngine 0 1)]] }] })],
     queues := [(1, { desc := 0, slot := 0 })] }, by decide +kernel⟩
/-- Stream 3 of T00 hoists the first unit of stack 0 under a lease. -/
def leased (done : Nat) (stale : List Nat) : State :=
  { streaming with
    tiles := (0, { streaming.tile 0 with streams := [{ id := 3, desc := sdesc 0x30 0 1 0 64, pass := 1, slot := 0, done := done, leased := true, stale := stale }] }) :: streaming.tiles.tail,
    dram := [(0, { keys := [(0, 1)], leases := [{ tile := 0, stream := 3, units := [0] }], notices := [(0, 3, 0)] })] }
theorem wit_HoistLeases_stale : ∃ x, ((leased 64 []).tile 0).stream? 3 = some x ∧ (leased 64 []).unitIndex x 0 = some 0 ∧
    (trNum ⟨0, 0, 0⟩, 3, 0) ∈ ((leased 64 []).stack 0).notices ∧
    ¬ (x.loc (x.unitStart 0) < (x.passed + x.due) * x.secBytes (streaming.tile 0) ∨
      ∃ r ∈ x.seen, r.1 < x.loc (x.unitEnd 0) ∧ x.loc (x.unitStart 0) < r.2) :=
  ⟨{ id := 3, desc := sdesc 0x30 0 1 0 64, pass := 1, slot := 0, done := 64, leased := true }, by decide +kernel⟩
theorem wit_HoistLeases_consumed : (∃ x : Stream, x.loc (x.unitStart 0) < (x.passed + x.due) * x.secBytes (streaming.tile 0) ∧ x.wrote = false) ∧
    (∃ x : Stream, (∃ r ∈ x.seen, r.1 < x.loc (x.unitEnd 0) ∧ x.loc (x.unitStart 0) < r.2) ∧ x.wrote = true) :=
  ⟨⟨{ id := 3, desc := sdesc 0x30 0 1 0 64, pass := 1, slot := 0, done := 64, passed := 1, leased := true }, by decide +kernel⟩,
   ⟨{ id := 3, desc := sdesc 0x30 0 1 0 64, pass := 1, slot := 0, done := 64, leased := true, wrote := true, seen := [(0, 16)] }, by decide +kernel⟩⟩
theorem wit_HoistLeases_release : ((leased 64 []).tile 0).queued = [] ∧
    (((leased 64 []).tile 0).streams.filter (fun x => x.leased && decide (sRelease x.desc = 1))).map Stream.id = [3] := by decide +kernel
theorem wit_HoistLeases_refetch : ∃ x, ((leased 64 [0]).tile 0).stream? 3 = some x ∧ (leased 64 [0]).unitIndex x 0 = some 0 ∧ 0 ∈ x.stale ∧
    ((leased 64 [0]).readUnit x.slot 0 0).2.isSome = true ∧ x.slot < ((leased 64 [0]).readUnit x.slot 0 0).1.slots.length :=
  ⟨{ id := 3, desc := sdesc 0x30 0 1 0 64, pass := 1, slot := 0, done := 64, leased := true, stale := [0] }, by decide +kernel⟩
/-- Queue 1, whose page holds 64 messages of two words of 32 bytes, with n messages in its tail. -/
def paged (n : Nat) (armed : Bool) : Queue :=
  { desc := BitVec.ofNat 192 (1 * 2 ^ 182 + 512 * 2 ^ 99 + 1 * 2 ^ 72), slot := 0, tail := List.replicate n [5, 6], armed := armed }
/-- A queue's contents with a middle of one unit of 64 KiB. -/
def middled (head : List (List Code160)) (middle : List Nat) (n : Nat) (move : Option PageDir) : Queue :=
  { desc := BitVec.ofNat 192 (1 * 2 ^ 182 + 512 * 2 ^ 99 + 1 * 2 ^ 115 + 1 * 2 ^ 72), slot := 0, head := head, middle := middle,
    tail := List.replicate n [5, 6], move := move, engine := move.isSome }
theorem wit_BuntingPages : (({ queues := [(1, paged 64 false)] } : State).queue? 1) = some (paged 64 false) ∧ qConsumer (paged 64 false).desc / 2 ^ 12 = 0 ∧
    (∀ k < 6, (({ queues := [(1, paged 64 false)] } : State).port k).heldRx = []) ∧ (paged 64 false).moveDue .tailToHead = true ∧
    (paged 63 true).moveDue .tailToHead = false ∧ (paged 63 true).armed = true ∧ (paged 63 true).tail ≠ [] := by decide +kernel
theorem wit_BuntingPages_middle : (middled [[5, 6]] [64] 64 none).moveDue .tailToMiddle = true ∧
    (middled [[5, 6]] (List.replicate 16 64) 64 none).moveDue .tailToMiddle = false ∧ (middled [] [64] 64 none).moveDue .middleToHead = true ∧
    (middled [] [64] 64 (some .middleToHead)).engine = true ∧
    (({ dram := [(0, { keys := [(0, 1)] })] } : State).stackWords 0 ((List.range 4).map (fun i => (middled [] [1] 0 none).midAt (16 * i) / 16))).2
      = some [0, 0, 0, 0] := by decide +kernel
theorem wit_BuntingPages_tag : ({ queues := [(1, { middled [[5, 6]] [64] 64 (some .tailToMiddle) with todo := [(0, 5)] })] } : State).engineTags 1 < 256 ∧
    (match ({} : State).takeTag 0 0 0 5 false with | .ok _ => true | .error _ => false) = true := by decide +kernel
def image0 : Image := { (default : Image) with blocks := [], wsets := [] }
/-- Slot 0 trains one block, FIRST and LAST, stashing one page, with one weight set that is version 0. -/
def training (size fb : Nat) (ver : Nat) : State :=
  { hoisted with slots := { hoisted.slot 0 with
      image := some { image0 with
        stash := BitVec.ofNat 192 (size * 2 ^ 136 + 1 * 2 ^ 40)
        blocks := [BitVec.ofNat 256 (2 ^ 237 + 2 ^ 236 + 1 * 2 ^ 197 + 1 * 2 ^ 179 + fb * 2 ^ 64)]
        wsets := [BitVec.ofNat 128 (5 * 2 ^ 104 + 1 * 2 ^ 98 + 63 * 2 ^ 92 + 1 * 2 ^ 60)] }
      seq := { start := ver } } :: List.replicate 15 {} }
theorem wit_ForwardPassesIssue : ∃ bd, (training 4 0 0).seqRuns 0 = true ∧ ((training 4 0 0).slot 0).block? 0 = some bd ∧
    (training 4 0 0).nextForward 0 bd = some (0, 0) ∧ ((training 4 0 0).slot 0).rejoinHolds 0 = false ∧ (training 4 0 0).live 0 .forward 0 0 0 = false ∧
    (training 4 0 0).spareHolds bd = false ∧ ((training 4 0 0).slot 0).versionsReady bd 0 = true ∧ (training 4 0 0).contexts (bdHome bd) < 256 ∧ bdFirst bd = true ∧ bdFb bd = 0 ∧
    ((training 4 0 0).slot 0).fullNeed ≤ sdPages ((training 4 0 0).slot 0).stashDesc - 0 :=
  ⟨BitVec.ofNat 256 (2 ^ 237 + 2 ^ 236 + 1 * 2 ^ 197 + 1 * 2 ^ 179), by decide +kernel⟩
theorem wit_ForwardPassesIssue_held : (∃ s : State, (s.slot 0).rejoinHolds 0 = true) ∧
    (∃ (s : State) (bd : BitVec 256), s.spareHolds bd = true) :=
  ⟨⟨{ slots := { mirror := { rj := .boundary } } :: List.replicate 15 {} }, by decide +kernel⟩,
   ⟨{ spare := { waiting := [5] } }, 1, by decide +kernel⟩⟩
theorem wit_ForwardPassesIssue_contexts : ∃ s : State, 256 ≤ s.contexts 0 :=
  ⟨{ passes := List.replicate 256 { id := 1, slot := 0, kind := .forward } }, by decide +kernel⟩
theorem wit_ForwardPassesIssue_fallback : ∃ x : Slot, x.blocks.any (fun d => decide (bdFb d ≠ 0)) = true ∧
    sdPages x.stashDesc - x.seq.pages < x.fullNeed ∧ x.keptNeed ≤ sdPages x.stashDesc - x.seq.pages :=
  ⟨(training 1 1 0).slot 0 |> fun x => { x with image := x.image.map (fun im => { im with stash := 0 }) }, by decide +kernel⟩
theorem wit_ForwardPassesIssue_version : ∃ bd, ((training 4 0 1).slot 0).block? 0 = some bd ∧ (training 4 0 1).nextForward 0 bd = some (0, 1) ∧
    ((training 4 0 1).slot 0).versionsReady bd 1 = false :=
  ⟨BitVec.ofNat 256 (2 ^ 237 + 2 ^ 236 + 1 * 2 ^ 197 + 1 * 2 ^ 179), by decide +kernel⟩
theorem wit_ForwardPassesIssue_full : ∃ bd, ((training 0 0 0).slot 0).block? 0 = some bd ∧ (training 0 0 0).nextForward 0 bd = some (0, 0) ∧
    ((training 0 0 0).slot 0).versionsReady bd 0 = true ∧ sdPages ((training 0 0 0).slot 0).stashDesc - 0 < ((training 0 0 0).slot 0).fullNeed ∧
    ((training 0 0 0).slot 0).blocks.any (fun d => decide (bdFb d ≠ 0)) = false ∧ ((training 0 0 0).slot 0).mirror.rj = .idle :=
  ⟨BitVec.ofNat 256 (2 ^ 237 + 2 ^ 236 + 1 * 2 ^ 197 + 1 * 2 ^ 179), by decide +kernel⟩
/-- With the forward pass of micro-batch 0 of step 0 released. -/
def forwarded (fb by_ : Nat) : State :=
  { training 4 fb 0 with slots := { (training 4 fb 0).slot 0 with
      seq := { fwd := [(0, 0, 0)], resv := [⟨0, 0, decide (fb ≠ 0), 0⟩], reserveBy := by_ } } :: List.replicate 15 {} }
theorem wit_BackwardPasses : ∃ bd, ((forwarded 1 0).slot 0).block? 0 = some bd ∧ (forwarded 1 0).seqRuns 0 = true ∧ bdLast bd = true ∧ (forwarded 1 0).awaits 0 0 bd 0 = false ∧
    ((forwarded 1 0).slot 0).inFallback 0 0 = true ∧ bdFb bd ≠ 0 ∧ ((forwarded 1 0).slot 0).seq.reserveBy = 0 ∧ (forwarded 1 0).contexts (bdHome bd) < 256 ∧
    ((forwarded 1 0).slot 0).seq.fwd.find? (fun e => decide (e.1 = 0) && decide (e.2.1 = 0) && !(forwarded 1 0).live 0 .backward 0 0 e.2.2) = some (0, 0, 0) ∧
    ((forwarded 1 9).slot 0).seq.reserveBy ≠ 0 ∧ ((forwarded 0 0).slot 0).inFallback 0 0 = false :=
  ⟨BitVec.ofNat 256 (2 ^ 237 + 2 ^ 236 + 1 * 2 ^ 197 + 1 * 2 ^ 179 + 1 * 2 ^ 64), by decide +kernel⟩
theorem wit_BackwardPasses_gradient : ({ queues := [(1, { desc := BitVec.ofNat 192 (1 * 2 ^ 182 + 2 ^ 12 * 2 ^ 99), slot := 0 })] } : State).awaits 0 0 1 3 = true := by decide
theorem wit_BackwardPasses_order : ∃ (bd : BitVec 256) (q : Sequencer), bdLast bd = false ∧ (0 + 1, 0, 0) ∉ q.bwd := ⟨0, {}, by decide⟩
theorem wit_PassRelease : ∃ x, passing.pass? 1 = some x ∧ x.abandoned = false ∧ passing.passDone x = true ∧ x.attempt = 0 ∧
    (passing.slot x.slot).mirror.pending = false ∧ (passing.slot x.slot).compares x.step = false ∧ x.kind = .forward :=
  ⟨{ id := 1, slot := 0, kind := .forward }, by decide +kernel⟩
theorem wit_PassRelease_not : ∃ (s : State) (x : Pass), s.pass? 1 = some x ∧ x.abandoned = true :=
  ⟨{ passing with passes := [{ id := 1, slot := 0, kind := .forward, abandoned := true }] }, { id := 1, slot := 0, kind := .forward, abandoned := true }, by decide +kernel⟩
theorem wit_PassRelease_queues : ∀ n, (passing.tile n).queued = [] ∧ (passing.tile n).hwaits = [] := by
  intro n
  by_cases h : n = 0
  · subst h; decide +kernel
  · simp [passing, hoisted, State.tile, tget, Ne.symm h]
theorem wit_PassRelease_backward : ∃ (s : State) (x : Pass), s.pass? 1 = some x ∧ x.kind = .backward ∧ s.passDone x = true ∧ x.slot < s.slots.length ∧
    (s.slot x.slot).compares x.step = false :=
  ⟨{ passing with passes := [{ id := 1, slot := 0, kind := .backward }] }, { id := 1, slot := 0, kind := .backward }, by decide +kernel⟩
/-- One block used under tie group 0; its backward pass of micro-batch 0 of step 0 is released where `done`. -/
def tied (done : Bool) : State :=
  { hoisted with slots := { hoisted.slot 0 with
      image := some { image0 with
        blocks := [BitVec.ofNat 256 (2 ^ 237 + 2 ^ 236 + 1 * 2 ^ 179)]
        wsets := [BitVec.ofNat 128 (5 * 2 ^ 104 + 1 * 2 ^ 98 + 1 * 2 ^ 60)] }
      seq := { bwd := if done then [(0, 0, 0)] else [] } } :: List.replicate 15 {} }
theorem wit_GatherPass : (tied true).seqRuns 0 = true ∧ ((tied true).slot 0).wsets.any (fun w => decide (wsTensor w = 5) && decide (wsTie w ≠ 63)) = true ∧
    (∀ b ∈ ((tied true).slot 0).setBlocks 5, (b, 0, 0) ∈ ((tied true).slot 0).seq.bwd) ∧ (tied true).contexts 0 < 256 ∧
    (∃ b ∈ ((tied false).slot 0).setBlocks 5, (b, 0, 0) ∉ ((tied false).slot 0).seq.bwd) ∧
    ({ tied true with passes := [{ id := 1, slot := 0, kind := .gather, tensor := 5 }], nextPass := 2 }.gatherSum 0 5 0 0).2 = .ok [] ∧
    ((tied true).slot 0).compares 0 = false := by decide +kernel
theorem wit_RetryAttempt : ∃ (s : State) (x : Pass), s.pass? 1 = some x ∧ x.abandoned = true ∧ x.kind ≠ .gather ∧ s.seqRuns x.slot = true ∧
    (∀ e ∈ s.passStreams 1, e.2.tags = 0) ∧ (∀ e ∈ s.tiles, ∀ c ∈ e.2.checks, c.pass ≠ 1) :=
  ⟨{ passing with passes := [{ id := 1, slot := 0, kind := .forward, abandoned := true }] }, { id := 1, slot := 0, kind := .forward, abandoned := true },
    by decide +kernel⟩
/-- The worked example of R283. -/
theorem wit_CodeCorrectsOneSymbol : encodeWord (BitVec.ofNat 128 (2 ^ 120)) = BitVec.ofNat 160 (0x4078360F * 2 ^ 128 + 2 ^ 120) ∧
    rsDecide (encodeWord (BitVec.ofNat 128 (2 ^ 120)) ^^^ BitVec.ofNat 160 (0x5A * 256 ^ 3)) = .corrected (encodeWord (BitVec.ofNat 128 (2 ^ 120))) 3 := by
  decide +kernel
theorem wit_StackWords_write : ∃ s : State, addrOk 0 ⟨5, 3⟩ 0 = true ∧ tget? (s.stack 0).keys 0 = some 1 ∧ (s.stack 0).written 5 = true ∧
    (s.stack 0).written 16 = false ∧ addrOk 0 ⟨16, 15⟩ 0 = true ∧ rsDecide (encodeWord 7) = .clean ∧
    rsDecide (encodeWord 7 ^^^ 0x0101) = .uncorrectable := ⟨{ dram := [(0, { keys := [(0, 1)], used := [0] })] }, by decide +kernel⟩
theorem wit_StackWords_read : ∃ s : State, tget? (s.stack 0).keys 0 = some 1 ∧ (s.stack 0).written 5 = true ∧
    rsDecide (Memory.readWord (s.stack 0).mem (16 * 5 + 3) ^^^ 0) = .clean ∧
    rsDecide (Memory.readWord (s.stack 0).mem (16 * 5 + 3) ^^^ 0x100) = .corrected 0 1 ∧
    rsDecide (Memory.readWord (s.stack 0).mem (16 * 5 + 3) ^^^ 0x0101) = .uncorrectable ∧
    unusable (Memory.readWord (s.stack 0).mem (16 * 5 + 3) ^^^ 0x0101) = true :=
  ⟨{ dram := [(0, { keys := [(0, 1)], used := [0] })] }, by decide +kernel⟩
theorem wit_StackWords_active : ((({ dram := [(0, { keys := [(0, 1)], used := [0] })] } : State).stack 0).bank (bankOf 5)).state = .active ∧
    rsDecide (encodeWord 7 ^^^ BitVec.ofNat 160 (0x5A * 256 ^ 3)) = .corrected (encodeWord 7) 3 ∧ unusable poison = true ∧ rsDecide poison = .poisoned ∧
    unusable (encodeWord 7 ^^^ 0x0101) = true ∧ rsDecide ((0 : Code160) ^^^ poison) = .poisoned ∧ unusable ((0 : Code160) ^^^ 0) = false := by decide +kernel
theorem wit_StackWords_gated : ∃ s : State, tget? (s.stack 0).keys 0 = some 1 ∧ ((s.stack 0).bank (bankOf 5)).state = .off ∧ (s.stack 0).written 5 = false :=
  ⟨{ dram := [(0, { keys := [(0, 1)], banks := [(0, { state := .off })] })] }, by decide +kernel⟩
theorem wit_StackWords_no_key : tget? (hoisted.stack 0).keys 0 = none ∧ hoisted.slots.length = 16 ∧ (hoisted.slot 0).mirror.rj = .idle ∧
    (hoisted.slot 0).state = .running := by decide +kernel
/-- Slot 0 holds granule 0; quarter 0 has a line of unit 5 of stack 0 in way 1 and a fill of unit 6. -/
def cached (met : Bool) : State :=
  { hoisted with dram := [(0, { keys := [(0, 1)], used := [0] })], caches := [(0, { lines := [⟨9, 1, 0, 5, List.replicate 16 0, 0xFF⟩], fills := [⟨0, 0, 6, 2, List.replicate 16 0, met⟩] })] }
theorem wit_QuarterCaches : addrOk 0 ⟨5, 3⟩ 0 = true ∧
    ((tget (cached false).caches 0 {}).lines.find? (fun l => decide (l.stack = 0) && decide (l.unit = 5) && decide (l.way ∈ (cached false).ways 0 0) && bit l.sectors 1)).isSome = true ∧
    rsDecide ((List.replicate 16 (0 : Code160)).getD 3 0) = .clean ∧
    ((tget (cached false).caches 0 {}).lines.find? (fun l => decide (l.stack = 0) && decide (l.unit = 7) && decide (l.way ∈ (cached false).ways 0 0) && bit l.sectors 1)) = none ∧
    (((cached false).stack 0).bank (bankOf 7)).state = .active ∧ rsDecide ((0 : Code160) ^^^ 0x100) = .corrected 0 1 ∧
    tget? ((cached false).stack 0).keys 0 = some 1 ∧ (∀ i < 16, rsDecide (Memory.readWord ((cached false).stack 0).mem (16 * 7 + i)) = .clean) ∧
    ((cached false).stack 0).written 7 = true ∧ ((cached false).stack 0).written 16 = false ∧ (cached false).ways 0 0 ≠ [] := by decide +kernel
theorem wit_QuarterCaches_fill : ∀ met, (tget (cached met).caches 0 {}).fills.find? (fun f => decide (f.slot = 0) && decide (f.stack = 0) &&
    decide (f.unit = 6) && decide (f.word = 2)) = some ⟨0, 0, 6, 2, List.replicate 16 0, met⟩ := by decide +kernel
/-- Stack 0 and cartridge 0 under scrub, the first unit of a fresh-tag unit stored. -/
def scrubbing (at_ : Nat) : State :=
  { dram := [(0, { used := [0], scrubOn := true, scrubAt := at_, moving := some 3, banks := [(0, { state := .retention }), (1, { tags := 2 })] })],
    carts := [(0, { used := [0], scrubOn := true, scrubAt := at_ })] }
theorem wit_ScrubAndBankPower : ((scrubbing 0).stack 0).scrubOn = true ∧ nextUnit ((scrubbing 0).stack 0).used 16 0 = some 0 ∧
    nextUnit ((scrubbing 16).stack 0).used 16 16 = none ∧ ((scrubbing 0).cart 0).next 0 = some 0 ∧ ((scrubbing 256).cart 0).next 256 = none ∧
    ((scrubbing 0).stack 0).moving = some 3 ∧ (((scrubbing 0).stack 0).bank 0).state ≠ .active ∧ (((scrubbing 0).stack 0).bank 1).tags ≠ 0 ∧
    (((scrubbing 0).stack 0).bank 2).state = .active ∧ (((scrubbing 0).stack 0).bank 2).tags = 0 ∧ ((scrubbing 0).stack 1).scrubOn = false ∧
    (scrubWord 0 0x0101 0x0101).2.2 ≠ 0 ∧ (((scrubbing 0).stack 0).bank 0).scrubbed = false ∧ (((scrubbing 0).stack 0).bank 0).state = .retention ∧
    ((scrubbing 0).stack 0).scrubAt / 2 ^ 18 ≤ 0 ∧ ¬ ((scrubbing (2 ^ 18)).stack 0).scrubAt / 2 ^ 18 ≤ 0 := by decide +kernel
/-- An FP32 set 5 of 4 elements, SGD, one shard on chip 0 with state from unit 0. -/
def desc5 : BitVec 640 := BitVec.ofNat 640 (5 * 2 ^ 360 + 1 * 2 ^ 356 + 1 * 2 ^ 320 + 4 * 2 ^ 296 + 4 * 2 ^ 216)
/-- A push of set 5's four elements of micro-batch mb and a step. -/
def push5 (stp mb : Nat) : PushMsg :=
  ⟨BitVec.ofNat 256 (5 * 2 ^ 232 + 4 * 2 ^ 112), [encodeWord 0x3F800000#128], stp, mb⟩
/-- Slot 0 with granule 0 and cartridge K0 holds shard 5 on chip 0, two micro-batches a step, micro-batch mb awaited. -/
def owning (mb : Nat) (hold : List HeldPush) : State :=
  { hoisted with
    mod := { hoisted.mod with accepted := [true, false, false, false] }, chips := [(0, { keys := [(0, 1)] })],
    slots := { hoisted.slot 0 with chips := [(0, { header := BitVec.ofNat 256 (1 * 2 ^ 144 + 2 * 2 ^ 128), shards := [{ desc := desc5, mb := mb }], hold := hold })] } :: List.replicate 15 {} }
/-- The hold area is one 64 KiB unit from unit 1; a push of micro-batch 1 lies at its first byte. -/
def held5 : HeldPush := ⟨0, (push5 0 1).hdr, 1, 0, 1⟩
/-- The hold area of a fresh cartridge reads as zeros. -/
def holding : State := owning 1 [held5]
def zeros5 : PushMsg := { push5 0 1 with words := [0] }
theorem wit_Pushes : (owning 0 []).chipsRun 0 = true ∧ (owning 0 []).slots.length = 16 ∧ (owning 0 []).shardIx 0 0 (phTensor (push5 0 0).hdr) = some 0 ∧
    (owning 0 []).shardIx 0 0 6 = none ∧ ((owning 0 []).slot 0).mirror.rj = .idle ∧ 
    (owning 0 []).shard? 0 0 0 = some { desc := desc5 } ∧ pushOk desc5 (chMb ((owning 0 []).chipSlot 0 0).header) 0 (push5 0 0) = true ∧
    pushOk desc5 (chMb ((owning 0 []).chipSlot 0 0).header) 0 (push5 0 2) = false ∧ (push5 1 0).step ≠ 0 ∧ dSparse desc5 = false ∧
    0 + phCount (push5 0 0).hdr = dLen desc5 ∧ ((owning 0 []).slot 0).replicas < 2 ∧
    holdPlace (chHoldSize ((owning 0 []).chipSlot 0 0).header * 65536) (pushSize (push5 0 1)) [] = some 0 := by decide +kernel
theorem wit_Pushes_words : (push5 0 0).words.any unusable = false ∧ [poison].any unusable = true := by decide +kernel
theorem wit_Pushes_full : holdPlace 47 (pushSize (push5 0 1)) [] = none ∧ pushSize (push5 0 1) = 48 ∧ holdPlace 96 48 [held5] = some 48 := by decide +kernel
theorem wit_Pushes_add : (holding.chipSlot 0 0).hold[0]? = some held5 ∧ holding.chipsRun 0 = true ∧
    (holding.heldRead 0 0 held5).2 = some { zeros5 with hdr := held5.hdr, step := held5.step, mb := held5.mb } ∧
    holding.shardIx 0 0 (phTensor held5.hdr) = some 0 := by decide +kernel
theorem wit_Pushes_add_vec :
    ((((holding.heldRead 0 0 held5).1.updChipSlot 0 0 (fun c => { c with hold := c.hold.eraseIdx 0 })).events 0
      (sumEv ((pushDecode (phFmt held5.hdr) (phCount held5.hdr) (pushBytes zeros5)).map (·.2)))).getVec 0 0 (partAt desc5 0 1) 4).2 = some [0, 0, 0, 0] := by decide +kernel
theorem wit_Pushes_waits : ∃ h : Shard, h.accStep < (push5 1 0).step ∧ (push5 1 0).step = h.count + 1 := ⟨{ desc := desc5 }, by decide⟩
theorem wit_Pushes_late : ∃ h : Shard, (push5 0 0).step < h.accStep ∧ (push5 0 0).step = h.count := ⟨{ desc := desc5, accRead := true }, by decide⟩
theorem wit_Pushes_lateMb : ∃ h : Shard, (push5 0 0).step = h.accStep ∧ (push5 0 0).mb < h.mb := ⟨{ desc := desc5, mb := 1 }, by decide⟩
def bucket5 : BitVec 128 := BitVec.ofNat 128 (5 * 2 ^ 88 + 2)
/-- A message of bucket 0, step stp: kind 2 a BF16 contribution, 4 a BF16 result, 1 an E4M3 contribution that saturates. -/
def red5 (kind stp : Nat) : RedMsg :=
  ⟨BitVec.ofNat 256 (kind * 2 ^ 248 + stp * 2 ^ 144 + 5 * 2 ^ 120), [List.replicate (if kind % 2 = 0 then 2048 else 1024) 0], [7]⟩
/-- Replicas at positions 0 (this module where `pos` is 0) and 1 of one stage, replica 0 summing bucket 0. -/
def reducing (pos : Nat) (done : List Nat) : State :=
  { hoisted with ring := { pos := pos }, slots := { hoisted.slot 0 with
      chips := [(0, { shards := [{ desc := desc5 }] })],
      image := some { image0 with places := [0, BitVec.ofNat 64 (1 * 2 ^ 58 + 1 * 2 ^ 46)] }, replicas := 2,
      buckets := [{ desc := bucket5, summed := done, acc := if done = [] then [] else [1, 1] }] } :: List.replicate 15 {} }
theorem wit_Reduction_next : (reducing 0 []).chipsRun 0 = true ∧ (reducing 0 []).redCheck 0 0 (red5 2 0) false = some 0 ∧
    (reducing 0 []).redCheck 0 0 (red5 3 0) false = none ∧ redComplete ((reducing 0 []).slot 0).satLimit (red5 2 0) = true ∧
    (((reducing 0 []).slot 0).stagePositions.map (·.1)).find? (fun q => !(q ∈ ([] : List Nat))) = some 0 ∧
    (((reducing 0 []).slot 0).stagePositions.map (·.1)).find? (fun q => !(q ∈ ([] : List Nat) ++ [0])) = some 1 ∧
    (((reducing 0 [0]).slot 0).stagePositions.map (·.1)).find? (fun q => !(q ∈ [0] ++ [1])) = none ∧
    scalesAgree (red5 2 0) [] = true ∧ redComplete ((reducing 0 []).slot 0).satLimit (red5 1 0) = false ∧
    (reducing 0 []).redCheck 0 1 (red5 1 0) false = some 0 ∧ (rmStep (red5 2 0) : Int) = nextEx 1 (-1) ∧ inWindow 1 (-1) (rmStep (red5 2 2)) = false ∧ nextEx 4 (-1) = 3 := by
  decide +kernel
theorem wit_Reduction_result : (reducing 1 []).redCheck 0 0 (red5 4 0) true = some 0 ∧ (reducing 1 []).redCheck 0 1 (red5 4 0) true = none ∧
    scalesAgree (red5 4 0) [] = true ∧ (rmStep (red5 4 1) : Int) = nextEx 1 (nextEx 1 (-1)) ∧ scalesAgree (red5 3 0) [9] = false ∧
    (reducing 1 []).shardIx 0 0 5 = some 0 ∧ (reducing 1 []).shard? 0 0 0 = some { desc := desc5 } ∧ dSparse desc5 = false ∧ ((reducing 1 []).slot 0).thin < 2 := by decide +kernel
/-- Bookkeeping that the other clauses meet: an E4M3 message too late, one already there, one awaiting its resend. -/
theorem wit_Reduction_cases : ∃ b : Bucket, (rmStep (red5 1 0), 0) ∈ b.resent ∧ (rmStep (red5 1 0) : Int) ≤ b.lastSum ∧ rmResend (red5 1 0) = false ∧
    inWindow 1 (-1) (rmStep (red5 2 1)) = true ∧ rmStep (red5 2 1) ∈ b.withheld ∧
    b.held.any (fun h => decide (h.1 = 1) && decide (h.2.1 = 0)) = true ∧ b.pending.any (fun h => decide (h.1 = 1) && decide (h.2.1 = 1)) = true ∧
    redComplete 100 (red5 1 0) = true ∧ rmStep (red5 3 0) ∈ b.resentRes ∧ b.base < (0 : Int) ∧ scalesAgree (red5 1 0) [9] = false :=
  ⟨{ desc := bucket5, lastSum := 0, resent := [(0, 0)], withheld := [1], held := [(1, 0, red5 2 1)], pending := [(1, 1, red5 1 1)], resentRes := [0] }, by decide +kernel⟩
/-- Shard 5 with SKIP, between round 0 and the end of an update, on `chips` chips; each has sent `count` and `fin` to the first. -/
def updating5 (chips : Nat) (fin : Bool) (count : Nat) : State :=
  { owning 2 [] with slots := { (owning 2 []).slot 0 with chips := (List.range chips).map (fun c => (c, { header := BitVec.ofNat 256 (2 * 2 ^ 128), shards := [{ desc := desc5 ||| BitVec.ofNat 640 (2 ^ 353), mb := 2, updating := true, inbox := if c = 0 ∧ 1 < chips then [(0, ⟨0, count, fin, []⟩)] else [], sentEx := [(0, ⟨0, count, fin, []⟩)] }] })) } :: List.replicate 15 {} }
theorem wit_Owners_start : ∃ h, (owning 2 []).shard? 0 0 0 = some h ∧ h.mb = chMb ((owning 2 []).chipSlot 0 0).header ∧ h.updating = false ∧ h.torn = false ∧
    ((owning 2 []).slot 0).replicas < 2 ∧ ((owning 2 []).accFinite 0 0 h.desc).2 = some true ∧ h.exported ≠ some h.count ∧ 0 ∈ (owning 2 []).owners 0 (dTensor h.desc) :=
  ⟨{ desc := desc5, mb := 2 }, by decide +kernel⟩
theorem wit_Owners_start_lost : ({ owning 2 [] with carts := [(0, { used := [0], mem := Memory.writeWord [] 0 poison })] }.ssGet 0 0 0).2 = some poison := by decide +kernel
theorem wit_Owners_exchange : ∀ k, 1 ≤ k → k ≤ 2 → ∀ fin : Bool, ∀ c < 2, ∃ h g, (updating5 k fin c).shard? 0 0 0 = some h ∧
    (updating5 k fin c).owners 0 (dTensor h.desc) = List.range k ∧ (updating5 k fin c).shardIx 0 0 (dTensor h.desc) = some 0 ∧
    (updating5 k fin c).shardIx 0 (k - 1) (dTensor h.desc) = some 0 ∧ (updating5 k fin c).shard? 0 (k - 1) 0 = some g ∧ h.updating = true ∧
    g.sentEx.find? (fun e => decide (e.1 = 0)) = some (0, ⟨0, c, fin, []⟩) ∧ h.inbox.any (fun e => decide (e.1 = k - 1)) = false ∧
    ((List.range k).filterMap (fun o => (h.inbox ++ [(k - 1, (⟨0, c, fin, []⟩ : ExMsg))]).find? (fun e => decide (e.1 = o) && decide (e.2.round = h.round)))).length = k ∧
    dSkip h.desc = true ∧ dRule h.desc ≠ 3 ∧ dRule h.desc ≠ 4 ∧ ((updating5 k fin c).slot 0).thin < 2 ∧ (updating5 k fin c).chipsRun 0 = true := by
  intro k h1 h2 fin c hc
  refine ⟨((updating5 k fin c).shard? 0 0 0).getD default, ((updating5 k fin c).shard? 0 (k - 1) 0).getD default, ?_⟩
  have h : k = 1 ∨ k = 2 := by omega
  rcases h with rfl | rfl <;> revert fin c <;> decide +kernel
/-- Shard 5 at step `count`, its update done where wb. -/
def permitted5 (count : Nat) (wb : Bool) (dn : Option Nat) : State :=
  { owning 0 [] with dram := [(0, { keys := [(0, 1)] })], slots := { (owning 0 []).slot 0 with image := some { image0 with wsets := [BitVec.ofNat 128 (5 * 2 ^ 104 + 1 * 2 ^ 98 + 1 * 2 ^ 60)] }, chips := [(0, { shards := [{ desc := desc5, count := count, wbPending := wb, doneStep := dn, permits := if wb then [(0, 0)] else [] }] })] } :: List.replicate 15 {} }
theorem wit_WriteBack : (permitted5 1 true none).chipsRun 0 = true ∧ (permitted5 1 true none).shardIx 0 0 5 = some 0 ∧
    (((permitted5 1 true none).slot 0).wset? 5).isSome = true ∧ dAlt desc5 = 0 ∧ ((permitted5 1 true none).slot 0).compares 0 = false ∧
    ((permitted5 1 true none).getVec 0 0 (partAt desc5 0 0) (dLen desc5)).2 = some [0, 0, 0, 0] := by decide +kernel
theorem wit_WriteBack_done : (permitted5 1 false (some 1)).shard? 0 0 0 = some { desc := desc5, count := 1, doneStep := some 1 } ∧
    (wsChips (BitVec.ofNat 128 (5 * 2 ^ 104 + 1 * 2 ^ 98 + 1 * 2 ^ 60))).all (fun k => decide (k = 0)) = true ∧
    (wsChips (BitVec.ofNat 128 (5 * 2 ^ 104 + 3 * 2 ^ 98 + 1 * 2 ^ 60))).all (fun k => decide (k = 0)) = false := by decide +kernel
theorem wit_LoadsAndSchedules : (hoisted.slot 0).state ≠ .free ∧ Safety.Serves hoisted ∧ (hoisted.slot 0).scheds.length = 4 ∧
    schedOk ((hoisted.slot 0).scheds.getD 0 {}).staged = true ∧ schedOk { warm := 3 } = false ∧ ((owning 0 []).shard? 0 0 0).isSome = true ∧
    (hoisted.slot 0).shards.any (fun h => decide (dSched h.2.desc = 0) && decide (0 < h.2.begun)) = false := by decide +kernel
theorem wit_LoadsAndSchedules_begun : ∃ s : State, Safety.Serves s ∧
    (s.slot 0).shards.any (fun h => decide (dSched h.2.desc = 0) && decide (0 < h.2.begun)) = true :=
  ⟨{ hoisted with slots := { chips := [(0, { shards := [{ desc := desc5, begun := 1 }] })] } :: List.replicate 15 {} }, by decide +kernel⟩
/-- A CAPS packet with these TLV bytes. -/
def capsPk (bs : List Byte) : Packet := { hdr := BitVec.ofNat 256 (8 * 2 ^ 248 + 4 * 2 ^ 245 + 1 * 2 ^ 215), units := byteUnits bs }
/-- A module whose port k is p. -/
def linked (m : ModState) (k : Nat) (p : Port) : State := { mod := { state := m }, ring := { bypass := 1 }, ports := [(k, p)] }
theorem wit_LinksTrain_gone : ∃ s : State, (s.port 0).state = .retraining ∧ s.looping 0 = false ∧ s.ring.bypass = 2 ∧ (s.port 1).state = .down ∧
    s.mod.state = .hoisted := ⟨{ mod := { state := .hoisted }, ring := { bypass := 2 }, ports := [(0, { state := .retraining }), (1, { state := .down })] }, by decide⟩
theorem wit_LinksTrain : (linked .hoisted 2 {}).linksRun = true ∧ ((linked .hoisted 2 {}).port 2).light = false ∧
    ((linked .hoisted 2 { light := true, state := .up }).port 2).state = .up ∧ (linked .hoisted 2 { light := true }).looping 2 = false ∧
    ((linked .hoisted 2 { light := true, state := .training, tries := 3 }).port 2).tries = 3 ∧
    packetOk 2 (capsPk [1, 2, 3, 1, 0, 0]) = true ∧ (peerVersions (tlvs 2200 (pkBytes (capsPk [1, 2, 3, 1, 0, 0])))).find? (fun v => decide (v.1 = 3)) = some (3, 1) ∧
    packetOk 0 (capsPk [1, 2, 3, 1, 0, 0]) = true ∧ (peerVersions (tlvs 2200 (pkBytes (capsPk [1, 2, 2, 9, 0, 0])))).find? (fun v => decide (v.1 = 3)) = none ∧
    (linked .joining 0 {}).linksRun = true ∧ ((linked .hoisted 2 { light := true, state := .training, step := 4 }).port 2).step = 4 := by decide +kernel
theorem wit_LinksTrain_join : ∀ hint ∈ [4, 9], ∃ s : State, (decide (0 < 2) && decide (s.mod.state = .joining) && decide (s.ring.bypass = 1) && decide ((s.port (1 - 0)).state = .up)) = true ∧
    s.mod.causes = [] ∧ (s.port 0).light = true ∧ (s.port 0).state = .training ∧ (s.port 0).step = 4 ∧
    (match s.positionOf with | .ok q => decide (q = 4 ∧ hint = 4) | .error c => decide (c = 0x5105 ∧ hint = 9)) = true := by
  intro hint h
  refine ⟨{ mod := { state := .joining }, ring := { bypass := 1, hint := hint }, ports := [(0, { light := true, state := .training, step := 4, peerRing := 0, peerPos := 5, peerSerial := 1 }), (1, { state := .up, peerRing := 0, peerPos := 3, peerSerial := 2 })] }, ?_⟩
  simp only [List.mem_cons, List.not_mem_nil, or_false] at h
  rcases h with rfl | rfl <;> decide +kernel
theorem wit_LinkRetry : (linked .hoisted 3 { state := .up, expect := 5 }).linkUp? 3 = true ∧ (linked .hoisted 3 { state := .up }).looping 3 = false ∧
    scanUnits 0 (chunks 2 (List.replicate 32 (0 : Code160))) = (0, 0, 0) ∧ (scanUnits 0 (chunks 2 [0x0101, 0])).1 ≠ 0 ∧
    (({ unacked := [(4, []), (5, []), (6, [])] } : Port).acked (4 % 512)).unacked = [(5, []), (6, [])] ∧
    (({ free := [0, 9, 0, 0, 0, 0, 0, 0] } : Port).free.any (fun n => decide (n ≠ 0))) = true ∧
    packetOk 3 { hdr := BitVec.ofNat 256 (7 * 2 ^ 248 + 4 * 2 ^ 245 + 64 * 2 ^ 99), units := [] } = true := by decide +kernel
/-- One packet on VC 4 and one on VC 1, both with credit. -/
def sending (h : BitVec 256) : State :=
  { linked .hoisted 3 { state := .up, credits := List.replicate 8 64, sendQ := [{ hdr := h }] } with ring := { pos := 0 } }
theorem wit_LinkRetry_transmit : [9 * 2 ^ 248 + 4 * 2 ^ 245, 9 * 2 ^ 248 + 1 * 2 ^ 245, 7 * 2 ^ 248 + 4 * 2 ^ 245].all (fun (m : Nat) =>
    let h := BitVec.ofNat 256 m
    let p : Packet := { hdr := h }
    ((sending h).pick 3).any (fun r => decide (((sending h).readyOn 3 r.1) = some p) &&
      decide ((sending h).seal 3 p = some p) && decide (r.2.unacked.length + (chunks 16 (pkWire p)).length ≤ r.2.window))) = true := by decide +kernel
theorem wit_LinkRetry_none : (linked .hoisted 3 { state := .up }).pick 3 = none ∧
    ({ unacked := List.replicate 64 (0, []) } : Port).window < (List.replicate 64 (0, ([] : List (BitVec 256)))).length + (chunks 16 (pkWire { hdr := 0 })).length ∧
    (scanUnits 1 (chunks 2 [0x0101, 0])).2.1 ≠ 0 := by decide +kernel
/-- A module at position 0 of ring 0 with port E up and tenant 7 in slot 0. -/
def packeting : State := { hoisted with ring := { pos := 0 }, ports := [(0, { state := .up, features := 7, peerPos := 1 })] }
def hdrOf (type vc len seq rest : Nat) : BitVec 256 := BitVec.ofNat 256 (type * 2 ^ 248 + vc * 2 ^ 245 + len * 2 ^ 215 + seq * 2 ^ 191 + 7 * 2 ^ 167 + rest)
/-- Arrival as a check on a concrete state. -/
theorem arrives_iff (s : State) (k : Nat) (p : Packet) (t : Nat) (q : Packet) : Safety.Arrives s k p t q ↔
    (decide (k < 6) && s.linkUp? k && packetOk k p && decide (hTypeOf p = t) && s.mine k p &&
      decide (s.unseal k p = some q) &&
      decide (hSeq p = tget s.spaces (rxKey k p) 0 % 2 ^ 24)) = true := by
  simp only [Safety.Arrives, Bool.and_eq_true, decide_eq_true_eq]; tauto
def queued1 (credit : Nat) : State := { packeting with queues := [(1, { desc := BitVec.ofNat 192 (1 * 2 ^ 182 + 2 ^ 12 * 2 ^ 99), slot := 0, credit := credit })] }
theorem wit_Packets_queue : Safety.Arrives (queued1 64) 0 { hdr := hdrOf 1 0 1 0 (1 * 2 ^ 141), units := [9] } 1 { hdr := hdrOf 1 0 1 0 (1 * 2 ^ 141), units := [9] } ∧ ((queued1 64).queue? 1).isSome = true ∧
    (queued1 64).slotOfTenant 7 = some 0 ∧ (queued1 64).queue? 2 = none ∧ Safety.Arrives (queued1 31) 0 { hdr := hdrOf 1 0 1 0 (1 * 2 ^ 141), units := [9] } 1 { hdr := hdrOf 1 0 1 0 (1 * 2 ^ 141), units := [9] } := by
  simp only [arrives_iff]; decide +kernel
/-- Window 2 of tile T00, open to every module of the pennant's span, of 4 words from word 8. -/
def windowed (open_ : Bool) : State :=
  { packeting with
    slots := { state := .running, burgee := BitVec.ofNat 256 (2 ^ 160 + 2 ^ 64 + 7) } :: List.replicate 15 {}
    tiles := [(0, { windows := [(2, BitVec.ofNat 128 ((if open_ then 2 ^ 127 else 0) + 1 * 2 ^ 124 + 8 * 2 ^ 80 + 4 * 2 ^ 64))] })] }
theorem wit_Packets_window : Safety.Arrives (windowed true) 0 { hdr := hdrOf 2 0 1 0 (2 * 2 ^ 127), units := [9] } 2 { hdr := hdrOf 2 0 1 0 (2 * 2 ^ 127), units := [9] } ∧
    (windowed true).windowReason { hdr := hdrOf 2 0 1 0 (2 * 2 ^ 127), units := [9] } = 0 ∧ Safety.Arrives (windowed false) 0 { hdr := hdrOf 2 0 1 0 (2 * 2 ^ 127), units := [9] } 2 { hdr := hdrOf 2 0 1 0 (2 * 2 ^ 127), units := [9] } ∧
    (windowed false).windowReason { hdr := hdrOf 2 0 1 0 (2 * 2 ^ 127), units := [9] } ≠ 0 := by simp only [arrives_iff]; decide +kernel
/-- Stream 3 of T00 awaits the answer to its window write of SEQ 0 of 32 bytes. -/
def answering : State :=
  { packeting with
    passes := [{ id := 1, slot := 0, kind := .forward }]
    tiles := [(0, { handles := [(8, BitVec.ofNat 128 (2 ^ 127 + 2 ^ 126))], streams := [{ id := 3, desc := sdesc 0x34 8 0 0 64, pass := 1, slot := 0, answers := [(0, 0, 32)] }] })] }
theorem wit_Packets_answer : ∀ ty ∈ [3, 4], Safety.Arrives answering 0 { hdr := hdrOf ty 0 0 0 (if ty = 4 then 2 * 2 ^ 103 else 0), units := [] } ty { hdr := hdrOf ty 0 0 0 (if ty = 4 then 2 * 2 ^ 103 else 0), units := [] } ∧
    answering.answered { hdr := hdrOf ty 0 0 0 (if ty = 4 then 2 * 2 ^ 103 else 0), units := [] } =
      some (⟨0, 0, 0⟩, { id := 3, desc := sdesc 0x34 8 0 0 64, pass := 1, slot := 0, answers := [(0, 0, 32)] }, 32) ∧
    0 + 32 < sLen (sdesc 0x34 8 0 0 64) := by simp only [arrives_iff]; decide +kernel
/-- Slot 0 takes the feeder's clips of one frame of two units into queue 1. -/
def feeding (dec : Bool) (words : List Code160) (word : Nat) : State :=
  { hoisted with
    ports := [(5, { state := .up, features := 7 })]
    queues := [(1, { desc := BitVec.ofNat 192 (1 * 2 ^ 182 + (2 ^ 12 + 5 * 2 ^ 8 + 5 * 2 ^ 5) * 2 ^ 99), slot := 0, credit := 8192 })]
    slots := { hoisted.slot 0 with ingest := { declared := if dec then some (BitVec.ofNat 256 (1 * 2 ^ 224 + 64 * 2 ^ 192 + 1 * 2 ^ 176)) else none, words := words, word := word } } :: List.replicate 15 {} }
def declared64 : BitVec 256 := BitVec.ofNat 256 (1 * 2 ^ 224 + 64 * 2 ^ 192 + 1 * 2 ^ 176)
theorem wit_Feeder_declare : Safety.Arrives (feeding false [] 0) 5 { hdr := hdrOf 6 5 1 0 0, units := [declared64] } 6 { hdr := hdrOf 6 5 1 0 0, units := [declared64] } ∧ (feeding false [] 0).slotOfTenant 7 = some 0 ∧
    (feeding false [] 0).ingestQueue 0 = [1] ∧ frameBytes declared64 = 64 ∧ clipFrames declared64 = 1 ∧ cadence declared64 = 1 ∧ fld declared64 139 0 = 0 ∧
    frameBytes declared64 % (32 * 1) = 0 ∧ frameBytes 0 = 0 := by simp only [arrives_iff]; decide +kernel
theorem wit_Feeder_frame : Safety.Arrives (feeding true [] 0) 5 { hdr := hdrOf 5 5 1 0 0, units := [9] } 5 { hdr := hdrOf 5 5 1 0 0, units := [9] } ∧ 0 + 1 < frameBytes declared64 / 32 ∧
    Safety.Arrives (feeding true [9, 9] 1) 5 { hdr := hdrOf 5 5 1 0 (1 * 2 ^ 15), units := [9] } 5 { hdr := hdrOf 5 5 1 0 (1 * 2 ^ 15), units := [9] } ∧
    fWord { hdr := hdrOf 5 5 1 0 (1 * 2 ^ 15), units := [9] } = 1 ∧ fClip { hdr := hdrOf 5 5 1 0 (3 * 2 ^ 79), units := [9] } = 3 ∧ (fClip { hdr := hdrOf 5 5 1 0 ((2 ^ 32 - 1) * 2 ^ 79), units := [9] } + 2 ^ 32 - 0) % 2 ^ 32 ≥ 2 ^ 31 ∧
    1 + 1 = frameBytes declared64 / 32 ∧ 0 + 1 = clipFrames declared64 ∧ fClip { hdr := hdrOf 5 5 1 0 0, units := [9] } = 0 := by
  simp only [arrives_iff]; decide +kernel
theorem wit_RingMembership : packeting.linkUp? 0 = true ∧ ¬ ((⟨0, 3, 1, 1, []⟩ : Announce).ring = packeting.ring.ring ∧ (⟨0, 3, 1, 1, []⟩ : Announce).pos = packeting.ring.pos) ∧
    packeting.topo.find? (fun (t : Announce) => decide (t.ring = 0) && decide (t.pos = 3)) = none ∧ Safety.Serves packeting ∧ packeting.linksRun = true ∧
    packeting.test.mode = false ∧ packeting.mod.ringClash = false := by decide +kernel
theorem wit_RingMembership_joins : ∃ s : State, Safety.Serves s ∧ s.mod.state = .joining ∧ s.ring.bypass = 0 ∧ s.mod.ringClash = true :=
  ⟨{ mod := { state := .joining, ringClash := true } }, by decide⟩
/-- A paired mirrored pennant in slot 0, with these passes. -/
def paired (m : Mirror) (ps : List Pass) : State :=
  { hoisted with
    slots := { state := .running, burgee := BitVec.ofNat 256 (1 * 2 ^ 160 + 2 ^ 80 + 2 ^ 64 + 7), mirror := { m with state := .paired } } :: List.replicate 15 {}
    passes := ps }
/-- A forward pass's record that is all zero but for its kind. -/
def rec0 (lane : Nat) (rep : Bool) : BitVec 512 := BitVec.ofNat 512 (1 * 2 ^ 504 + 0xFFFF * 2 ^ 456 + (if rep then 2 ^ 501 else 0) + lane)
/-- An update record of shard 5 of chip 0 with lane 0. -/
def recU (lane : Nat) : BitVec 512 := BitVec.ofNat 512 (4 * 2 ^ 504 + lane)
theorem wit_Mirror_update : ∃ h : Shard, ∃ e : Digest, h.digest = some e ∧ (digestOfBits (recU 0)).kind = e.kind ∧ e.kind = .update ∧
    (digestOfBits (recU 0)).same e = true ∧ e.agrees (digestOfBits (recU 0)) = true ∧ e.agrees (digestOfBits (recU 1)) = false :=
  ⟨{ desc := 0, digest := some (digestOfBits (recU 0)) }, digestOfBits (recU 0), by decide +kernel⟩
def waiting (rep w : Bool) : Pass := { id := 4, slot := 0, kind := .forward, digest := some { kind := .forward, replay := rep }, waitTicks := w }
theorem wit_Mirror_records : bMirrored ((paired {} []).slot 0).burgee = true ∧ ((paired {} []).slot 0).state ≠ .free ∧
    ((paired { probing := true } []).slot 0).mirror.state = .paired ∧ (digestOfBits (rec0 0 false)).kind = .forward ∧
    [(false, false), (false, true), (true, true)].all (fun r => decide (
      (paired {} [waiting r.1 r.2]).passes.find? (fun y => decide (y.slot = 0) && (match y.digest with
        | some e => e.same (digestOfBits (rec0 0 r.1)) && (e.replay == (digestOfBits (rec0 0 r.1)).replay) | none => false)) = some (waiting r.1 r.2))) = true ∧
    ({ kind := .forward } : Digest).agrees (digestOfBits (rec0 0 false)) = true ∧ ({ kind := .forward } : Digest).agrees (digestOfBits (rec0 1 false)) = false ∧
    (paired {} [waiting false true]).pass? 4 = some (waiting false true) ∧ rhKind ⟨recHdr 0x13 0 0 0 7 0 0, [], true⟩ = 0x13 := by decide +kernel
/-- A mirrored pennant of positions 0 and 1 in slot 0 with this mirror object; no shard. -/
def recovering (m : Mirror) : State :=
  { hoisted with
    ring := { pos := 0 }
    slots := { state := .halted, burgee := BitVec.ofNat 256 (3 * 2 ^ 160 + 2 ^ 80 + 2 ^ 64 + 7), mirror := m } :: List.replicate 15 {} }
def rmsg (kind step : Nat) : RecMsg := ⟨recHdr kind 0 0 0 step 0 0, [], true⟩
theorem wit_Rollback : rhKind (rmsg 0x10 7) = 0x10 ∧ ((recovering {}).peersOf 0).any (fun k => decide (k.1 = (recovering {}).ring.ring)) = true ∧
    (1, 0) ∈ (recovering {}).peersOf 0 ∧
    ((recovering { pending := true, rb := .targets }).rbPeers 0).all (fun k => decide (k ∈ ([] : List (Nat × Nat)))) = false ∧
    ((recovering { pending := true, rb := .targets }).rbPeers 0).all (fun k => decide (k ∈ [(0, 1), (1, 1)] ++ [(1, 0)])) = true ∧
    (recovering {}).shardList 0 = [] ∧ (recovering {}).spareFree 0 = true ∧ Safety.Serves (recovering {}) ∧
    bit (codeData ((rmsg 0x17 7).words.getD 0 0)) 127 = false ∧ ((recovering {}).slot 0).mirror.state ≠ .stale ∧
    (((recovering {}).mod.located ++ [(recovering {}).mod.ref]).filter (fun r => decide ((recovering {}).mod.ref - (recovering {}).recov.strikeWindow * 90000000000 ≤ r))).length < (recovering {}).recov.strikeLimit := by decide +kernel
/-- Shard 5 of four elements on chip 0 awaits its piece from the partner. -/
def awaitingPiece : State :=
  { hoisted with
    chips := [(0, { keys := [(0, 1)] })]
    slots := { hoisted.slot 0 with mirror := { rb := .restoring, pending := true, need := [(0, 0, 0)] }, chips := [(0, { shards := [{ desc := desc5, count := 1 }] })] } :: List.replicate 15 {} }
def piece : RecMsg := ⟨recHdr 2 5 0 0 0 0 2, [encodeWord 1, encodeWord 2], true⟩
theorem wit_Rollback_piece : rhKind piece = 2 ∧ awaitingPiece.shardIx 0 (rhChip piece) (rhTensor piece) = some 0 ∧ rhPart piece ≠ 14 ∧
    awaitingPiece.shard? 0 0 0 = some { desc := desc5, count := 1 } ∧ piece.words.any unusable = false ∧
    (let r := (awaitingPiece.kept 0 0 0 0).2
     (retPieces desc5 0 r.1 r.2).findIdx (fun c => decide (c.1 / 32 * 32 = partAt desc5 0 (rhPart piece) + rhOff piece)) = 0 ∧
     0 < (retPieces desc5 0 r.1 r.2).length) ∧ (awaitingPiece.slot 0).thin = 0 := by decide +kernel
/-- Slot 0 rejoins. -/
def rejoining (m : Mirror) (sl : Slot) : State :=
  { hoisted with
    slots := { sl with burgee := BitVec.ofNat 256 (1 * 2 ^ 160 + 2 ^ 80 + 2 ^ 64 + 7), mirror := m } :: List.replicate 15 {} }
def rpart (kind tensor part step : Nat) : RecMsg := ⟨recHdr kind tensor 0 part step 0 2, [0, 0], true⟩
theorem wit_Rejoin : ((rejoining { state := .lone } { state := .running, image := some image0 }).slot 0).image ≠ none ∧
    bMirrored ((rejoining {} {}).slot 0).burgee = true ∧ Safety.Serves (rejoining {} {}) ∧ (rejoining {} {}).ring.ring < 2 ∧
    rhKey (rpart 3 5 14 9) = (5, 0, 14) ∧ rhStep (rpart 3 5 14 9) = 9 ∧ rhKind (rpart 0x15 5 14 9) = 0x15 ∧ rhKey (rpart 4 5 0 9) = (5, 0, 0) ∧
    [(5, 0, 14), (5, 0, 15)].erase (rhKey (rpart 0x15 5 14 9)) ≠ [] ∧
    ({ shards := [{ desc := desc5, count := 3 }] } : ChipSlot).shards.all (fun h => decide (h.count = 9)) = false ∧
    ((rejoining { rj := .boundary, rjSource := true, boundary := 9 } { state := .running, chips := [(0, { shards := [{ desc := desc5, count := 3 }] })] }).slot 0).atBoundary = false ∧
    (rejoining { rj := .running, boundary := 9 } { state := .running, chips := [(0, { shards := [{ desc := desc5 }] })] }).shardIx 0 0 5 = some 0 := by decide +kernel
theorem wit_Rejoin_import : ∃ im : Import, im.todo.any (fun t => decide (t.1 = rhKey (rpart 5 5 0 9))) = true ∧ rhStep (rpart 5 5 0 9) = im.step :=
  ⟨⟨1, 0, image0, 9, [((5, 0, 0), 2)], [], []⟩, by decide +kernel⟩
/-- A message whose lanes are those of the part's digest. -/
theorem wit_Rejoin_digest (a b : Data128) : ∃ q : RecMsg, lanesOf q = (a, b) ∧ rhKey q = (5, 0, 14) := by
  have h : ∀ d : Data128, codeData (encodeWord d) = d := fun d => by
    apply BitVec.eq_of_toNat_eq; simp [codeData, encodeWord]; omega
  exact ⟨⟨recHdr 0x15 5 0 14 9 0 8, [encodeWord a, encodeWord b], true⟩, by simp [lanesOf, h], by simp only [rhKey, rhTensor, rhChip, rhPart]; decide +kernel⟩
/-- Tile T03 of G0.0 awaits its group's spare, which is free. -/
def awaitingSpare : State :=
  { hoisted with
    spare := { hoisted.spare with waiting := [3] }
    doms := [(0, { state := .on })] }
theorem wit_Spares : tileNum 0 0 3 ∈ awaitingSpare.spare.waiting ∧ awaitingSpare.spareFree (groupNum 0 0) = true ∧ awaitingSpare.slots.length = 16 ∧
    awaitingSpare.holder (granuleOf 0 0) = some 0 ∧ (awaitingSpare.tile 3).copied.2 = false ∧ awaitingSpare.mod.state = .hoisted := by decide +kernel
theorem wit_Spares_lost : ∃ x : Tile, x.copied.2 = true :=
  ⟨{ mem := Memory.writeWord [] 0 0x30003#160, handles := [(8, BitVec.ofNat 128 (2 ^ 127 + 1 * 2 ^ 32))] }, by decide +kernel⟩
/-- Slot 1 is free; these fields are staged for it. -/
def staged1 (g : Staged) (st : SlotState) : State :=
  { hoisted with
    ring := { pos := 0 }
    slots := hoisted.slot 0 :: { staged := g, state := st, burgee := BitVec.ofNat 256 (2 ^ 160 + 2 ^ 65 + 9), image := some image0 } :: List.replicate 14 {} }
theorem wit_Slots : (staged1 { tenant := 9, granules := 2, span := 1 } .free).grantCode 1 = 0 ∧
    (staged1 { tenant := 9, granules := 2, span := 3 } .free).grantCode 1 = 0 ∧ (staged1 { tenant := 7, granules := 2, span := 1 } .free).grantCode 1 = 0x3102 ∧
    (staged1 {} .running).slots.length = 16 ∧ (staged1 {} .running).boxes.length = 17 ∧ Safety.Serves (staged1 {} .running) ∧
    ((staged1 {} .halted).slot 1).mirror.pending = false ∧ ((staged1 {} .halted).slot 1).granules.any (fun k => decide (k ∈ (staged1 {} .halted).spare.withdrawn)) = false ∧
    ((staged1 {} .restored).slot 1).image ≠ none ∧ (staged1 {} .restored).resumeCode 1 = 0 ∧ bRights ((staged1 {} .running).slot 1).burgee / 2 % 2 = 0 ∧
    (staged1 {} .granted).resumeCode 1 = 0x3107 := by decide +kernel
/-- Slot 0 of positions 0 and 1 agrees on keys with position 1. -/
def agreeing (e : Option (BitVec 384)) : State :=
  { hoisted with
    ring := { pos := 0 }
    slots := { state := .granting, burgee := BitVec.ofNat 256 (3 * 2 ^ 160 + 2 ^ 64 + 7), eph := e, offer := List.replicate 248 0 } :: List.replicate 15 {}
    ports := [(0, { state := .up, features := 7, peerPos := 1 })]
    topo := [] }
def offer1 (ok : Bool) (tenant : Nat) : KeyOffer := ⟨[0x20, 0, 1, 0] ++ bytesLE 3 tenant ++ List.replicate 241 0, false, 3, 0, ok, []⟩
theorem wit_Keys : (agreeing (some 5)).slotOfTenant (offerTenant (offer1 true 7)) = some 0 ∧
    (offerRing (offer1 true 7), offerPos (offer1 true 7)) ∈ (agreeing (some 5)).keyPeers 0 ∧ (offer1 true 7).bytes.length = 248 ∧
    (agreeing (some 5)).slotOfTenant (offerTenant (offer1 true 9)) = none ∧ (agreeing (some 5)).keyPeers 0 = [(0, 1)] ∧
    (agreeing (some 5)).route 4 ((agreeing (some 5)).encFor ((agreeing (some 5)).slot 0).tenant 4) false 0 1 false = some 0 ∧
    Safety.Serves (agreeing none) ∧ offerTenant (offer1 true 7) = ((agreeing (some 5)).slot 0).tenant := by decide +kernel
/-- An offer of position 1 for tenant 7 that verifies: the signature is (h, h) for h the hash of the signed octets, under the key
R − G for R the point with X coordinate h, so that the verification adds G and the key. -/
def body9 : List Byte := [0x20#8, 0, 1, 0] ++ bytesLE 3 7 ++ List.replicate 9 0 ++ bytesLE 32 1 ++ pointOctets (some ecG) ++ List.replicate 7 0
def sig9 : List Byte :=
  bytesBE 48 0x394870ec08d809e6137784f043bf48cc9c035d882e21740fb44ed7e91652069d1181e96118b51502bcf1d78aed830cc4 ++
  bytesBE 48 0x394870ec08d809e6137784f043bf48cc9c035d882e21740fb44ed7e91652069d1181e96118b51502bcf1d78aed830cc4
def pub9 : List Byte := pointOctets (some (0x84595c58e58f27654b855577fe50dcace0134eb80eaa6cff09730c296465ac2d5c671be5de2931f74149dd5b929656cb,
  0x76637110983805d9243709256909cdfff28e5973d56feae8178ccf92e77eb436ffcb74e310b77813410054715388d9d5))
def offer9 : KeyOffer := ⟨body9 ++ sig9, false, 3, 0, true, pub9⟩
theorem wit_Keys_verified : ecdsaVerify pub9 body9 sig9 = true := by decide +kernel
theorem wit_Keys_ok : offer9.bytes.take 152 = body9 ∧ offer9.bytes.drop 152 = sig9 ∧ offer9.bytes.length = 248 ∧ offer9.bytes.getD 0 0 = 0x20 ∧
    offerTenant offer9 = ((agreeing (some 5)).slot 0).tenant ∧ offer9.mirrored = bMirrored ((agreeing (some 5)).slot 0).burgee ∧
    offer9.span = bSpan ((agreeing (some 5)).slot 0).burgee ∧ offer9.vcs = bVcs ((agreeing (some 5)).slot 0).burgee ∧
    offerEph offer9 = pointOctets (some ecG) ∧ ecOn ecG = true := by decide +kernel
theorem wit_Meters : Safety.Serves hoisted ∧ hoisted.slots.length = 16 ∧ hoisted.fw.slots.length = 2 ∧ hoisted.fw.active < 2 ∧
    ({ hoisted with fw := { hoisted.fw with inactive := 2 } } : State).fw.inactive = 2 ∧ bRights ((staged1 {} .running).slot 1).burgee / 2 ^ 3 % 2 = 0 ∧
    bRights ((staged1 {} .running).slot 1).burgee / 2 ^ 2 % 2 = 0 ∧ (List.replicate 32 (0 : Byte)).length = 32 ∧ (List.replicate 256 (0 : Byte)).length = 256 ∧
    fwSec ⟨BitVec.ofNat 512 (65 * 2 ^ 64), [], [], []⟩ = 65 ∧ hoisted.fwOk ⟨0, [], [], []⟩ = false := by decide +kernel
theorem wit_Meters_running : ∃ s : State, s.fw.slots.getD s.fw.active none = some ⟨BitVec.ofNat 512 (3 * 2 ^ 64), [], [], []⟩ ∧ Safety.Serves s ∧ s.modAttest.nonce = some [] :=
  ⟨{ mod := { state := .hoisted }, fw := { slots := [some ⟨BitVec.ofNat 512 (3 * 2 ^ 64), [], [], []⟩, none] }, modAttest := { nonce := some [] } }, by decide +kernel⟩
def asking (op : BookOp) (ix sub : Nat) (data : List Byte) : Request := { op := op, index := ix, sub := sub, data := data }
def byTenant : Via := { tr := .vf 0, who := .tenant, slot := 0 }
theorem wit_Requests : (famOf 0x2000).isSome = true ∧ hoisted.accFor {} 0x2000 1 = .rw ∧ hoisted.accFor {} 0x3800 6 = .wo ∧
    hoisted.accFor {} 0x2001 1 = .ro ∧ hoisted.accFor {} 0x1234 1 = .none ∧ hoisted.accFor { who := .peer } 0x2000 1 = .none ∧
    hoisted.mayRead byTenant 0xA000 1 = false ∧ hoisted.accFor byTenant 0xA000 1 = .ro ∧ hoisted.mayRead {} 0x2000 1 = true ∧
    ({ hoisted with modAttest := { nonce := some [] } } : State).preparing 0x3830 2 = true ∧ hoisted.nextKey {} 0x2000 1 = some (0x2000, 2) ∧
    hoisted.nextKey {} 0xFFFF 0 = none ∧ hoisted.inRange 0x2000 1 2000 = true ∧ hoisted.inRange 0x2000 1 2451 = false ∧
    hoisted.inRange 0x5020 1 4096 = true ∧ hoisted.link.credits.length = 8 ∧ hoisted.link.weights.length = 8 ∧
    ((famOf 0x2000).bind (fun f => f.sub 1)).map (fun e => (codeDigit e.codes 0, e.maxLen, decide (e.ty ≠ tBlob))) = some (2, 2, true) := by decide +kernel
theorem wit_Segments : hoisted.accFor {} 0x1100 3 = .ro ∧ ((famOf 0x1100).bind (fun f => f.sub 3)).map (fun e => e.ty) = some tBlob ∧
    hoisted.blobs = [] ∧ dataLimit .pf = 32768 ∧
    (decide (64 ≤ (List.replicate 264 (0 : Byte)).length) && decide (264 + fld (BitVec.ofNat 512 (leNat ((List.replicate 264 (0 : Byte)).take 64))) 127 96 ≤ (List.replicate 264 (0 : Byte)).length)) = true ∧
    hoisted.fw.slots.length = 2 := by decide +kernel
theorem wit_Segments_transfer : ∃ (s : State) (b : BlobXfer), Safety.Serves s ∧ s.blobs = [b] ∧ b.via = {} ∧ b.bytes.length = 3 ∧ b.index = 0x3800 ∧ b.sub = 4 :=
  ⟨{ mod := { state := .hoisted }, blobs := [⟨0x3800, 4, {}, 3, [1, 2, 3]⟩] }, _, by decide, rfl, rfl, rfl, rfl, rfl⟩
/-- Pair 0 is enabled, with these commands, a completion that waits or none, and its ring full or not. -/
def paired0 (cs : List (BitVec 512)) (c : Option Completion) (full : Bool) : State :=
  { hoisted with qps := { enable := true, cmds := cs, comp := c, cqTail := if full then 15 else 0 } :: List.replicate 32 {} }
theorem wit_Mailboxes : boxOf .pf = some 0 ∧ boxOf (.vf 0) = some 1 ∧ hoisted.barOpen .pf = true ∧ hoisted.barOpen (.vf 0) = true ∧ hoisted.boxes.length = 17 ∧
    (hoisted.slot 1).state = .free ∧ hoisted.mod.limited = false ∧ hoisted.qps.length = 33 ∧ (hoisted.qp 3).enable = false ∧
    ({ reqHdr := List.replicate 32 0 } : Mailbox).reqHdr.length = 32 ∧ (hoisted.box 0).busy = false ∧
    hoisted.mod.state ≠ .dipping ∧ ({ mod := { state := .dipping } } : State).barOpen .pf = true ∧
    (((hoisted.answer .version).echo ((hoisted.box 0).request .pf {})).mod.state ≠ .dipping) ∧ (hoisted.box 0).version / 256 = 4 := by decide +kernel
theorem wit_Mailboxes_pairs : (paired0 [] none false).pairOpen (pairOf (.host 0)) = true ∧ ((paired0 [] none false).qp 0).enable = true ∧
    (paired0 [] none false).cmdCode 0 0 = 0x6100 ∧ (paired0 [] none false).cmdCode 0 (BitVec.ofNat 512 (1 * 2 ^ 504)) = 0 ∧
    (0 + 1) % ((paired0 [] none false).qp 0).cqSize ≠ 0 ∧ (0 + 2) % ((paired0 [] none false).qp 0).cqSize ≠ 0 ∧
    (15 + 1) % ((paired0 [] (some ⟨0, 0, 0, 1, true, 0, 0⟩) true).qp 0).cqSize ≠ 1 % 16 ∧
    (1 % 16 + 16 - 0) % 16 = 1 ∧ (paired0 [] none false).qps.length = 33 := by decide +kernel
/-- A header of a request of this principal with no data, and frames around it. -/
def reqBytes (op principal ix sub : Nat) : List Byte := bytesLE 32 (op * 2 ^ 248 + principal * 2 ^ 245 + ix * 2 ^ 208 + sub * 2 ^ 200)
def frame0 (principal : Nat) : List Byte := [0x53, 0x42, 0, 4, 0, 0, 0, 0] ++ reqBytes 1 principal 0x1000 2 ++ (if principal = 7 then [] else List.replicate 48 0)
theorem wit_Management : frameOk (frame0 7) = true ∧ frameOk (frame0 0) = true ∧ frameOk [] = false ∧ hoisted.mgmt.silent = false ∧
    (parseReq (((frame0 7).drop 8).take 32) [] {}).principal = 7 ∧ (parseReq (((frame0 7).drop 8).take 32) [] {}).op = .read ∧
    hoisted.accFor ⟨.mgmt, .anonymous, 0⟩ 0x1000 2 = .ro ∧ hoisted.mgmtWho 0 = some .host ∧
    (parseReq (((frame0 0).drop 8).take 32) [] {}).bootNonce = hoisted.mod.nonce ∧ tget? hoisted.mgmt.lastSeq 0 = none := by decide +kernel
/-- A frame of the host operator with its tag, under a chassis key of zeros. -/
def chassis0 : List Byte := List.replicate 48 0
def body0 : List Byte := [0x53, 0x42, 0, 4, 0, 0, 0, 0] ++ reqBytes 1 0 0x1000 2
theorem wit_Management_tag : frameOk (body0 ++ hmac384 (mgmtKey chassis0 0) body0) = true ∧ (body0 ++ hmac384 (mgmtKey chassis0 0) body0).length = 88 ∧
    hmac384 (mgmtKey chassis0 0) ((body0 ++ hmac384 (mgmtKey chassis0 0) body0).take 40) = (body0 ++ hmac384 (mgmtKey chassis0 0) body0).drop 40 := by decide +kernel
theorem wit_Management_tag_wrong : hmac384 (mgmtKey chassis0 0) body0 ≠ List.replicate 48 0 ∧ hoisted.mgmtWho 3 = none := by decide +kernel
/-- A request of this kind from position 1 for tenant 7, as a packet on VC 4. -/
def remotePk (kind version op principal ix sub status : Nat) : Packet :=
  { hdr := hdrOf 9 4 2 0 (2 ^ 243 + 2 ^ 227), units := [BitVec.ofNat 256 (kind + version * 2 ^ 16),
    BitVec.ofNat 256 (op * 2 ^ 248 + principal * 2 ^ 245 + (if kind = 2 then 2 ^ 240 else 0) + status * 2 ^ 224 + ix * 2 ^ 208 + sub * 2 ^ 200)] }
theorem wit_Remote : Safety.Arrives packeting 0 (remotePk 1 4 1 4 0x1000 2 0) 9 (remotePk 1 4 1 4 0x1000 2 0) ∧ hVc (remotePk 1 4 1 4 0x1000 2 0) = 4 ∧ remoteIs (remotePk 1 4 1 4 0x1000 2 0) 1 = true ∧
    packeting.route 4 (packeting.encFor 7 4) false 0 1 false = some 0 ∧ fld ((remotePk 1 4 1 4 0x1000 2 0).units.headD 0) 23 16 = 4 ∧
    (parseReq ((remoteBytes (remotePk 1 4 1 4 0x1000 2 0)).take 32) [] {}).principal = 4 ∧ ((famOf 0x1000).bind (fun f => f.sub 2)).map (fun e => e.remote) = some true ∧
    Safety.Arrives packeting 0 (remotePk 2 4 3 4 0x3810 1 7) 9 (remotePk 2 4 3 4 0x3810 1 7) ∧ remoteIs (remotePk 2 4 3 4 0x3810 1 7) 2 = true ∧
    (let w : BitVec 256 := BitVec.ofNat 256 (leNat ((remoteBytes (remotePk 2 4 3 4 0x3810 1 7)).take 32))
     fld w 223 208 = 0x3810 ∧ fld w 207 200 = 1 ∧ fld w 255 248 = 3 ∧ bit w 240 = true ∧ fld w 239 224 = 7) := by simp only [arrives_iff]; decide +kernel
/-- An image of one block, FIRST and LAST, without weights, with two micro-batches a step. -/
def chipImage0 : ChipImage := { (default : ChipImage) with header := BitVec.ofNat 256 (1 * 2 ^ 128) }
def image1 : Image :=
  { (default : Image) with
    major := 5
    blocks := [BitVec.ofNat 256 (2 ^ 237 + 2 ^ 236 + 1 * 2 ^ 197)]
    stash := BitVec.ofNat 192 (1 * 2 ^ 136 + 1 * 2 ^ 40)
    chips := List.replicate 4 chipImage0
    scheds := [{}, {}, {}, {}]
    lists := [{ offset := 0, parts := [] }]
    bytes := List.replicate 512 0 }
/-- Slot 0 with this command at the front of host pair 0. -/
def commanded (st : SlotState) (e : BitVec 512) : State :=
  { hoisted with
    ring := { pos := 0 }
    slots := { state := st, burgee := BitVec.ofNat 256 (2 ^ 160 + 2 ^ 96 + 2 ^ 64 + 7), image := some image1, ckptKey := some 1 } :: List.replicate 15 {}
    ports := [(5, { state := .up })]
    qps := { enable := true, cmds := [e] } :: List.replicate 32 {} }
def cmdOf (op len arg : Nat) : BitVec 512 := BitVec.ofNat 512 (op * 2 ^ 504 + len * 2 ^ 384 + arg * 2 ^ 320)
theorem wit_Images : (commanded .granted (cmdOf 1 512 newRun)).loadCode 0 (cmdOf 1 512 newRun) (some image1) = 0 ∧
    (commanded .running (cmdOf 1 512 newRun)).loadCode 0 (cmdOf 1 512 newRun) (some image1) = 0x3107 ∧
    (commanded .granted (cmdOf 1 512 newRun)).loadCode 0 (cmdOf 1 512 newRun) none = 0x6101 ∧
    (commanded .granted (cmdOf 1 512 newRun)).pairOpen 0 = true ∧ (commanded .granted (cmdOf 1 512 newRun)).cmdCode 0 (cmdOf 1 512 newRun) = 0 ∧
    (commanded .granted (cmdOf 1 512 newRun)).cmdRuns 0 = false ∧ imDescs image1 = [] ∧ image1.wsets = [] ∧ ceArg (cmdOf 1 512 newRun) = newRun ∧ imSets image1 = [] ∧
    (commanded .running (cmdOf 3 0 0)).storeUp 0 = true ∧ ((commanded .running (cmdOf 3 0 0)).slot 0).exportStep 0 = true ∧
    ((commanded .running (cmdOf 3 0 2)).slot 0).exportStep 2 = false ∧ ceOp (cmdOf 2 0 0) = 2 ∧ ceOp (cmdOf 3 0 0) = 3 := by decide +kernel
theorem wit_Images_new : ((commanded .granted (cmdOf 1 512 newRun)).slot 0).chips = [] := by decide +kernel
theorem wit_Images_shard : ∃ im : Image, imDescs im ≠ [] :=
  ⟨{ image1 with chips := [{ chipImage0 with descs := [desc5] }] }, by decide +kernel⟩
theorem wit_Images_export : ∃ (x : Slot) (w : BitVec 128), x.setReady (wsTensor w) 3 = false ∧ ∃ h ∈ x.shards, dTensor h.2.desc = wsTensor w :=
  ⟨{ chips := [(0, { shards := [{ desc := desc5, count := 2 }] })] }, BitVec.ofNat 128 (5 * 2 ^ 104), by decide +kernel, (0, { desc := desc5, count := 2 }), by simp [Slot.shards], by decide +kernel⟩
theorem wit_Dips : hoisted.slots.length = 16 ∧ hoisted.mod.state ≠ .dark ∧ hoisted.mod.state ≠ .dipping ∧ hoisted.partialDip = false ∧
    (hoisted.slot 0).state ≠ .free ∧ (hoisted.slot 0).state ≠ .granting ∧ hoisted.mod.boundaryScan = false ∧ hoisted.mod.limited = false ∧
    (∀ p < 16, ∀ h ∈ (hoisted.slot p).shards, h.2.updating = false) ∧ ({ hoisted with power := { switchOn := true } } : State).power.switchOn = true ∧
    ({ mod := { state := .struck } } : State).partialDip = true := by decide +kernel
theorem wit_Dips_shard : ∃ (s : State) (c : ChipSlot) (h : Shard), s.mod.state = .hoisted ∧ (s.slot 0).state = .running ∧ (0, c) ∈ (s.slot 0).chips ∧ c.shards[0]? = some h :=
  ⟨{ mod := { state := .hoisted }, slots := { state := .running, chips := [(0, { shards := [{ desc := desc5 }] })] } :: List.replicate 15 {} }, _, _, rfl, rfl, .head _, rfl⟩
/-- A module that could turn on, and one about to prove itself. -/
def dark : State := { power := { switchOn := true } }
def proveReady : State := { power := { switchOn := true, railsUp := true } }
def input0 : ProveIn := { straps := 3, ringStrap := 0, oscCounts := List.replicate 68 131072, fallUs := 17000 }
theorem wit_PowerOn : dark.canTurnOn = true ∧ dark.mod.state ≠ .dipping ∧ dark.fw.active < 2 ∧ proveReady.canTurnOn = false ∧ proveReady.canProve = true ∧
    dark.canProve = false ∧ (∀ k < 2, dark.fw.slots.getD k none = none) ∧ proveReady.mod.boundaryScan = false ∧ hoisted.mod.bscanLogged = false := by decide +kernel
theorem wit_PowerOn_late : ∃ s : State, s.canTurnOn = false ∧ s.mod.state = .hoisted ∧ s.mod.bscanLogged = true := ⟨{ mod := { state := .hoisted, bscanLogged := true } }, by decide⟩
theorem wit_Proving : proveReady.slots.length = 16 ∧ proveReady.mod.boardRev = 0x43 ∧ proveReady.mod.stepping = 0xB0 ∧
    (∀ n < 68, rateOk (input0.oscCounts.getD n 0) = true) ∧ proveReady.strikeLimit = false ∧ proveReady.log.recs = [] ∧ (∀ n < 68, (proveReady.dom n).state ≠ .retired) ∧ (∀ p < 16, (proveReady.slot p).state = .free) ∧
    input0.fails = [] ∧ 10000 ≤ input0.fallUs ∧ input0.fallUs ≤ 30000 ∧ input0.bankCharged = true ∧
    640 * 10 ^ 12 ≤ 2 * input0.fallUs * ((4 * input0.vc) ^ 2 - (120000 + 3 * input0.stepMv) ^ 2) := by decide +kernel
/-- A pennant as a dip saved it. -/
def save2 : SlotSave :=
  { p := 2, state := .running, burgee := BitVec.ofNat 256 (2 ^ 100 + 7), meters := {}, release := {}, step := 4, mbPerStep := 1, versions := [], scheds := [],
    seed := {}, measure := 0, persist := some (List.replicate 72 0), releasing := false, serials := [] }
def area2 : DipArea :=
  { cause := .brownout, ref := 0, epoch := 0, vbank := 50000, partialRec := false, marks := [true, true, true, true, true], log := {}, slots := [save2], shards := [], releases := [] }
theorem wit_Proving_saved : area2.partialRec = false ∧ area2.slots = [save2] ∧ save2.p < 16 ∧ save2.releasing = false ∧ save2.serials = [] ∧
    save2.persist = some (List.replicate 72 0) ∧ bRights save2.burgee / 16 % 2 = 1 := by decide +kernel
theorem wit_Cartridge : ∃ s : State, s.slots.length = 16 ∧ s.mod.state ≠ .dark ∧ (tget s.mod.ids 5 {}).status ≠ 0 ∧ 1 ∉ s.spare.chipsFailed ∧ (∀ p < 16, (s.slot p).state = .free) :=
  ⟨{ mod := { state := .hoisted, ids := [(5, { status := 1 })] } }, by decide +kernel⟩
theorem wit_ProvingTimeout : proveReady.canProve = true ∧ proveReady.slots.length = 16 ∧ hoisted.mod.state ≠ .proving ∧ hoisted.canProve = false := by decide
theorem wit_Power : hoisted.domOn 0 = true ∧ (hoisted.dom 0).critical = false ∧ (hoisted.dom 0).mv ≤ hoisted.power.targetMv ∧ domFloor 0 < (hoisted.dom 0).mv ∧
    (∀ n ∈ (neighbours 0).filter (fun n => hoisted.domOn n), (hoisted.dom n).mv ≤ (hoisted.dom 0).mv + 90) ∧ hoisted.power.capOn = false ∧ hoisted.domOn 65 = true ∧
    (hoisted.doms.filter (fun y => decide (y.1 < 64) && y.2.critical)).length < 3 ∧ hoisted.linksRun = true ∧ hoisted.slots.length = 16 ∧
    (∀ y ∈ hoisted.doms, y.1 = 0 → y.2.critical = false) ∧ hoisted.bank.outcome ≠ 4 ∧ (∀ p < 16, 13 < (hoisted.slot p).meters.v.length) ∧
    (∀ d < 64, hoisted.domOn d = true → (hoisted.dom d).mv = 720) := by decide +kernel
theorem wit_Power_rises : ∃ s : State, s.domOn 0 = true ∧ (s.dom 0).critical = false ∧ s.power.capOn = false ∧ s.regionBusy 0 = false ∧ (s.dom 0).mv + 10 ≤ s.ceiling 0 ∧
    9 ≤ (s.dom 0).since ∧ ∀ n ∈ (neighbours 0).filter (fun n => s.domOn n), (s.dom 0).mv + 10 ≤ (s.dom n).mv + 100 :=
  ⟨{ doms := [(0, { state := .on, mv := 700, since := 20 }), (1, { state := .on, mv := 720 })] }, by decide +kernel⟩
theorem wit_Power_critical : ∃ s : State, s.slots.length = 16 ∧ (s.dom 3).critical = true ∧ 3 ∉ s.spare.retired := ⟨{ doms := [(3, { state := .on, critical := true })] }, by decide +kernel⟩
theorem wit_Power_sequence : proveReady.mod.state = .dark ∧ proveReady.power.railsUp = true ∧ proveReady.mod.boundaryScan = false := by decide
/-- A Joining module without insert permit, outside and in test mode. -/
def joining : State := { mod := { state := .joining } }
def tested (k d : Nat) : State := { mod := { state := .joining }, test := { mode := true, loops := [(k, { depth := d })] } }
theorem wit_Test : Safety.Serves joining ∧ joining.mod.state = .joining ∧ joining.ring.permit = false ∧ (∀ x ∈ joining.slots, x.state = .free) ∧
    joining.test.mode = false ∧ Safety.Serves (tested 0 0) ∧ (tested 0 0).test.mode = true ∧ (tested 0 0).loopAllowed 0 0 = true ∧
    (tested 0 4).loopAllowed 0 4 = false ∧ hoisted.mod.state ≠ .joining ∧ hoisted.mod.state ≠ .proving ∧ hoisted.test.mode = false ∧
    Safety.Serves ({ mod := { state := .proving } } : State) := by decide +kernel
theorem wit_Test_service : ∃ s : State, Safety.Serves s ∧ s.inService = true ∧ s.loopAllowed 2 4 = true ∧ (tget s.test.loops 2 {}).depth = 4 :=
  ⟨{ mod := { state := .hoisted }, ports := [(2, { state := .up })], test := { loops := [(2, { depth := 4 })] } }, by decide +kernel⟩
theorem wit_Test_end : ∃ s : State, (tget s.test.loops 2 {}).run = true := ⟨{ test := { loops := [(2, { run := true })] } }, by decide⟩

end Sys2Proof.Tests
end

section
/-! PROOFS. Calibration of the replica oscillators (R61, R62): what the end of a window publishes and what starts one. -/

namespace Sys2Proof.Machine

/-- The model divides by 5, the manual by 81,920 with half of it added first, which rounds to nearest (R61). -/
theorem rateOf_eq_nearest (c : Nat) : rateOf c = (c * 65536 + 40960) / 81920 := by
  unfold rateOf
  omega

/-- The limits of R65 stated of the count: a window of 81,920 ns at 0.50 and at 3.00 ticks per ns. -/
theorem rateOk_iff (c : Nat) : rateOk c = true ↔ 81920 * 1 ≤ 2 * c ∧ c ≤ 81920 * 3 := by
  rw [rateOk, Bool.and_eq_true, decide_eq_true_iff, decide_eq_true_iff]
  omega

/-- A count in range is published with the setpoint and junction it was measured at, and an earlier failure stays marked. -/
theorem State.calibrate_of_rateOk (s : State) (n : Nat) {c : Nat} (h : rateOk c = true) :
    s.calibrate n c = s.updOsc n (fun o => { o with
      rate := rateOf c, count := min 0xFFFFFFFF (o.count + 1), mv := (s.dom n).mv, junction := (s.dom n).junction,
      inWindow := false, valid := true }) := by
  simp [State.calibrate, h]

theorem State.recal_of_on (s : State) {n : Nat} (hn : n < 68) (hon : s.domOn n = true) :
    s.recal n = s.updOsc n (fun o => { o with inWindow := true }) :=
  if_pos ⟨hn, hon⟩

theorem exec_calibrationWindowEnd_of_open (s : State) {n : Nat} (c : Nat) (hn : n < 68) (hon : s.domOn n = true)
    (hw : (s.osc n).inWindow = true) : exec (.calibrationWindowEnd n c) s = .next (s.calibrate n c) :=
  congrArg Host.Outcome.next (if_pos ⟨hn, hon, hw⟩)

theorem exec_recalibrationDue (s : State) (n : Nat) : exec (.recalibrationDue n) s = .next (s.recal n) := rfl

/-- Settles O7: the window is open and the count in range, so the command publishes the rounded rate of its oscillator
alone; a recalibration of a domain that is on only opens the window. -/
theorem calibrationPublishesRate : Obligations.CalibrationPublishesRate := by
  unfold Obligations.CalibrationPublishesRate
  refine ⟨fun s n c hn hon hw hlo hhi => ?_, fun s n hn hon => ?_⟩
  · have hok : rateOk c = true := (rateOk_iff c).mpr ⟨hlo, hhi⟩
    rw [exec_calibrationWindowEnd_of_open s c hn hon hw, State.calibrate_of_rateOk s n hok, rateOf_eq_nearest]
    rfl
  · rw [exec_recalibrationDue, State.recal_of_on s hn hon]
    rfl

end Sys2Proof.Machine
end

section
/-! PROOFS. The segments of a BLOB (R534 to R536): what a read of a segment returns, what a segment written to the firmware
image does at each offset, and what an idle transfer leaves. -/

namespace Sys2Proof.Machine

/-! ### The commands and the echo of a response -/

theorem exec_readSegment (s : State) (v : Via) (r : Request) :
    exec (.readSegment v r) s = .next ((s.bookReadSegment v r).echo r) := rfl
theorem exec_writeSegment (s : State) (v : Via) (r : Request) :
    exec (.writeSegment v r) s = .next ((s.bookSegment v r false).echo r) := rfl
theorem exec_writeFinal (s : State) (v : Via) (r : Request) :
    exec (.writeFinal v r) s = .next ((s.bookSegment v r true).echo r) := rfl
theorem exec_blobTransferTimeout (s : State) (ix sub : Nat) : exec (.blobTransferTimeout ix sub) s =
    .next (if s.blobs.any (fun b => decide (b.index = ix) && decide (b.sub = sub)) then s.dropXfer ix sub else s) := rfl

/-- The status of the response a state holds. -/
def State.respStatus (s : State) : Option Status := s.out.response.map (fun x => x.status)

@[simp] theorem State.echo_slots (s : State) (r : Request) : (s.echo r).slots = s.slots := rfl
@[simp] theorem State.echo_blobs (s : State) (r : Request) : (s.echo r).blobs = s.blobs := rfl
@[simp] theorem State.echo_fw (s : State) (r : Request) : (s.echo r).fw = s.fw := rfl
@[simp] theorem State.echo_log (s : State) (r : Request) : (s.echo r).log = s.log := rfl
@[simp] theorem State.answer_respStatus (s : State) (st : Status) (d : Nat) : (s.answer st d).respStatus = some st := rfl

/-- The echo fills in INDEX and SUB and leaves the status. -/
@[simp] theorem State.echo_respStatus (s : State) (r : Request) : (s.echo r).respStatus = s.respStatus := by
  simp only [State.respStatus, State.echo, Option.map_map]
  congr 1
  funext x
  simp only [Function.comp_apply]
  split <;> rfl

/-- A reply that names the subindex asked for is left as it is by the echo. -/
theorem State.echo_reply_response (s : State) (r : Request) (data : List Byte) :
    ((s.reply data r.index r.sub).echo r).out.response = some { status := .ok, data := data, index := r.index, sub := r.sub } := by
  simp [State.reply, State.echo]

/-- While the module serves, an operation is done on a subindex that exists and that the principal reaches. -/
theorem State.opOn_of_reached {s : State} {via : Via} {r : Request} {m : Family} {e : SubEnt} (g : Family → SubEnt → Acc → State)
    (hs : Safety.Serves s) (hm : famOf r.index = some m) (he : m.sub r.sub = some e) (ha : s.accFor via r.index r.sub ≠ .none) :
    s.opOn via r g = g m e (s.accFor via r.index r.sub) := by
  obtain ⟨hdark, hdip, -⟩ := hs
  unfold State.opOn
  split
  · next h => exact absurd h hdark
  · next h => exact absurd h hdip
  · simp [hm, he, ha]

/-- READ_SEGMENT of a BLOB that may be read replies with bytes of its value. -/
theorem State.bookReadSegment_of_ro {s : State} {via : Via} {r : Request} {m : Family} {e : SubEnt} (hs : Safety.Serves s)
    (hm : famOf r.index = some m) (he : m.sub r.sub = some e) (hty : e.ty = tBlob) (ha : s.accFor via r.index r.sub = .ro) :
    s.bookReadSegment via r =
      s.reply (((s.value r.index r.sub m e).drop r.offset).take (min (leNat (r.data.take 2)) (dataLimit via.tr))) r.index r.sub := by
  rw [State.bookReadSegment, State.opOn_of_reached _ hs hm he (by simp [ha])]
  simp [hty, ha]

/-! ### The firmware image's entry -/

/-- 0x3800:04 is a BLOB, write-only for the host operator (digit 0 of its codes). -/
theorem firmwareImage_entry :
    ∃ f e, famOf 0x3800 = some f ∧ f.sub 4 = some e ∧ e.ty = tBlob ∧ codeDigit e.codes 0 = 4 :=
  ⟨_, _, rfl, rfl, rfl, rfl⟩

theorem State.accFor_firmwareImage_of_host {s : State} {v : Via} (hl : s.mod.limited = false) (hv : v.who = .host) :
    s.accFor v 0x3800 4 = .wo := by
  obtain ⟨f, e, hf, he, -, hcode⟩ := firmwareImage_entry
  simp [State.accFor, State.reach, State.present, accOf, hl, hv, hf, he, hcode]

theorem dataLimit_le_blobMax (t : Transport) : dataLimit t ≤ blobMax := by
  cases t <;> simp [dataLimit, blobMax]

/-! ### One segment, by what is under way on its subindex (R534) -/

section
variable {s : State} {v : Via} {r : Request}

/-- The transfer under way on a subindex. -/
def State.transferOf (s : State) (ix sub : Nat) : Option BlobXfer :=
  s.blobs.find? (fun b => decide (b.index = ix) && decide (b.sub = sub))

/-- What is left where the transfer on a subindex is taken out. -/
def State.transfersBut (s : State) (ix sub : Nat) : List BlobXfer :=
  s.blobs.filter (fun b => !(decide (b.index = ix) && decide (b.sub = sub)))

/-- A segment that is taken: the bytes so far are kept for the next one, or complete the transfer. -/
def State.takeSegment (s : State) (via : Via) (r : Request) (bytes : List Byte) (last : Bool) : State :=
  let t := { s with blobs := s.transfersBut r.index r.sub }
  if last then t.fwSegmentDone bytes
  else ({ t with blobs := t.blobs ++ [(⟨r.index, r.sub, via, bytes.length, bytes⟩ : BlobXfer)], fw := { t.fw with inactive := 1 } }).answer .ok

theorem State.segment_starts (last : Bool) (hx : s.transferOf r.index r.sub = none) (h0 : r.offset = 0)
    (hlen : r.data.length ≤ blobMax) : s.segment v r last = s.takeSegment v r r.data last := by
  rw [State.transferOf] at hx
  simp [State.segment, State.takeSegment, State.transfersBut, hx, h0, Nat.not_lt.mpr hlen]

theorem State.segment_continues {b : BlobXfer} (last : Bool) (hx : s.transferOf r.index r.sub = some b) (hv : b.via = v)
    (h0 : r.offset ≠ 0) (hoff : r.offset = b.bytes.length) (hlen : (b.bytes ++ r.data).length ≤ blobMax) :
    s.segment v r last = s.takeSegment v r (b.bytes ++ r.data) last := by
  rw [State.transferOf] at hx
  rw [List.length_append, ← hoff] at hlen
  simp [State.segment, State.takeSegment, State.transfersBut, hx, hv, h0, ← hoff, Nat.not_lt.mpr hlen]

theorem State.segment_without_transfer (last : Bool) (hx : s.transferOf r.index r.sub = none) (h0 : r.offset ≠ 0) :
    s.segment v r last = s.answer .segment := by
  rw [State.transferOf] at hx
  simp [State.segment, hx, h0]

theorem State.segment_at_gap {b : BlobXfer} (last : Bool) (hx : s.transferOf r.index r.sub = some b) (hv : b.via = v)
    (h0 : r.offset ≠ 0) (hoff : r.offset ≠ b.bytes.length) : s.segment v r last = s.answer .segment := by
  rw [State.transferOf] at hx
  simp [State.segment, hx, hv, h0, hoff]

theorem State.segment_of_another {b : BlobXfer} (last : Bool) (hx : s.transferOf r.index r.sub = some b) (hv : b.via ≠ v) :
    s.segment v r last = s.answer (if r.offset = 0 then .busy else .segment) := by
  rw [State.transferOf] at hx
  simp [State.segment, hx, hv]

/-! ### The end of a transfer of the firmware image (R535, R518) -/

/-- Whether accumulated bytes reach the length that the image's header states. -/
def imageWhole (l : List Byte) : Bool :=
  decide (64 ≤ l.length) && decide (264 + fld (BitVec.ofNat 512 (leNat (l.take 64))) 127 96 ≤ l.length)

theorem State.fwSegmentDone_of_partial {bytes : List Byte} (h : imageWhole (s.fw.buf ++ bytes) = false) :
    s.fwSegmentDone bytes = ({ s with fw := { s.fw with buf := s.fw.buf ++ bytes } }).answer .ok := by
  rw [imageWhole, Bool.and_eq_false_iff, decide_eq_false_iff_not, decide_eq_false_iff_not, Nat.not_le, Nat.not_le] at h
  exact if_pos h

/-- The check of an image reads the revoked keys and the fused minimum alone. -/
theorem State.fwOk_congr {s t : State} (hr : s.fw.revoked = t.fw.revoked) (hm : s.fw.fusedMin = t.fw.fusedMin) (f : FwImage) :
    s.fwOk f = t.fwOk f := by
  simp only [State.fwOk, State.fwFormOk, hr, hm]

theorem State.refuse_module (s : State) (code : Nat) :
    s.refuse 16 code = (s.logErr { code := code, handling := .refused }).answer .valueRefused code := rfl

/-- The record of a refusal leaves the transfers and the firmware. -/
@[simp] theorem State.refuse_module_blobs (s : State) (code : Nat) : (s.refuse 16 code).blobs = s.blobs := by
  rw [State.refuse_module, State.answer_blobs, State.logErr_eq]
@[simp] theorem State.refuse_module_fw (s : State) (code : Nat) : (s.refuse 16 code).fw = s.fw := by
  rw [State.refuse_module, State.answer_fw, State.logErr_eq]
@[simp] theorem State.refuse_module_respStatus (s : State) (code : Nat) : (s.refuse 16 code).respStatus = some .valueRefused := rfl

theorem State.fwLoad_of_ok {f : FwImage} (h : s.fwOk f = true) : s.fwLoad f =
    ({ s with fw := { s.fw with slots := s.fw.slots.set (1 - s.fw.active) (some f), inactive := 2, activate := false } }, 0) :=
  if_pos h

theorem State.fwLoad_of_not_ok {f : FwImage} (h : s.fwOk f = false) : s.fwLoad f =
    ({ s with fw := { s.fw with slots := s.fw.slots.set (1 - s.fw.active) none, inactive := 3, activate := false } },
      if s.fwFormOk f then 0x3131 else 0x3130) :=
  if_neg (by simp [h])

/-- The state in which a complete image is verified: nothing is accumulated and no transfer of the firmware objects is left. -/
def State.imageTaken (s : State) : State :=
  { s with fw := { s.fw with buf := [] }, blobs := s.blobs.filter (fun b => decide (b.index ≠ 0x3800)) }

theorem State.fwWrite_eq (s : State) (f : FwImage) : s.fwWrite f =
    if (s.imageTaken.fwLoad f).2 = 0 then (s.imageTaken.fwLoad f).1.answer .ok
    else (s.imageTaken.fwLoad f).1.refuse 16 (s.imageTaken.fwLoad f).2 := rfl

theorem State.imageTaken_fwOk (s : State) (f : FwImage) : s.imageTaken.fwOk f = s.fwOk f := State.fwOk_congr rfl rfl f

/-- What a complete image leaves: it lies verified in the inactive slot, or that slot is erased and the write refused. -/
structure State.Verified (s : State) (f : FwImage) (u : State) : Prop where
  blobs : u.blobs = s.blobs.filter (fun b => decide (b.index ≠ 0x3800))
  fw : u.fw = { s.fw with buf := [], slots := s.fw.slots.set (1 - s.fw.active) (if s.fwOk f then some f else none),
                          inactive := if s.fwOk f then 2 else 3, activate := false }
  status : u.respStatus = some (if s.fwOk f then .ok else .valueRefused)

theorem State.fwWrite_verified (s : State) (f : FwImage) : s.Verified f (s.fwWrite f) := by
  rw [State.fwWrite_eq]
  cases h : s.fwOk f with
  | true =>
    rw [State.fwLoad_of_ok ((s.imageTaken_fwOk f).trans h), if_pos rfl]
    constructor <;> simp [h, State.imageTaken]
  | false =>
    have hcode : (if s.imageTaken.fwFormOk f then 0x3131 else 0x3130) ≠ 0 := by split <;> decide
    rw [State.fwLoad_of_not_ok ((s.imageTaken_fwOk f).trans h), if_neg hcode]
    constructor <;> simp [h, State.imageTaken]

theorem State.fwSegmentDone_verified {bytes : List Byte} (h : imageWhole (s.fw.buf ++ bytes) = true) :
    s.Verified (fwOf (s.fw.buf ++ bytes)) (s.fwSegmentDone bytes) := by
  rw [imageWhole, Bool.and_eq_true, decide_eq_true_iff, decide_eq_true_iff] at h
  have hwrite : s.fwSegmentDone bytes =
      ({ s with fw := { s.fw with buf := s.fw.buf ++ bytes } }).fwWrite (fwOf (s.fw.buf ++ bytes)) := if_neg (by omega)
  have hok : ({ s with fw := { s.fw with buf := s.fw.buf ++ bytes } } : State).fwOk (fwOf (s.fw.buf ++ bytes))
      = s.fwOk (fwOf (s.fw.buf ++ bytes)) := State.fwOk_congr rfl rfl _
  obtain ⟨hblobs, hfw, hstatus⟩ := State.fwWrite_verified
    { s with fw := { s.fw with buf := s.fw.buf ++ bytes } } (fwOf (s.fw.buf ++ bytes))
  rw [hok] at hfw hstatus
  rw [hwrite]
  exact ⟨hblobs, hfw, hstatus⟩

end

/-! ### WRITE_SEGMENT and WRITE_FINAL of the firmware image -/

/-- The host operator sends a segment of the firmware image while the module serves, and whatever transfer is under way is
one of that image. -/
structure ImageSegment (s : State) (v : Via) (r : Request) : Prop where
  host : v.who = .host
  serves : Safety.Serves s
  index : r.index = 0x3800
  sub : r.sub = 4
  fits : r.data.length ≤ dataLimit v.tr
  transfers : ∀ b ∈ s.blobs, b.index = 0x3800 ∧ b.sub = 4

namespace ImageSegment
variable {s : State} {v : Via} {r : Request}

/-- It reaches the transfer: 0x3800:04 is a BLOB that the host operator may write. -/
theorem bookSegment (h : ImageSegment s v r) (last : Bool) : s.bookSegment v r last = s.segment v r last := by
  obtain ⟨f, e, hf, he, hty, -⟩ := firmwareImage_entry
  have ha : s.accFor v r.index r.sub = .wo := by
    rw [h.index, h.sub]
    exact State.accFor_firmwareImage_of_host h.serves.2.2 h.host
  rw [State.bookSegment, State.opOn_of_reached _ h.serves (h.index ▸ hf) (h.sub ▸ he) (by simp [ha])]
  simp [hty, ha, Nat.not_lt.mpr h.fits]

theorem exec_writeSegment (h : ImageSegment s v r) : exec (.writeSegment v r) s = .next ((s.segment v r false).echo r) := by
  rw [Machine.exec_writeSegment, h.bookSegment]

theorem exec_writeFinal (h : ImageSegment s v r) : exec (.writeFinal v r) s = .next ((s.segment v r true).echo r) := by
  rw [Machine.exec_writeFinal, h.bookSegment]

theorem transferOf_none (hb : s.blobs = []) : s.transferOf r.index r.sub = none := by
  rw [State.transferOf, hb, List.find?_nil]

theorem transferOf_some (h : ImageSegment s v r) {b : BlobXfer} (hb : s.blobs = [b]) : s.transferOf r.index r.sub = some b := by
  obtain ⟨hix, hsub⟩ := h.transfers b (by simp [hb])
  simp [State.transferOf, hb, hix, hsub, h.index, h.sub]

theorem transfersBut_eq_nil (h : ImageSegment s v r) : s.transfersBut r.index r.sub = [] := by
  simpa [State.transfersBut, List.filter_eq_nil_iff, h.index, h.sub] using h.transfers

/-- A segment that is not the last is kept with the bytes before it, and the inactive slot shows an image that loads. -/
theorem takeSegment_open (h : ImageSegment s v r) (bytes : List Byte) : s.takeSegment v r bytes false =
    ({ s with blobs := [⟨0x3800, 4, v, bytes.length, bytes⟩], fw := { s.fw with inactive := 1 } }).answer .ok := by
  rw [State.takeSegment, h.transfersBut_eq_nil, h.index, h.sub]
  rfl

theorem takeSegment_last (h : ImageSegment s v r) (bytes : List Byte) :
    s.takeSegment v r bytes true = ({ s with blobs := [] }).fwSegmentDone bytes := by
  simp [State.takeSegment, h.transfersBut_eq_nil]

/-- The last segment is taken after the bytes `old`, and no image is complete: what has been brought accumulates. -/
theorem final_partial (h : ImageSegment s v r) {old : List Byte}
    (htake : s.segment v r true = s.takeSegment v r (old ++ r.data) true) (hpart : imageWhole (s.fw.buf ++ old ++ r.data) = false) :
    ∃ u, exec (.writeFinal v r) s = .next u ∧ u.respStatus = some .ok ∧ u.blobs = [] ∧ u.fw.buf = s.fw.buf ++ old ++ r.data ∧
      u.fw.slots = s.fw.slots := by
  rw [List.append_assoc] at hpart ⊢
  refine ⟨_, h.exec_writeFinal, ?_⟩
  rw [htake, h.takeSegment_last, State.fwSegmentDone_of_partial (s := { s with blobs := [] }) hpart]
  simp

/-- The last segment is taken after the bytes `old`, and an image is complete: it is verified. -/
theorem final_whole (h : ImageSegment s v r) {old : List Byte}
    (htake : s.segment v r true = s.takeSegment v r (old ++ r.data) true) (hwhole : imageWhole (s.fw.buf ++ old ++ r.data) = true)
    (hslots : s.fw.slots.length = 2) (hactive : s.fw.active < 2) :
    ∃ u, exec (.writeFinal v r) s = .next u ∧ u.blobs = [] ∧ u.fw.buf = [] ∧
      (s.fwOk (fwOf (s.fw.buf ++ old ++ r.data)) = true → u.respStatus = some .ok ∧ u.fw.inactive = 2 ∧
        u.fw.slots.getD (1 - s.fw.active) none = some (fwOf (s.fw.buf ++ old ++ r.data))) ∧
      (s.fwOk (fwOf (s.fw.buf ++ old ++ r.data)) = false → u.respStatus = some .valueRefused ∧ u.fw.inactive = 3 ∧
        u.fw.slots.getD (1 - s.fw.active) none = none) := by
  rw [List.append_assoc] at hwhole ⊢
  refine ⟨_, h.exec_writeFinal, ?_⟩
  obtain ⟨hblobs, hfw, hstatus⟩ := State.fwSegmentDone_verified (s := { s with blobs := [] }) hwhole
  have hok : ({ s with blobs := [] } : State).fwOk (fwOf (s.fw.buf ++ (old ++ r.data)))
      = s.fwOk (fwOf (s.fw.buf ++ (old ++ r.data))) := State.fwOk_congr rfl rfl _
  rw [hok] at hfw hstatus
  rw [htake, h.takeSegment_last, State.echo_blobs, State.echo_fw, State.echo_respStatus, hblobs, hfw, hstatus]
  have hk : 1 - s.fw.active < s.fw.slots.length := by omega
  refine ⟨rfl, rfl, fun hyes => ?_, fun hno => ?_⟩
  · simp [hyes, hk]
  · simp [hno, hk]

/-- A segment that is not the last one, taken with `bytes` in all. -/
theorem segment_taken (h : ImageSegment s v r) {bytes : List Byte} (htake : s.segment v r false = s.takeSegment v r bytes false) :
    ∃ u, exec (.writeSegment v r) s = .next u ∧ u.respStatus = some .ok ∧ u.blobs = [⟨0x3800, 4, v, bytes.length, bytes⟩] ∧
      u.fw = { s.fw with inactive := 1 } ∧ u.slots = s.slots := by
  refine ⟨_, h.exec_writeSegment, ?_⟩
  rw [htake, h.takeSegment_open]
  simp

/-- A segment that only gets an answer changes neither the transfers nor the firmware. -/
theorem segment_answered (h : ImageSegment s v r) {st : Status} (hans : s.segment v r false = s.answer st) :
    ∃ u, exec (.writeSegment v r) s = .next u ∧ u.respStatus = some st ∧ u.blobs = s.blobs ∧ u.fw = s.fw := by
  refine ⟨_, h.exec_writeSegment, ?_⟩
  rw [hans]
  simp

end ImageSegment

/-! ### The obligation -/

/-- Settles O52: a read replies from the value; a written segment goes by its offset and by whose transfer is under way, the
last one by whether an image is complete; a timeout drops the transfer that is there. -/
theorem segmentsOfBlobs : Obligations.SegmentsOfBlobs := by
  unfold Obligations.SegmentsOfBlobs
  refine ⟨fun s v r f e hs hf he hty ha => ?read, fun s v r hv hs hix hsub hfits _ hb => ?write, fun s ix sub hnone => ?noTransfer,
    fun s ix sub hsome => ?dropped⟩
  case read =>
    refine ⟨_, exec_readSegment s v r, ?_⟩
    rw [State.bookReadSegment_of_ro hs hf he hty ha]
    exact ⟨s.echo_reply_response r _, rfl, rfl, rfl, rfl⟩
  case write =>
    have h : ImageSegment s v r := ⟨hv, hs, hix, hsub, hfits, fun b hmem => let ⟨hbix, hbsub, _⟩ := hb b hmem; ⟨hbix, hbsub⟩⟩
    intro stat all whole fin
    refine ⟨fun hnil h0 => ?starts, fun hnil h0 => ?stray, fun b hone hvia h0 => ⟨fun hoff => ?continues, fun hoff => ?gap⟩,
      fun b hone hvia => ?another⟩
    case starts =>
      have htake := fun last => State.segment_starts (s := s) (v := v) last (ImageSegment.transferOf_none hnil) h0
        (hfits.trans (dataLimit_le_blobMax v.tr))
      obtain ⟨u, hexec, hstatus, hblobs, hfw, hslots⟩ := h.segment_taken (htake false)
      exact ⟨⟨u, hexec, hstatus, hblobs, hfw, hslots⟩, h.final_partial (old := []) (htake true), h.final_whole (old := []) (htake true)⟩
    case stray =>
      rw [← hnil]
      exact h.segment_answered (State.segment_without_transfer false (ImageSegment.transferOf_none hnil) h0)
    case continues =>
      have hlen : (b.bytes ++ r.data).length ≤ blobMax := by
        obtain ⟨-, -, hle⟩ := hb b (by simp [hone])
        rwa [List.length_append]
      have htake := fun last => State.segment_continues last (h.transferOf_some hone) hvia h0 hoff hlen
      obtain ⟨u, hexec, hstatus, hblobs, hfw, -⟩ := h.segment_taken (htake false)
      exact ⟨⟨u, hexec, hstatus, hfw, hblobs⟩, h.final_partial (htake true), h.final_whole (htake true)⟩
    case gap => exact h.segment_answered (State.segment_at_gap false (h.transferOf_some hone) hvia h0 hoff)
    case another => exact h.segment_answered (State.segment_of_another false (h.transferOf_some hone) hvia)
  case noTransfer =>
    rw [exec_blobTransferTimeout, if_neg]
    simpa using hnone
  case dropped =>
    refine ⟨s.dropXfer ix sub, ?_, rfl, rfl, rfl, rfl, rfl⟩
    rw [exec_blobTransferTimeout, if_pos]
    simpa using hsome

end Sys2Proof.Machine
end

section
/-! PROOFS. Records and the operations that log them (R446, R475 to R477, R480): what a record, a halt, a Strike, a Half-mast
cause and the retirement of a tile group leave. -/

namespace Sys2Proof.Machine

/-! ### Tables, sorted lists and the log -/

theorem tget_tmap {α : Type} (f : Nat → α → α) (t : Tbl α) (k : Nat) {d : α} (h : f k d = d) :
    tget (tmap f t) k d = f k (tget t k d) := by
  induction t with
  | nil => exact h.symm
  | cons x r ih =>
    by_cases hx : x.1 = k
    · simp [tmap, tget, hx]
    · simpa [tmap, tget, hx] using ih

/-- A new or replaced entry adds at most one to the entries that meet a condition, and none where it does not meet it. -/
theorem length_filter_tput_le {α : Type} (p : Nat × α → Bool) (t : Tbl α) (k : Nat) (v : α) :
    ((tput t k v).filter p).length ≤ (t.filter p).length + (if p (k, v) then 1 else 0) := by
  induction t with
  | nil => by_cases hv : p (k, v) <;> simp [tput, hv]
  | cons x r ih =>
    obtain ⟨j, w⟩ := x
    rw [tput]
    split
    · by_cases hv : p (k, v) <;> simp [hv]
    · split
      · by_cases hv : p (k, v) <;> by_cases hw : p (j, w) <;> simp [hv, hw]
      · by_cases hw : p (j, w)
        · simp only [List.filter_cons, hw, if_true, List.length_cons]; omega
        · simpa [List.filter_cons, hw] using ih

theorem mem_sins (l : List Nat) (k : Nat) : k ∈ sins l k := by
  induction l with
  | nil => simp [sins]
  | cons j r ih =>
    rw [sins]
    split
    · simp
    · split
      · simp [*]
      · simp [ih]

theorem length_sins_le (l : List Nat) (k : Nat) : (sins l k).length ≤ l.length + 1 := by
  induction l with
  | nil => simp [sins]
  | cons j r ih =>
    rw [sins]
    split
    · simp
    · split
      · simp
      · simpa using ih

/-- Every record of the first log stands in the second, at most `n` places further down, as far as the log reaches (R480). -/
def Log.KeptIn (n : Nat) (l l' : Log) : Prop :=
  ∀ i r, i + n < 1024 → l.recs[i]? = some r → ∃ j ≤ i + n, l'.recs[j]? = some r

theorem Log.KeptIn.refl (l : Log) : l.KeptIn 0 l := fun i _ _ h => ⟨i, by omega, h⟩
theorem Log.KeptIn.trans {m n : Nat} {a b c : Log} (h : a.KeptIn m b) (k : b.KeptIn n c) : a.KeptIn (m + n) c := by
  intro i r hi hr
  obtain ⟨j, hj, hr⟩ := h i r (by omega) hr
  obtain ⟨l, hl, hr⟩ := k j r (by omega) hr
  exact ⟨l, by omega, hr⟩
theorem Log.KeptIn.mono {m n : Nat} {a b : Log} (h : a.KeptIn m b) (hmn : m ≤ n) : a.KeptIn n b := by
  intro i r hi hr
  obtain ⟨j, hj, hr⟩ := h i r (by omega) hr
  exact ⟨j, by omega, hr⟩

/-- The newest record is still in the log after fewer than 1,024 more. -/
theorem Log.KeptIn.mem_of_head {n : Nat} {l l' : Log} {r : LogRec} (h : l.KeptIn n l') (hn : n < 1024) (hr : l.recs.head? = some r) :
    r ∈ l'.recs := by
  rw [List.head?_eq_getElem?] at hr
  obtain ⟨j, -, hj⟩ := h 0 r (by omega) hr
  exact List.mem_of_getElem? hj

/-! ### What a record and a halt leave -/

/-- All of a state but what a record, its notification and the halt of a pennant change. -/
def State.sansRecords (s : State) : State :=
  { s with slots := [], log := {}, qps := [], out := {}, mod := { s.mod with cleanSince := false } }

/-- From `s` to `u` at most `n` records were logged, slots and queue pairs may have changed with them, and nothing else did. -/
structure State.Records (n : Nat) (s u : State) : Prop where
  log : s.log.KeptIn n u.log
  rest : u.sansRecords = s.sansRecords

theorem State.Records.refl (s : State) : s.Records 0 s := ⟨.refl _, rfl⟩
theorem State.Records.trans {m n : Nat} {s t u : State} (h : s.Records m t) (k : t.Records n u) : s.Records (m + n) u :=
  ⟨h.log.trans k.log, k.rest.trans h.rest⟩
theorem State.Records.mono {m n : Nat} {s u : State} (h : s.Records m u) (hmn : m ≤ n) : s.Records n u := ⟨h.log.mono hmn, h.rest⟩
theorem State.Records.ite {n : Nat} {s t u : State} (c : Prop) [Decidable c] (h : s.Records n t) (k : s.Records n u) :
    s.Records n (if c then t else u) := by
  split
  · exact h
  · exact k
theorem State.Records.foldl {α : Type} {n : Nat} (f : State → α → State) (h : ∀ (s : State) (a : α), s.Records n (f s a)) (l : List α) (s : State) :
    s.Records (l.length * n) (l.foldl f s) := by
  induction l generalizing s with
  | nil => exact (State.Records.refl s).mono (by simp)
  | cons a l ih => exact ((h s a).trans (ih _)).mono (by simp [Nat.succ_mul, Nat.add_comm])

section
variable {n : Nat} {s u : State}
theorem State.Records.spare (h : s.Records n u) : u.spare = s.spare :=
  show u.sansRecords.spare = s.sansRecords.spare by rw [h.rest]
theorem State.Records.doms (h : s.Records n u) : u.doms = s.doms :=
  show u.sansRecords.doms = s.sansRecords.doms by rw [h.rest]
theorem State.Records.modState (h : s.Records n u) : u.mod.state = s.mod.state :=
  show u.sansRecords.mod.state = s.sansRecords.mod.state by rw [h.rest]
end

theorem State.logErr_recs (s : State) (r : ErrRec) : (s.logErr r).log.recs = (⟨s.log.next, s.mod.ref, r⟩ :: s.log.recs).take 1024 := by
  have hpost : ∀ (t : State) (i : Nat) (c : Completion), (t.post i c).log = t.log := fun t i c => by rw [State.post_eq]
  unfold State.logErr
  dsimp only
  split
  · rfl
  · split <;> simp [State.postSlot, hpost]

theorem State.logErr_records (s : State) (r : ErrRec) : s.Records 1 (s.logErr r) := by
  refine ⟨fun i x hi hx => ⟨i + 1, le_rfl, ?_⟩, by rw [State.logErr_eq]; rfl⟩
  rw [State.logErr_recs, List.getElem?_take_of_lt (by omega), List.getElem?_cons_succ, hx]

/-- The newest record of the answer, in the form the statements ask for. -/
theorem State.logErr_newest (s : State) (r : ErrRec) : Safety.newest (s.logErr r) = some (r.code, r.handling, r.pennant) := by
  rw [Safety.newest, State.logErr_head]
  rfl

@[simp] theorem State.logErr_slots (s : State) (r : ErrRec) : (s.logErr r).slots = s.slots := by rw [State.logErr_eq]
@[simp] theorem State.logErr_doms (s : State) (r : ErrRec) : (s.logErr r).doms = s.doms := (s.logErr_records r).doms
@[simp] theorem State.logErr_power (s : State) (r : ErrRec) : (s.logErr r).power = s.power := by rw [State.logErr_eq]
@[simp] theorem State.logErr_bank (s : State) (r : ErrRec) : (s.logErr r).bank = s.bank := by rw [State.logErr_eq]
@[simp] theorem State.logErr_spare (s : State) (r : ErrRec) : (s.logErr r).spare = s.spare := (s.logErr_records r).spare
@[simp] theorem State.logErr_modState (s : State) (r : ErrRec) : (s.logErr r).mod.state = s.mod.state := (s.logErr_records r).modState
@[simp] theorem State.logErr_modRef (s : State) (r : ErrRec) : (s.logErr r).mod.ref = s.mod.ref := by rw [State.logErr_eq]
@[simp] theorem State.logErr_causes (s : State) (r : ErrRec) : (s.logErr r).mod.causes = s.mod.causes := by rw [State.logErr_eq]

theorem State.updSlot_records (s : State) (p : Nat) (f : Slot → Slot) : s.Records 0 (s.updSlot p f) := ⟨.refl _, rfl⟩
theorem State.postSlot_records (s : State) (p : Nat) (c : Completion) : s.Records 0 (s.postSlot p c) := by
  rw [State.postSlot_eq]
  exact ⟨.refl _, rfl⟩
theorem State.slotTo_records (s : State) (p : Nat) (x : SlotState) : s.Records 0 (s.slotTo p x) := by
  unfold State.slotTo
  split
  · exact .refl s
  · exact (s.updSlot_records p _).trans (State.postSlot_records _ p _)
theorem State.rejoinFail_records (s : State) (p : Nat) : s.Records 1 (s.rejoinFail p) := by
  unfold State.rejoinFail
  dsimp only
  split
  · exact (State.Records.refl s).mono (by omega)
  · exact (s.logErr_records _).trans (State.updSlot_records _ p _)
/-- A halt logs at most the record of the rejoin that it ends. -/
theorem State.haltSlot_records (s : State) (p : Nat) : s.Records 1 (s.haltSlot p) := by
  have h := (s.rejoinFail_records p).trans (State.updSlot_records _ p (fun x => { x with seq := { x.seq with stopped := true } }))
  unfold State.haltSlot
  dsimp only
  split
  · exact h.trans (State.slotTo_records _ p _)
  · exact h
theorem State.failover_records (s : State) (p : Nat) : s.Records 1 (s.failover p) := by
  unfold State.failover
  split
  · exact (s.haltSlot_records p).trans (State.updSlot_records _ p _)
  · exact (s.haltSlot_records p).trans (State.updSlot_records _ p _)

/-! ### Strike, Half-mast and the retirement of a tile group -/

theorem State.linksRun_iff (s : State) : s.linksRun = true ↔ s.mod.state = .joining ∨ s.mod.state = .hoisted ∨ s.mod.state = .halfMast := by
  simp [State.linksRun, or_assoc]

/-- A Strike from a state that can strike (R477): Struck, its domains as `powerDown` leaves them, the spare map as it was, and at
most a record for each slot and 0x8341 above those that stood in the log. -/
structure State.StruckFrom (s u : State) : Prop where
  state : u.mod.state = .struck
  doms : u.doms = tmap powerDown s.doms
  spare : u.spare = s.spare
  log : s.log.KeptIn 17 u.log

/-- The pennants' halt, the first step of a Strike. -/
def State.haltAll (s : State) : State :=
  (List.range 16).foldl (fun s p => if (s.slot p).state = .free then s else s.haltSlot p) s
theorem State.haltAll_records (s : State) : s.Records 16 s.haltAll := by
  have h := State.Records.foldl (fun (s : State) p => if (s.slot p).state = .free then s else s.haltSlot p)
    (fun s p => State.Records.ite _ ((State.Records.refl s).mono (by omega)) (s.haltSlot_records p)) (List.range 16) s
  exact h.mono (by simp)

/-- A Strike between the halt and its record: dip record, keys and domains. -/
def State.strikeDown (s : State) : State :=
  (s.writeDip .strike [true, true, true, true, true] s.power.bankMv).zeroKeys.struckDown
@[simp] theorem State.strikeDown_log (s : State) : s.strikeDown.log = s.log := rfl
@[simp] theorem State.strikeDown_spare (s : State) : s.strikeDown.spare = s.spare := rfl
@[simp] theorem State.strikeDown_doms (s : State) : s.strikeDown.doms = tmap powerDown s.doms := rfl
@[simp] theorem State.strikeDown_modState (s : State) : s.strikeDown.mod.state = .struck := rfl

theorem State.strike_struck {s : State} (h : s.mod.state = .proving ∨ s.mod.state = .joining ∨ s.mod.state = .hoisted ∨ s.mod.state = .halfMast) :
    s.StruckFrom s.strike := by
  have hhalt := s.haltAll_records
  have hstrike : s.strike = s.haltAll.strikeDown.logErr { code := 0x8341, handling := .strike } := by
    simp only [State.strike, if_pos h, State.strikeDown, State.haltAll]
  rw [hstrike]
  generalize s.haltAll = a at hhalt
  constructor
  case state => simp
  case doms => simp [hhalt.doms]
  case spare => simp [hhalt.spare]
  case log => exact hhalt.log.trans (a.strikeDown.logErr_records _).log

theorem State.strike_of_linksRun {s : State} (h : s.linksRun = true) : s.StruckFrom s.strike :=
  State.strike_struck (.inr (s.linksRun_iff.mp h))

/-- In any other state a Strike changes nothing. -/
theorem State.strike_cases (s : State) : s.StruckFrom s.strike ∨ s.strike = s := by
  by_cases h : s.mod.state = .proving ∨ s.mod.state = .joining ∨ s.mod.state = .hoisted ∨ s.mod.state = .halfMast
  · exact .inl (State.strike_struck h)
  · exact .inr (if_neg h)

theorem tget_tmap_powerDown (t : Tbl Domain) (d : Nat) : tget (tmap powerDown t) d {} = powerDown d (tget t d {}) :=
  tget_tmap _ _ _ (by unfold powerDown; split <;> rfl)

/-- No domain but the control domain stays on. -/
theorem State.StruckFrom.domOn {s u : State} (h : s.StruckFrom u) {d : Nat} (hd : d ≠ 79) : u.domOn d = false := by
  rw [State.domOn, State.dom, h.doms, tget_tmap_powerDown, powerDown, if_neg hd]
  dsimp only
  split <;> rfl

/-- A retired domain stays retired. -/
theorem State.StruckFrom.retired {s u : State} (h : s.StruckFrom u) {d : Nat} (hd : (s.dom d).state = .retired) :
    (u.dom d).state = .retired := by
  rw [State.dom, h.doms, tget_tmap_powerDown, powerDown]
  split
  · exact hd
  · exact if_pos hd

/-- A Half-mast cause noted, and the module's state after it. -/
def State.noteCause (s : State) (cause : Nat) (st : ModState) : State :=
  { s with mod := { s.mod with causes := s.mod.causes ++ [cause], state := st } }
/-- In Hoisted a cause brings the module to Half-mast with a record; elsewhere it is noted alone (R475, R587). -/
theorem State.halfMast_of_hoisted {s : State} (cause : Nat) (h : s.mod.state = .hoisted) :
    s.halfMast cause = (s.noteCause cause .halfMast).logErr { code := 0x8340, handling := .halfMast, detail0 := cause } :=
  if_pos h
theorem State.halfMast_of_not_hoisted {s : State} (cause : Nat) (h : s.mod.state ≠ .hoisted) :
    s.halfMast cause = s.noteCause cause s.mod.state :=
  if_neg h

/-- What a Half-mast cause leaves: slots, domains, spare map, power and bank; it stands in the causes. -/
structure State.HalfMastFrom (s : State) (cause : Nat) (u : State) : Prop where
  state : s.mod.state = .hoisted → u.mod.state = .halfMast
  cause : cause ∈ u.mod.causes
  slots : u.slots = s.slots
  doms : u.doms = s.doms
  spare : u.spare = s.spare
  power : u.power = s.power
  bank : u.bank = s.bank
  log : s.log.KeptIn 1 u.log

theorem State.halfMast_from (s : State) (cause : Nat) : s.HalfMastFrom cause (s.halfMast cause) := by
  by_cases h : s.mod.state = .hoisted
  · rw [State.halfMast_of_hoisted cause h]
    constructor
    case log => exact ((s.noteCause cause .halfMast).logErr_records _).log
    all_goals simp [State.noteCause]
  · rw [State.halfMast_of_not_hoisted cause h]
    exact ⟨fun e => absurd e h, by simp [State.noteCause], rfl, rfl, rfl, rfl, rfl, (Log.KeptIn.refl _).mono (by omega)⟩

/-- A granule withdrawn for good is entered in the spare map, and the pennant that holds it fails over or halts (R450, R476). -/
structure State.WithdrawnFrom (s : State) (k : Nat) (u : State) : Prop where
  lasting : k ∈ u.spare.lasting
  retired : u.spare.retired = s.spare.retired
  doms : u.doms = s.doms
  state : u.mod.state = s.mod.state
  log : s.log.KeptIn 1 u.log

theorem State.withdrawLasting_from (s : State) (k : Nat) : s.WithdrawnFrom k (s.withdrawLasting k) := by
  have h : ({ s with spare := { s.spare with withdrawn := sins s.spare.withdrawn k } } : State).Records 1 (s.withdraw k) := by
    unfold State.withdraw
    dsimp only
    split
    · exact State.failover_records _ _
    · exact (State.Records.refl _).mono (by omega)
  have hretired : (s.withdraw k).spare.retired = s.spare.retired := by rw [h.spare]
  exact ⟨mem_sins _ k, hretired, h.doms, h.modState, h.log⟩

/-- A tile group retired for a fault (R446). -/
structure State.GroupRetired (s : State) (d code : Nat) (u : State) : Prop where
  retired : d ∈ u.spare.retired
  domain : (u.dom d).state = .retired
  granule : granuleOf (d / 16) (d % 16) ∈ u.spare.lasting
  record : ∃ r ∈ u.log.recs, r.body.code = 0x8304 ∧ r.body.site = siteNum d ∧ r.body.detail0 = code
  log : s.log.KeptIn 19 u.log
  halfMast : s.mod.state = .hoisted → s.spare.retired.length < 16 → s.spare.chipsFailed = [] → u.mod.state = .halfMast

/-- The group's mark in the spare map and its domain without power. -/
def State.markRetired (s : State) (g : Nat) : State :=
  { s with spare := { s.spare with retired := sins s.spare.retired g },
           doms := tput s.doms g { (tget s.doms g {}) with state := .retired, mv := 0, thermal := false, cap := false, critical := false } }

/-- The record of a retirement, after which the group's granule is withdrawn. -/
def State.logRetired (s : State) (g code : Nat) : State :=
  s.logErr { code := 0x8304, handling := if s.strikeLimit then .strike else .halfMast, siteKind := .group, site := siteNum g, detail0 := code }

theorem State.retireGroup_eq {s : State} {g : Nat} (code : Nat) (h : g ∉ s.spare.retired) : s.retireGroup g code =
    let t := ((s.markRetired g).logRetired g code).withdrawLasting (granuleOf (g / 16) (g % 16))
    if (s.markRetired g).strikeLimit then t.strike else t.halfMast code :=
  if_neg h

/-- Up to sixteen retired groups and no failed chip do not reach the limit of Table 12.11. -/
theorem State.strikeLimit_markRetired {s : State} (g : Nat) (hr : s.spare.retired.length < 16) (hc : s.spare.chipsFailed = []) :
    (s.markRetired g).strikeLimit = false := by
  have hlen := length_sins_le s.spare.retired g
  have hle : ¬ 16 < (sins s.spare.retired g).length := by omega
  simp [State.strikeLimit, State.markRetired, hle, hc]

theorem State.logRetired_head (s : State) (g code : Nat) : ∃ r, (s.logRetired g code).log.recs.head? = some r ∧
    r.body.code = 0x8304 ∧ r.body.site = siteNum g ∧ r.body.detail0 = code :=
  ⟨_, s.logErr_head _, rfl, rfl, rfl⟩

theorem State.retireGroup_retires {s : State} {d : Nat} (code : Nat) (h : d ∉ s.spare.retired) : s.GroupRetired d code (s.retireGroup d code) := by
  obtain ⟨r, hhead, hcode, hsite, hdetail⟩ := (s.markRetired d).logRetired_head d code
  have hmark : (s.markRetired d).Records 1 ((s.markRetired d).logRetired d code) := State.logErr_records _ _
  have hw := State.withdrawLasting_from ((s.markRetired d).logRetired d code) (granuleOf (d / 16) (d % 16))
  rw [State.retireGroup_eq code h]
  dsimp only
  generalize ((s.markRetired d).logRetired d code).withdrawLasting (granuleOf (d / 16) (d % 16)) = t at hw
  have hdom : (t.dom d).state = .retired := by
    rw [State.dom, hw.doms, hmark.doms]
    simp [State.markRetired]
  have hlist : d ∈ t.spare.retired := by
    rw [hw.retired, hmark.spare]
    exact mem_sins _ d
  -- the Strike and the Half-mast of a state keep its spare map, a retired domain and the log's records
  have keeps : ∀ u, u.spare = t.spare → (u.dom d).state = .retired → t.log.KeptIn 17 u.log →
      (s.mod.state = .hoisted → s.spare.retired.length < 16 → s.spare.chipsFailed = [] → u.mod.state = .halfMast) → s.GroupRetired d code u := by
    intro u hspare hret hlog hstate
    refine ⟨hspare ▸ hlist, hret, hspare ▸ hw.lasting, ⟨r, ?_, hcode, hsite, hdetail⟩, (hmark.log.trans hw.log).trans hlog, hstate⟩
    exact (hw.log.trans hlog).mem_of_head (by omega) hhead
  split
  next hlimit =>
    have hno : s.spare.retired.length < 16 → s.spare.chipsFailed = [] → t.strike.mod.state = .halfMast := fun hr hc => by
      rw [State.strikeLimit_markRetired d hr hc] at hlimit
      contradiction
    obtain hs | hs := t.strike_cases
    · exact keeps _ hs.spare (hs.retired hdom) hs.log fun _ => hno
    · exact keeps _ (by rw [hs]) (by rw [hs, hdom]) (by rw [hs]; exact (Log.KeptIn.refl _).mono (by omega)) fun _ => hno
  next =>
    have hm := t.halfMast_from code
    have hret : ((t.halfMast code).dom d).state = .retired := by rw [State.dom, hm.doms]; exact hdom
    exact keeps _ hm.spare hret (hm.log.mono (by omega)) fun hh _ _ => hm.state (by rw [hw.state, hmark.modState]; exact hh)

end Sys2Proof.Machine
end

section
/-! PROOFS. Setpoints (R62, R561): a change by itself, and how far a falling domain takes its neighbours with it. -/

namespace Sys2Proof.Machine

/-! ### A setpoint by itself (R62, R561) -/

theorem State.domOn_iff (s : State) (d : Nat) : s.domOn d = true ↔ (s.dom d).state = .on := by simp [State.domOn]

/-- All of a state but its domains and their oscillators. -/
def State.sansSetpoints (s : State) : State := { s with doms := [], oscs := [] }

theorem State.recal_doms (s : State) (n : Nat) : (s.recal n).doms = s.doms := by unfold State.recal; split <;> rfl
theorem State.recal_sansSetpoints (s : State) (n : Nat) : (s.recal n).sansSetpoints = s.sansSetpoints := by
  unfold State.recal
  split <;> rfl
/-- A window that is open stays open. -/
theorem State.recal_window (s : State) (n m : Nat) (h : (s.osc m).inWindow = true) : ((s.recal n).osc m).inWindow = true := by
  unfold State.recal
  split
  · by_cases hm : m = n
    · simp [hm]
    · rwa [State.osc_updOsc_other _ _ _ _ hm]
  · exact h

theorem State.setMv_sansSetpoints (s : State) (d v : Nat) : (s.setMv d v).sansSetpoints = s.sansSetpoints := by
  unfold State.setMv
  split
  · rfl
  · rw [State.recal_sansSetpoints]; rfl
@[simp] theorem State.setMv_dom (s : State) (d v : Nat) : (s.setMv d v).dom d = { s.dom d with mv := v } := by
  unfold State.setMv
  split
  next h => rw [← h]
  next => rw [State.dom, State.recal_doms]; exact State.dom_updDom s d _
theorem State.setMv_dom_other (s : State) (d v : Nat) {e : Nat} (h : e ≠ d) : (s.setMv d v).dom e = s.dom e := by
  unfold State.setMv
  split
  · rfl
  · rw [State.dom, State.recal_doms]; exact State.dom_updDom_other s d e _ h
theorem State.setMv_window (s : State) (d v m : Nat) (h : (s.osc m).inWindow = true) : ((s.setMv d v).osc m).inWindow = true := by
  unfold State.setMv
  split
  · exact h
  · exact State.recal_window _ d m h
/-- A change of a variable domain that is on starts a calibration window. -/
theorem State.setMv_opens (s : State) {d v : Nat} (hd : d < 68) (hon : s.domOn d = true) (hv : (s.dom d).mv ≠ v) :
    ((s.setMv d v).osc d).inWindow = true := by
  have hon' : (s.updDom d (fun x => { x with mv := v })).domOn d = true := by
    rw [State.domOn_iff, State.dom_updDom]
    exact (s.domOn_iff d).mp hon
  rw [State.setMv, if_neg hv, State.recal_of_on _ hd hon', State.osc_updOsc]

/-! ### Falling setpoints (R561) -/

/-- From `s` to `u` setpoints fell by whole steps, with calibration windows opened and caps noted, and nothing else changed. -/
structure State.Lowers (s u : State) : Prop where
  rest : u.sansSetpoints = s.sansSetpoints
  state : ∀ e, (u.dom e).state = (s.dom e).state
  mv : ∀ e, (u.dom e).mv = (s.dom e).mv ∨ (u.dom e).mv + 10 ≤ (s.dom e).mv
  cap : ∀ e, (s.dom e).cap = true → (u.dom e).cap = true
  window : ∀ n, (s.osc n).inWindow = true → (u.osc n).inWindow = true

namespace State.Lowers
theorem refl (s : State) : s.Lowers s := ⟨rfl, fun _ => rfl, fun _ => .inl rfl, fun _ h => h, fun _ h => h⟩
theorem trans {s t u : State} (h : s.Lowers t) (k : t.Lowers u) : s.Lowers u where
  rest := k.rest.trans h.rest
  state e := (k.state e).trans (h.state e)
  mv e := by have := h.mv e; have := k.mv e; omega
  cap e hc := k.cap e (h.cap e hc)
  window n hw := k.window n (h.window n hw)
theorem foldl {α : Type} (f : State → α → State) (h : ∀ (s : State) (a : α), s.Lowers (f s a)) (l : List α) (s : State) : s.Lowers (l.foldl f s) := by
  induction l generalizing s with
  | nil => exact .refl s
  | cons a l ih => exact (h s a).trans (ih _)

variable {s u : State}
theorem mv_le (h : s.Lowers u) (e : Nat) : (u.dom e).mv ≤ (s.dom e).mv := by have := h.mv e; omega
theorem domOn (h : s.Lowers u) (e : Nat) : u.domOn e = s.domOn e := by rw [State.domOn, h.state, State.domOn]
theorem log (h : s.Lowers u) : u.log = s.log := show u.sansSetpoints.log = s.sansSetpoints.log by rw [h.rest]
theorem slots (h : s.Lowers u) : u.slots = s.slots := show u.sansSetpoints.slots = s.sansSetpoints.slots by rw [h.rest]
theorem mod (h : s.Lowers u) : u.mod = s.mod := show u.sansSetpoints.mod = s.sansSetpoints.mod by rw [h.rest]
theorem power (h : s.Lowers u) : u.power = s.power := show u.sansSetpoints.power = s.sansSetpoints.power by rw [h.rest]
end State.Lowers

/-- A domain that a step lowers: its setpoint is variable, it is on and above its floor. -/
structure State.Falls (s : State) (d : Nat) : Prop where
  variableSetpoint : domVariable d = true
  on : s.domOn d = true
  above : domFloor d < (s.dom d).mv

/-- The neighbours more than 100 mV above a domain. -/
def State.highNeighbours (s : State) (d : Nat) : List Nat :=
  (neighbours d).filter (fun n => s.domOn n && decide ((s.dom d).mv + 100 < (s.dom n).mv))

theorem State.mem_highNeighbours {s : State} {d n : Nat} (h : n ∈ s.highNeighbours d) : (s.dom d).mv + 100 < (s.dom n).mv := by
  simp only [State.highNeighbours, List.mem_filter, Bool.and_eq_true, decide_eq_true_eq] at h
  exact h.2.2
theorem State.highNeighbours_nodup (s : State) (d : Nat) : (s.highNeighbours d).Nodup :=
  (List.nodup_range.filter _).filter _

theorem domFloor_ge (d : Nat) : 600 ≤ domFloor d := by
  unfold domFloor
  split_ifs <;> omega

theorem State.stepDown_of_falls {s : State} {d : Nat} (k : Nat) (h : s.Falls d) :
    s.stepDown (k + 1) d = ((s.setMv d ((s.dom d).mv - 10)).highNeighbours d).foldl (State.stepDown k) (s.setMv d ((s.dom d).mv - 10)) := by
  rw [State.stepDown, if_neg (by simp [h.variableSetpoint, h.on, h.above])]
  rfl
theorem State.stepDown_of_not_falls {s : State} {d : Nat} (k : Nat) (h : ¬ s.Falls d) : s.stepDown k d = s := by
  cases k with
  | zero => rfl
  | succ k =>
    rw [State.stepDown, if_pos]
    by_contra hc
    simp only [not_or, not_not, not_le] at hc
    obtain ⟨hvar, hon, habove⟩ := hc
    exact h ⟨hvar, hon, habove⟩

theorem State.setMv_lowers {s : State} {d : Nat} (h : s.Falls d) : s.Lowers (s.setMv d ((s.dom d).mv - 10)) := by
  have habove := h.above
  have hfloor := domFloor_ge d
  have hdom : ∀ e, ∃ v, (v = (s.dom e).mv ∨ v + 10 ≤ (s.dom e).mv) ∧ (s.setMv d ((s.dom d).mv - 10)).dom e = { s.dom e with mv := v } := by
    intro e
    by_cases he : e = d
    · subst he
      exact ⟨_, .inr (by omega), s.setMv_dom e _⟩
    · exact ⟨_, .inl rfl, s.setMv_dom_other d _ he⟩
  refine ⟨s.setMv_sansSetpoints d _, fun e => ?_, fun e => ?_, fun e hc => ?_, s.setMv_window d _⟩ <;> obtain ⟨v, hv, hd⟩ := hdom e <;> rw [hd]
  · exact hv
  · exact hc

theorem State.stepDown_lowers (k : Nat) (s : State) (d : Nat) : s.Lowers (s.stepDown k d) := by
  induction k generalizing s d with
  | zero => exact .refl s
  | succ k ih =>
    by_cases h : s.Falls d
    · rw [State.stepDown_of_falls k h]
      exact (State.setMv_lowers h).trans (.foldl _ ih _ _)
    · rw [State.stepDown_of_not_falls _ h]
      exact .refl s

/-- What a step down of `d` leaves of the other domains: each is as it was, or still at least as high as `d` was. A neighbour falls
only from more than 90 mV above `d`, and what falls with it stands higher still. -/
def State.KeepsBelow (s : State) (d : Nat) (u : State) : Prop :=
  ∀ e, e ≠ d → u.dom e = s.dom e ∨ (s.dom d).mv ≤ (u.dom e).mv

/-- Domains that stand at `w + 10` fall in turn: no other domain is changed to below `w`. -/
theorem State.foldl_stepDown_keeps {k w : Nat} (hself : ∀ (s : State) (d : Nat), (s.dom d).mv ≤ ((s.stepDown k d).dom d).mv + 10)
    (hkeep : ∀ (s : State) (d : Nat), s.KeepsBelow d (s.stepDown k d)) (l : List Nat) (s : State) (hl : l.Nodup)
    (hw : ∀ n ∈ l, w + 10 ≤ (s.dom n).mv) (e : Nat) :
    (l.foldl (State.stepDown k) s).dom e = s.dom e ∨ w ≤ ((l.foldl (State.stepDown k) s).dom e).mv := by
  induction l generalizing s with
  | nil => exact .inl rfl
  | cons m l ih =>
    obtain ⟨hm, hl⟩ := List.nodup_cons.mp hl
    have hwm : w + 10 ≤ (s.dom m).mv := hw m (by simp)
    have hnext : ∀ n, n ≠ m → (s.stepDown k m).dom n = s.dom n ∨ w + 10 ≤ ((s.stepDown k m).dom n).mv := fun n hn =>
      (hkeep s m n hn).imp_right hwm.trans
    have hrest : ∀ n ∈ l, w + 10 ≤ ((s.stepDown k m).dom n).mv := fun n hn => by
      obtain h | h := hnext n (fun h => hm (h ▸ hn))
      · rw [h]; exact hw n (by simp [hn])
      · exact h
    rw [List.foldl_cons]
    obtain h | h := ih (s.stepDown k m) hl hrest
    · rw [h]
      by_cases he : e = m
      · subst he
        have := hself s e
        exact .inr (by omega)
      · exact (hnext e he).imp_right (by omega)
    · exact .inr h

/-- A step down lowers its own domain by one step, and what falls with it stays 80 mV above where it stood. -/
theorem State.stepDown_succ {k : Nat} (hself : ∀ (s : State) (d : Nat), (s.dom d).mv ≤ ((s.stepDown k d).dom d).mv + 10)
    (hkeep : ∀ (s : State) (d : Nat), s.KeepsBelow d (s.stepDown k d)) {s : State} {d : Nat} (h : s.Falls d) :
    (s.stepDown (k + 1) d).dom d = { s.dom d with mv := (s.dom d).mv - 10 } ∧ s.KeepsBelow d (s.stepDown (k + 1) d) := by
  rw [State.stepDown_of_falls k h]
  have hself' : (s.setMv d ((s.dom d).mv - 10)).dom d = { s.dom d with mv := (s.dom d).mv - 10 } := s.setMv_dom d _
  have hother : ∀ e, e ≠ d → (s.setMv d ((s.dom d).mv - 10)).dom e = s.dom e := fun e he => s.setMv_dom_other d _ he
  generalize s.setMv d ((s.dom d).mv - 10) = t at hself' hother
  have hhigh : ∀ n ∈ t.highNeighbours d, (s.dom d).mv + 80 + 10 ≤ (t.dom n).mv := fun n hn => by
    have := State.mem_highNeighbours hn
    simp only [hself'] at this
    omega
  have hfold := State.foldl_stepDown_keeps hself hkeep (t.highNeighbours d) t (t.highNeighbours_nodup d) hhigh
  have hlow := (State.Lowers.foldl _ (State.stepDown_lowers k) (t.highNeighbours d) t).mv_le d
  refine ⟨?_, fun e he => ?_⟩
  · obtain hd | hd := hfold d
    · rw [hd, hself']
    · simp only [hself'] at hlow
      omega
  · rw [← hother e he]
    exact (hfold e).imp_right (by omega)

theorem State.stepDown_keeps (k : Nat) : (∀ (s : State) (d : Nat), (s.dom d).mv ≤ ((s.stepDown k d).dom d).mv + 10) ∧
    ∀ (s : State) (d : Nat), s.KeepsBelow d (s.stepDown k d) := by
  induction k with
  | zero => exact ⟨fun _ _ => Nat.le_add_right _ _, fun _ _ _ _ => .inl rfl⟩
  | succ k ih =>
    obtain ⟨hself, hkeep⟩ := ih
    refine ⟨fun s d => ?_, fun s d => ?_⟩ <;> by_cases h : s.Falls d
    · rw [(State.stepDown_succ hself hkeep h).1]
      exact Nat.le_add_of_sub_le le_rfl
    · rw [State.stepDown_of_not_falls _ h]
      exact Nat.le_add_right _ _
    · exact (State.stepDown_succ hself hkeep h).2
    · rw [State.stepDown_of_not_falls _ h]
      exact fun _ _ => .inl rfl

/-- A step down lowers its own domain by one step, whatever falls with it. -/
theorem State.stepDown_dom {s : State} {d : Nat} (k : Nat) (h : s.Falls d) :
    (s.stepDown (k + 1) d).dom d = { s.dom d with mv := (s.dom d).mv - 10 } :=
  (State.stepDown_succ (State.stepDown_keeps k).1 (State.stepDown_keeps k).2 h).1

/-- Where no neighbour that is on would stand more than 100 mV above, the domain falls alone. -/
theorem State.stepDown_alone {s : State} {d : Nat} (k : Nat) (h : s.Falls d)
    (hn : ∀ n ∈ neighbours d, s.domOn n = true → (s.dom n).mv ≤ (s.dom d).mv + 90) :
    s.stepDown (k + 1) d = s.setMv d ((s.dom d).mv - 10) := by
  have hlow := State.setMv_lowers h
  have hempty : (s.setMv d ((s.dom d).mv - 10)).highNeighbours d = [] := by
    rw [State.highNeighbours, List.filter_eq_nil_iff]
    intro n hmem
    simp only [hlow.domOn, s.setMv_dom, Bool.and_eq_true, decide_eq_true_eq, not_and, not_lt]
    intro hon
    have := hlow.mv_le n
    have := hn n hmem hon
    omega
  rw [State.stepDown_of_falls k h, hempty, List.foldl_nil]

/-- The window of a lowered domain is open. -/
theorem State.stepDown_opens {s : State} {d : Nat} (k : Nat) (h : s.Falls d) : ((s.stepDown (k + 1) d).osc d).inWindow = true := by
  have hvar : d < 68 := by simpa [domVariable] using h.variableSetpoint
  have hfloor := domFloor_ge d
  have habove := h.above
  rw [State.stepDown_of_falls k h]
  exact (State.Lowers.foldl _ (State.stepDown_lowers k) _ _).window d (s.setMv_opens hvar h.on (by omega))

end Sys2Proof.Machine
end

section
/-! PROOFS. The power controller (R564 to R568, R578): its answers to samples, regulators, coolant and the bank. -/

namespace Sys2Proof.Machine

/-! ### A rising setpoint (R561) -/

/-- A domain of the range that may rise by itself: on, neither critical nor being corrected, 10 mV below its ceiling, 1 ms after its
last rise, and no neighbour that is on would stand more than 100 mV below it. -/
structure State.RisesAlone (s : State) (d : Nat) : Prop where
  variableSetpoint : d < 68
  on : s.domOn d = true
  cool : (s.dom d).critical = false
  free : s.regionBusy d = false
  ceiling : (s.dom d).mv + 10 ≤ s.ceiling d
  rested : 10 ≤ (s.dom d).since
  near : ∀ n ∈ neighbours d, s.domOn n = true → (s.dom d).mv + 10 ≤ (s.dom n).mv + 100

/-- A domain raised by one step, its time since the last rise beginning anew. -/
def State.raised (s : State) (d : Nat) : State := (s.setMv d ((s.dom d).mv + 10)).updDom d (fun x => { x with since := 0 })

theorem State.raised_dom (s : State) (d : Nat) : (s.raised d).dom d = { s.dom d with mv := (s.dom d).mv + 10, since := 0 } := by
  rw [State.raised, State.dom_updDom, State.setMv_dom]
theorem State.raised_dom_other (s : State) {d e : Nat} (he : e ≠ d) : (s.raised d).dom e = s.dom e := by
  rw [State.raised, State.dom_updDom_other _ _ _ _ he, State.setMv_dom_other _ _ _ he]
theorem State.raised_sansSetpoints (s : State) (d : Nat) : (s.raised d).sansSetpoints = s.sansSetpoints := s.setMv_sansSetpoints d _
theorem State.raised_opens {s : State} {d : Nat} (hd : d < 68) (hon : s.domOn d = true) : ((s.raised d).osc d).inWindow = true :=
  s.setMv_opens hd hon (by omega)

theorem State.stepUp_alone {s : State} {d : Nat} (k : Nat) (h : s.RisesAlone d) : s.stepUp (k + 1) d = s.raised d := by
  have hrise : s.mayRise (k + 1) d = true := by
    have hnear : ∀ n ∈ neighbours d, (s.domOn n = false ∨ (s.dom d).mv ≤ (s.dom n).mv + 90) ∨ s.mayRise k n = true := by
      intro n hn
      cases hon : s.domOn n
      · exact .inl (.inl rfl)
      · have := h.near n hn hon
        exact .inl (.inr (by omega))
    simpa [State.mayRise, domVariable, h.variableSetpoint, h.on, h.cool, h.free, h.ceiling, h.rested] using hnear
  have hlow : (neighbours d).filter (fun n => s.domOn n && decide ((s.dom n).mv + 100 < (s.dom d).mv + 10)) = [] := by
    rw [List.filter_eq_nil_iff]
    intro n hn
    simp only [Bool.and_eq_true, decide_eq_true_eq, not_and, not_lt]
    exact h.near n hn
  rw [State.stepUp, if_neg (by simp [hrise]), hlow, List.foldl_nil, State.raised]

/-! ### THERMAL_SAMPLE of one domain (R564, R566) -/

/-- A domain's reading is noted; a critical mark lasts until the domain is below 100 degrees C. -/
def State.sensed (s : State) (d : Nat) (j : Int) : State :=
  s.updDom d (fun x => { x with junction := j, since := x.since + 1, critical := x.critical && decide (800 ≤ j) })

/-- Throttling begins with a record, once. -/
def State.throttled (s : State) (d : Nat) : State :=
  if (s.dom d).thermal then s
  else (s.updDom d (fun x => { x with thermal := true })).logErr { code := 0x2054, siteKind := .domain, site := siteNum d }

/-- Throttling ends once the domain is back at its ceiling. -/
def State.unthrottled (s : State) (d : Nat) : State :=
  if s.ceiling d ≤ (s.dom d).mv + 9 then s.updDom d (fun x => { x with thermal := false }) else s

/-- A domain falls by one step in a sample that began in `s0`, unless it has fallen with a neighbour. -/
def State.lowerOnce (s0 s : State) (d : Nat) : State := if (s.dom d).mv = (s0.dom d).mv then s.stepDown 8 d else s

/-- The hottest reading of a sample of one domain. -/
def State.noteHottest (s : State) (j : Int) : State := { s with power := { s.power with hottest := j } }

theorem exec_thermalSample_one (s : State) (d : Nat) (j : Int) :
    exec (.thermalSample [⟨d, j⟩]) s = .next ((s.thermalOne s ⟨d, j⟩).noteHottest j) := by
  have hmax : [(⟨d, j⟩ : JReading)].foldl (fun m r => max m r.junction) j = j := max_self j
  show Host.Outcome.next _ = _
  simp only [hmax]
  rfl

/-- A domain that THERMAL_SAMPLE controls: variable and on, not critical, and within its target. -/
structure State.Controlled (s : State) (d : Nat) : Prop where
  variableSetpoint : d < 68
  on : s.domOn d = true
  cool : (s.dom d).critical = false
  target : (s.dom d).mv ≤ s.power.targetMv

section
variable {s : State} {d : Nat} {j : Int}

theorem State.Controlled.sensed_dom (h : s.Controlled d) : (s.sensed d j).dom d = { s.dom d with junction := j, since := (s.dom d).since + 1 } := by
  simp [State.sensed, h.cool]
theorem State.sensed_dom_other {e : Nat} (he : e ≠ d) : (s.sensed d j).dom e = s.dom e := State.dom_updDom_other s d e _ he
@[simp] theorem State.sensed_power : (s.sensed d j).power = s.power := rfl
@[simp] theorem State.sensed_domOn (e : Nat) : (s.sensed d j).domOn e = s.domOn e := by
  by_cases he : e = d
  · simp [State.domOn, State.sensed, he]
  · rw [State.domOn, State.sensed_dom_other he, State.domOn]
@[simp] theorem State.sensed_mv (e : Nat) : ((s.sensed d j).dom e).mv = (s.dom e).mv := by
  by_cases he : e = d
  · simp [State.sensed, he]
  · rw [State.sensed_dom_other he]

/-- The answer to one domain's reading, with the reading noted (R564, R566): above its target or critical it falls; from 95 degrees C
it is throttled and falls; up to 90 it may rise; between them it holds. -/
theorem State.thermalOne_eq (j : Int) (hd : d < 68) (hon : s.domOn d = true) : s.thermalOne s ⟨d, j⟩ =
    let t := if 840 ≤ j then (s.sensed d j).critical d else s.sensed d j
    if t.domOn d = false then t
    else if t.power.targetMv < (t.dom d).mv ∨ (t.dom d).critical = true then s.lowerOnce t d
    else if 760 ≤ j then s.lowerOnce (t.throttled d) d
    else if j ≤ 720 ∧ ¬ t.power.capOn = true then (t.stepUp 4 d).unthrottled d
    else t := by
  unfold State.thermalOne
  dsimp only
  rw [if_neg (by simp [hon]; omega)]
  simp only [domVariable, hd, decide_true, not_true, false_or, Bool.not_eq_true]
  rfl

/-- Below 105 degrees C the range of the reading alone decides. -/
theorem State.Controlled.thermalOne_below_critical (h : s.Controlled d) (hj : j < 840) : s.thermalOne s ⟨d, j⟩ =
    if 760 ≤ j then s.lowerOnce ((s.sensed d j).throttled d) d
    else if j ≤ 720 ∧ ¬ s.power.capOn = true then ((s.sensed d j).stepUp 4 d).unthrottled d
    else s.sensed d j := by
  have hon : ¬ (s.sensed d j).domOn d = false := by simp [h.on]
  have hfine : ¬ (s.power.targetMv < ((s.sensed d j).dom d).mv ∨ ((s.sensed d j).dom d).critical = true) := by
    rw [h.sensed_dom]
    simp [h.target, h.cool]
  rw [State.thermalOne_eq j h.variableSetpoint h.on]
  dsimp only
  rw [if_neg (by omega : ¬ 840 ≤ j), if_neg hon, State.sensed_power, if_neg hfine]

theorem State.throttled_dom (s : State) (d : Nat) : (s.throttled d).dom d = { s.dom d with thermal := true } := by
  unfold State.throttled
  split
  next h => rw [← h]
  next => rw [State.dom, State.logErr_doms]; exact State.dom_updDom s d _
theorem State.throttled_dom_other {e : Nat} (he : e ≠ d) : (s.throttled d).dom e = s.dom e := by
  unfold State.throttled
  split
  · rfl
  · rw [State.dom, State.logErr_doms]; exact State.dom_updDom_other s d e _ he
@[simp] theorem State.throttled_domOn (e : Nat) : (s.throttled d).domOn e = s.domOn e := by
  by_cases he : e = d
  · rw [he, State.domOn, State.throttled_dom, State.domOn]
  · rw [State.domOn, State.throttled_dom_other he, State.domOn]
@[simp] theorem State.throttled_mv (e : Nat) : ((s.throttled d).dom e).mv = (s.dom e).mv := by
  by_cases he : e = d
  · rw [he, State.throttled_dom]
  · rw [State.throttled_dom_other he]
@[simp] theorem State.throttled_slots (s : State) (d : Nat) : (s.throttled d).slots = s.slots := by
  unfold State.throttled
  split
  · rfl
  · rw [State.logErr_slots]; rfl
/-- A domain that throttles already adds no record. -/
theorem State.throttled_of_thermal (h : (s.dom d).thermal = true) : s.throttled d = s := if_pos h
theorem State.throttled_head (h : (s.dom d).thermal = false) : (s.throttled d).log.recs.head? =
    some ⟨s.log.next, s.mod.ref, { code := 0x2054, siteKind := .domain, site := siteNum d }⟩ := by
  rw [State.throttled, if_neg (by simp [h]), State.logErr_head]
  rfl

/-- From 95 degrees C a controlled domain throttles and falls by one step. -/
theorem State.Controlled.thermalOne_hot (h : s.Controlled d) (hlo : 760 ≤ j) (hhi : j < 840) :
    s.thermalOne s ⟨d, j⟩ = ((s.sensed d j).throttled d).stepDown 8 d := by
  rw [h.thermalOne_below_critical hhi, if_pos hlo, State.lowerOnce, if_pos (by simp)]

/-- Above 90 and below 95 degrees C it holds. -/
theorem State.Controlled.thermalOne_warm (h : s.Controlled d) (hlo : 720 < j) (hhi : j < 760) : s.thermalOne s ⟨d, j⟩ = s.sensed d j := by
  rw [h.thermalOne_below_critical (by omega), if_neg (by omega), if_neg (by omega)]

/-- Up to 90 degrees C it rises by one step where it may, with the power cap not engaged. -/
theorem State.Controlled.thermalOne_cool (h : s.Controlled d) (hj : j ≤ 720) (hcap : s.power.capOn = false)
    (hrise : (s.sensed d j).RisesAlone d) : s.thermalOne s ⟨d, j⟩ = ((s.sensed d j).raised d).unthrottled d := by
  rw [h.thermalOne_below_critical (by omega), if_neg (by omega), if_pos ⟨hj, by simp [hcap]⟩, State.stepUp_alone 3 hrise]

/-! ### A critical junction (R566) -/

/-- The mark of a critical domain. -/
def State.markCritical (s : State) (d : Nat) : State := s.updDom d (fun x => { x with critical := true })

/-- Tile groups that are critical. -/
def criticalGroups (t : Tbl Domain) : Nat := (t.filter (fun x => decide (x.1 < 64) && x.2.critical)).length

/-- Whether a critical domain Strikes the module: any but a tile group, or the fourth tile group. -/
def State.criticalStrikes (s : State) (d : Nat) : Bool := decide (4 ≤ criticalGroups s.doms) || decide (64 ≤ d)

/-- A critical domain with its record. -/
def State.logCritical (s : State) (d : Nat) (handling : Handling) : State :=
  (s.markCritical d).logErr { code := 0x2055, handling := handling, siteKind := .domain, site := siteNum d }

theorem State.logCritical_dom (s : State) (d : Nat) (hd : Handling) : (s.logCritical d hd).dom d = { s.dom d with critical := true } := by
  rw [State.logCritical, State.dom, State.logErr_doms]
  exact State.dom_updDom s d _

theorem State.critical_of_new (hc : (s.dom d).critical = false) : s.critical d =
    let strikes := (s.markCritical d).criticalStrikes d
    let t := s.logCritical d (if strikes then .strike else .event)
    if strikes then t.strike else t := by
  rw [State.critical, if_neg (by simp [hc])]
  rfl

/-- With fewer than three groups critical, one more is logged and held. -/
theorem State.critical_of_few (hc : (s.dom d).critical = false) (hd : d < 64) (hfew : criticalGroups s.doms < 3) :
    s.critical d = s.logCritical d .event := by
  have hcount : criticalGroups (s.markCritical d).doms ≤ criticalGroups s.doms + 1 :=
    (length_filter_tput_le _ s.doms d _).trans (Nat.add_le_add_left (by split <;> omega) _)
  have hstrikes : (s.markCritical d).criticalStrikes d = false := by
    simp only [State.criticalStrikes, Bool.or_eq_false_iff, decide_eq_false_iff_not]
    omega
  rw [State.critical_of_new hc, hstrikes]
  rfl

/-- Any domain but a tile group Strikes the module. -/
theorem State.critical_of_other (hc : (s.dom d).critical = false) (hd : 64 ≤ d) : s.critical d = (s.logCritical d .strike).strike := by
  have hstrikes : (s.markCritical d).criticalStrikes d = true := by simp [State.criticalStrikes, hd]
  rw [State.critical_of_new hc, hstrikes]
  dsimp only
  rw [if_pos rfl, if_pos rfl]

/-- A reading of a domain that is not critical adds no critical group. -/
theorem State.Controlled.criticalGroups_sensed (h : s.Controlled d) : criticalGroups (s.sensed d j).doms ≤ criticalGroups s.doms := by
  refine (length_filter_tput_le _ s.doms d _).trans ?_
  simp [h.cool, criticalGroups]

theorem State.Controlled.logCritical_dom (h : s.Controlled d) (hd : Handling) : ((s.sensed d j).logCritical d hd).dom d =
    { s.dom d with junction := j, since := (s.dom d).since + 1, critical := true } := by
  rw [State.logCritical_dom, h.sensed_dom]

/-- From 105 degrees C a tile group is held with its record, and lowered. -/
theorem State.Controlled.thermalOne_critical (h : s.Controlled d) (hj : 840 ≤ j) (hd : d < 64) (hfew : criticalGroups s.doms < 3) :
    s.thermalOne s ⟨d, j⟩ = ((s.sensed d j).logCritical d .event).stepDown 8 d := by
  have hcool : ((s.sensed d j).dom d).critical = false := by rw [h.sensed_dom]; exact h.cool
  have hdom := h.logCritical_dom (j := j) .event
  have hon : ¬ ((s.sensed d j).logCritical d .event).domOn d = false := by
    rw [State.domOn, hdom]
    simpa [State.domOn] using h.on
  rw [State.thermalOne_eq j h.variableSetpoint h.on]
  dsimp only
  rw [if_pos hj, State.critical_of_few hcool hd (h.criticalGroups_sensed.trans_lt hfew), if_neg hon, if_pos (.inr (by rw [hdom])),
    State.lowerOnce, if_pos (by rw [hdom])]

/-- From 105 degrees C any other domain Strikes the module, which ends its control. -/
theorem State.Controlled.thermalOne_strikes (h : s.Controlled d) (hj : 840 ≤ j) (hd : 64 ≤ d) (hlinks : s.linksRun = true) :
    s.thermalOne s ⟨d, j⟩ = ((s.sensed d j).logCritical d .strike).strike := by
  have hcool : ((s.sensed d j).dom d).critical = false := by rw [h.sensed_dom]; exact h.cool
  have hstruck := State.strike_of_linksRun (s := (s.sensed d j).logCritical d .strike)
    (by rw [State.linksRun, State.logCritical, State.logErr_modState]; exact hlinks)
  have hd' := h.variableSetpoint
  rw [State.thermalOne_eq j hd' h.on]
  dsimp only
  rw [if_pos hj, State.critical_of_other hcool hd, if_pos (hstruck.domOn (by omega))]

/-! ### What THERMAL_SAMPLE answers -/

theorem State.unthrottled_dom (s : State) (d : Nat) : ∃ b, (s.unthrottled d).dom d = { s.dom d with thermal := b } := by
  unfold State.unthrottled
  split
  · exact ⟨false, State.dom_updDom s d _⟩
  · exact ⟨(s.dom d).thermal, rfl⟩
theorem State.unthrottled_dom_other (s : State) {d e : Nat} (he : e ≠ d) : (s.unthrottled d).dom e = s.dom e := by
  unfold State.unthrottled
  split
  · exact State.dom_updDom_other s d e _ he
  · rfl
theorem State.unthrottled_sansSetpoints (s : State) (d : Nat) : (s.unthrottled d).sansSetpoints = s.sansSetpoints := by
  unfold State.unthrottled
  split <;> rfl
theorem State.unthrottled_osc (s : State) (d n : Nat) : (s.unthrottled d).osc n = s.osc n := by
  unfold State.unthrottled
  split <;> rfl

/-- A throttled domain falls by one step with its record when throttling begins; others fall only with it. -/
theorem exec_thermalSample_hot (h : s.Controlled d) (hlo : 760 ≤ j) (hhi : j < 840) (hfloor : domFloor d < (s.dom d).mv) :
    ∃ u, exec (.thermalSample [⟨d, j⟩]) s = .next u ∧
      u.dom d = { s.dom d with mv := (s.dom d).mv - 10, junction := j, since := (s.dom d).since + 1, thermal := true } ∧
      (u.osc d).inWindow = true ∧ u.power.hottest = j ∧ (∀ e, (u.dom e).mv ≤ (s.dom e).mv) ∧
      ((∀ n ∈ (neighbours d).filter (fun n => s.domOn n), (s.dom n).mv ≤ (s.dom d).mv + 90) → ∀ e, e ≠ d → u.dom e = s.dom e) ∧
      ((s.dom d).thermal = true → u.log = s.log) ∧
      ((s.dom d).thermal = false → u.log.recs.head?.map (fun r => (r.body.code, r.body.handling, r.body.siteKind, r.body.site)) =
        some (0x2054, .event, .domain, siteNum d)) ∧
      u.slots = s.slots := by
  have hthermal : ((s.sensed d j).dom d).thermal = (s.dom d).thermal := by rw [h.sensed_dom]
  have hdom : ((s.sensed d j).throttled d).dom d = { s.dom d with junction := j, since := (s.dom d).since + 1, thermal := true } := by
    rw [State.throttled_dom, h.sensed_dom]
  have hother : ∀ e, e ≠ d → ((s.sensed d j).throttled d).dom e = s.dom e := fun e he => by
    rw [State.throttled_dom_other he, State.sensed_dom_other he]
  have hmv : ∀ e, (((s.sensed d j).throttled d).dom e).mv = (s.dom e).mv := fun e => by simp
  have hfalls : ((s.sensed d j).throttled d).Falls d := ⟨by simp [domVariable, h.variableSetpoint], by simp [h.on], by simpa using hfloor⟩
  have hlow := State.stepDown_lowers 8 ((s.sensed d j).throttled d) d
  refine ⟨_, exec_thermalSample_one s d j, ?_⟩
  rw [h.thermalOne_hot hlo hhi]
  refine ⟨(State.stepDown_dom 7 hfalls).trans (by rw [hdom]), State.stepDown_opens 7 hfalls, rfl, fun e => (hlow.mv_le e).trans_eq (hmv e),
    fun hnear e he => ?alone, fun ht => ?silent, fun ht => ?logged, ?slots⟩
  case alone =>
    show (State.stepDown 8 ((s.sensed d j).throttled d) d).dom e = _
    rw [State.stepDown_alone 7 hfalls, State.setMv_dom_other _ _ _ he, hother e he]
    intro n hn hon
    rw [hmv, hmv]
    exact hnear n (List.mem_filter.mpr ⟨hn, by simpa using hon⟩)
  case silent =>
    have hsame := State.throttled_of_thermal (hthermal.trans ht)
    exact hlow.log.trans (by rw [hsame]; rfl)
  case logged =>
    show (State.stepDown 8 ((s.sensed d j).throttled d) d).log.recs.head?.map _ = _
    rw [hlow.log, State.throttled_head (hthermal.trans ht)]
    rfl
  case slots => exact hlow.slots.trans (State.throttled_slots _ d)

/-- A domain up to 90 degrees C that may rise does so alone, without a record. -/
theorem exec_thermalSample_cool (h : s.Controlled d) (hj : j ≤ 720) (hcap : s.power.capOn = false) (hbusy : s.regionBusy d = false)
    (hceil : (s.dom d).mv + 10 ≤ s.ceiling d) (hsince : 9 ≤ (s.dom d).since)
    (hnear : ∀ n ∈ (neighbours d).filter (fun n => s.domOn n), (s.dom d).mv + 10 ≤ (s.dom n).mv + 100) :
    ∃ u, exec (.thermalSample [⟨d, j⟩]) s = .next u ∧ (u.dom d).mv = (s.dom d).mv + 10 ∧ (u.dom d).since = 0 ∧ (u.dom d).junction = j ∧
      (u.osc d).inWindow = true ∧ (∀ e, e ≠ d → u.dom e = s.dom e) ∧ u.log = s.log ∧ u.slots = s.slots := by
  have hrise : (s.sensed d j).RisesAlone d := by
    refine ⟨h.variableSetpoint, by simp [h.on], by rw [h.sensed_dom]; exact h.cool, hbusy, by rw [State.sensed_mv]; exact hceil,
      by rw [h.sensed_dom]; exact Nat.succ_le_succ hsince, fun n hn hon => ?_⟩
    rw [State.sensed_mv, State.sensed_mv]
    exact hnear n (List.mem_filter.mpr ⟨hn, by simpa using hon⟩)
  have hdom := (s.sensed d j).raised_dom d
  have hother : ∀ e, e ≠ d → ((s.sensed d j).raised d).dom e = s.dom e := fun e he => by
    rw [State.raised_dom_other _ he, State.sensed_dom_other he]
  have hwindow := State.raised_opens h.variableSetpoint hrise.on
  have hrest : ((s.sensed d j).raised d).sansSetpoints = s.sansSetpoints := (s.sensed d j).raised_sansSetpoints d
  rw [h.sensed_dom] at hdom
  refine ⟨_, exec_thermalSample_one s d j, ?_⟩
  rw [h.thermalOne_cool hj hcap hrise]
  generalize (s.sensed d j).raised d = t at hdom hother hwindow hrest
  obtain ⟨b, hb⟩ := t.unthrottled_dom d
  rw [hdom] at hb
  have hrest := (t.unthrottled_sansSetpoints d).trans hrest
  refine ⟨congrArg Domain.mv hb, congrArg Domain.since hb, congrArg Domain.junction hb, ?_,
    fun e he => (t.unthrottled_dom_other he).trans (hother e he), ?_, ?_⟩
  · show ((t.unthrottled d).osc d).inWindow = true
    rw [t.unthrottled_osc, hwindow]
  · show (t.unthrottled d).sansSetpoints.log = s.sansSetpoints.log
    rw [hrest]
  · show (t.unthrottled d).sansSetpoints.slots = s.sansSetpoints.slots
    rw [hrest]

/-- A critical tile group is lowered and logged. -/
theorem exec_thermalSample_critical (h : s.Controlled d) (hj : 840 ≤ j) (hd : d < 64) (hfew : criticalGroups s.doms < 3)
    (hfloor : domFloor d < (s.dom d).mv) :
    ∃ u, exec (.thermalSample [⟨d, j⟩]) s = .next u ∧ (u.dom d).critical = true ∧ (u.dom d).mv = (s.dom d).mv - 10 ∧ u.mod.state = s.mod.state ∧
      u.log.recs.head?.map (fun r => (r.body.code, r.body.handling, r.body.siteKind, r.body.site)) = some (0x2055, .event, .domain, siteNum d) ∧
      u.slots = s.slots := by
  have hdom := h.logCritical_dom (j := j) .event
  have hfalls : ((s.sensed d j).logCritical d .event).Falls d :=
    ⟨by simp [domVariable, h.variableSetpoint], by rw [State.domOn, hdom]; exact h.on, by rw [hdom]; exact hfloor⟩
  have hlow := State.stepDown_lowers 8 ((s.sensed d j).logCritical d .event) d
  have hfinal := State.stepDown_dom 7 hfalls
  rw [hdom] at hfinal
  refine ⟨_, exec_thermalSample_one s d j, ?_⟩
  rw [h.thermalOne_critical hj hd hfew]
  refine ⟨congrArg Domain.critical hfinal, congrArg Domain.mv hfinal, ?_, ?_, hlow.slots.trans (State.logErr_slots _ _)⟩
  · exact (congrArg Module.state hlow.mod).trans (State.logErr_modState _ _)
  · show (State.stepDown 8 ((s.sensed d j).logCritical d .event) d).log.recs.head?.map _ = _
    rw [hlow.log, State.logCritical, State.logErr_head]
    rfl

end

/-! ### A Strike for a domain, a rail or a regulator -/

/-- A record and then a Strike: Struck, with the record in the log. -/
theorem State.strike_after_record {s : State} (r : ErrRec) (h : s.linksRun = true) :
    (s.logErr r).strike.mod.state = .struck ∧ ⟨s.log.next, s.mod.ref, r⟩ ∈ (s.logErr r).strike.log.recs := by
  have hstruck := State.strike_of_linksRun (s := s.logErr r) (by rw [State.linksRun, State.logErr_modState]; exact h)
  exact ⟨hstruck.state, hstruck.log.mem_of_head (by omega) (s.logErr_head r)⟩

/-! ### A group retired for heat or for its regulator (R566, R567) -/

theorem exec_junctionCriticalTimeout (s : State) (d : Nat) : exec (.junctionCriticalTimeout d) s =
    .next (if d < 64 ∧ (s.dom d).critical then (s.retireGroup d 0x2055).dropDomain d else s) := rfl

/-- No crossing of a dropped domain is kept. -/
theorem State.dropDomain_crossings (s : State) (d : Nat) : ∀ c ∈ (s.dropDomain d).crossings, c.a ≠ d ∧ c.b ≠ d := by
  intro c hc
  simpa using (List.mem_filter.mp hc).2

/-- REGULATOR_FAULT of a tile group in operation: its record, and the group retires. -/
theorem exec_regulatorFault_group {s : State} {d : Nat} (hd : d < 64) (hon : s.domOn d = true) (hdark : s.mod.state ≠ .dark)
    (hdip : s.mod.state ≠ .dipping) : exec (.regulatorFault d) s =
      .next (((s.logErr { code := 0x2058, handling := .halfMast, siteKind := .domain, site := siteNum d }).retireGroup d 0x2058).dropDomain d) := by
  show Host.Outcome.next _ = _
  rw [if_neg (by simp [hdark]), if_neg (by simp [hdark, hdip, hon]), if_pos hd]

/-- REGULATOR_FAULT of any other domain or of a rail, in operation. -/
theorem exec_regulatorFault_other {s : State} {d : Nat} (hd : 64 ≤ d) (hlinks : s.linksRun = true) : exec (.regulatorFault d) s =
    .next ((s.logErr { code := 0x2058, handling := .strike, siteKind := .domain, site := siteNum d }).strike) := by
  have hstate : s.mod.state ≠ .dark ∧ s.mod.state ≠ .dipping := by
    obtain h | h | h := s.linksRun_iff.mp hlinks <;> simp [h]
  show Host.Outcome.next _ = _
  rw [if_neg (by simp [hstate]), if_neg (by simp [hstate]; omega), if_neg (by omega)]

/-- REGULATOR_FAULT in the power-on sequence. -/
theorem exec_regulatorFault_sequence {s : State} (d : Nat) (hdark : s.mod.state = .dark) (hrails : s.power.railsUp = true)
    (hscan : s.mod.boundaryScan = false) : exec (.regulatorFault d) s =
      .next (s.powerOnStop { code := 0x2058, siteKind := .domain, site := siteNum d }) :=
  congrArg Host.Outcome.next (if_pos ⟨hdark, hrails, by simp [hscan]⟩)

/-! ### POWER_CAP_SAMPLE (R514, R565) -/

/-- The input of a sample, which stands for 2,500 periods of the module reference (log 5). -/
def State.noteInput (s : State) (vin w die : Nat) : State :=
  { s with power := { s.power with vin := vin, inW := w, dieW := die }, mod := { s.mod with ref := (s.mod.ref + 2500) % 2 ^ 64 } }

@[simp] theorem State.noteInput_power (s : State) (vin w die : Nat) :
    (s.noteInput vin w die).power = { s.power with vin := vin, inW := w, dieW := die } := by unfold State.noteInput; rfl
@[simp] theorem State.noteInput_modRef (s : State) (vin w die : Nat) : (s.noteInput vin w die).mod.ref = (s.mod.ref + 2500) % 2 ^ 64 := by
  unfold State.noteInput; rfl
@[simp] theorem State.noteInput_slots (s : State) (vin w die : Nat) : (s.noteInput vin w die).slots = s.slots := by unfold State.noteInput; rfl
@[simp] theorem State.noteInput_slot (s : State) (vin w die p : Nat) : (s.noteInput vin w die).slot p = s.slot p := by
  rw [State.slot, State.noteInput_slots, State.slot]
@[simp] theorem State.noteInput_doms (s : State) (vin w die : Nat) : (s.noteInput vin w die).doms = s.doms := by unfold State.noteInput; rfl
@[simp] theorem State.noteInput_log (s : State) (vin w die : Nat) : (s.noteInput vin w die).log = s.log := by unfold State.noteInput; rfl

/-- Every pennant's energy of a sample. -/
def State.metered (s : State) : State := (List.range 16).foldl State.sampleEnergy s

theorem exec_powerCapSample {s : State} (vin w die : Nat) (calm : Bool) (hdark : s.mod.state ≠ .dark) (hdip : s.mod.state ≠ .dipping) :
    exec (.powerCapSample vin w die [] calm) s = .next ((s.noteInput vin w die).metered.capStep w calm) :=
  congrArg Host.Outcome.next (if_neg (by simp [hdark, hdip]))

/-- A slot's energy in pJ: its meter in uJ and the rest. -/
def Slot.energyTotal (x : Slot) : Nat := x.meters.v.getD 13 0 * 1000000 + x.pj

/-- Power of a slot's groups and granules in mW. -/
def State.slotPower (s : State) (p : Nat) : Nat :=
  (((s.slot p).granules.flatMap groupsOf).map (fun d => (s.dom d).mw)).sum + (s.slot p).granules.length * s.energy.getD 5 0

theorem State.noteInput_slotPower (s : State) (vin w die p : Nat) : (s.noteInput vin w die).slotPower p = s.slotPower p := by
  simp only [State.slotPower, State.noteInput_slot, State.dom, State.noteInput_doms]
  unfold State.noteInput
  rfl

theorem State.sampleEnergy_eq (s : State) (p : Nat) : s.sampleEnergy p = { s with slots := (s.sampleEnergy p).slots } := by
  unfold State.sampleEnergy
  dsimp only
  split <;> rfl
theorem State.sampleEnergy_length (s : State) (p : Nat) : (s.sampleEnergy p).slots.length = s.slots.length := by
  unfold State.sampleEnergy
  dsimp only
  split
  · rfl
  · exact s.updSlot_length p _
theorem State.sampleEnergy_slot_other (s : State) {p k : Nat} (h : k ≠ p) : (s.sampleEnergy p).slot k = s.slot k := by
  unfold State.sampleEnergy
  dsimp only
  split
  · rfl
  · exact s.slot_updSlot_other p k _ h

/-- The energy of one sample reaches the slot's total in full, across the carry into its meter. -/
theorem State.sampleEnergy_total (s : State) {p : Nat} (hp : p < s.slots.length) (hm : 13 < (s.slot p).meters.v.length) :
    ((s.sampleEnergy p).slot p).energyTotal = (s.slot p).energyTotal + s.slotPower p * 100000 := by
  by_cases hk : (s.slot p).granules = []
  · simp [State.sampleEnergy, State.slotPower, hk]
  · have hstep : s.sampleEnergy p = s.energyPj p (s.slotPower p * 100000) := if_neg hk
    rw [hstep, State.energyPj, State.slot_updSlot _ _ _ hp]
    simp only [Slot.energyTotal]
    rw [addAt_same _ _ _ hm]
    omega

theorem State.metering_slot_other (l : List Nat) (s : State) {p : Nat} (h : p ∉ l) : (l.foldl State.sampleEnergy s).slot p = s.slot p := by
  induction l generalizing s with
  | nil => rfl
  | cons q l ih =>
    obtain ⟨hq, hl⟩ := not_or.mp (List.mem_cons.not.mp h)
    rw [List.foldl_cons, ih _ hl, s.sampleEnergy_slot_other hq]

theorem State.metering_total (l : List Nat) (s : State) {p : Nat} (hl : l.Nodup) (hmem : p ∈ l) (hp : p < s.slots.length)
    (hm : 13 < (s.slot p).meters.v.length) :
    ((l.foldl State.sampleEnergy s).slot p).energyTotal = (s.slot p).energyTotal + s.slotPower p * 100000 := by
  induction l generalizing s with
  | nil => simp at hmem
  | cons q l ih =>
    obtain ⟨hq, hl⟩ := List.nodup_cons.mp hl
    rw [List.foldl_cons]
    by_cases h : p = q
    · subst h
      rw [State.metering_slot_other l _ hq, s.sampleEnergy_total hp hm]
    · have hslot := s.sampleEnergy_slot_other h
      have hpower : (s.sampleEnergy q).slotPower p = s.slotPower p := by
        rw [State.slotPower, hslot, s.sampleEnergy_eq q]
        rfl
      rw [ih _ hl ((List.mem_cons.mp hmem).resolve_left h) (by rwa [s.sampleEnergy_length]) (by rwa [hslot]), hslot, hpower]

theorem State.metering_eq (l : List Nat) (s : State) : l.foldl State.sampleEnergy s = { s with slots := (l.foldl State.sampleEnergy s).slots } := by
  induction l generalizing s with
  | nil => rfl
  | cons q l ih => rw [List.foldl_cons, ih, s.sampleEnergy_eq q]

theorem State.metered_doms (s : State) : s.metered.doms = s.doms := by rw [State.metered, State.metering_eq]
theorem State.metered_power (s : State) : s.metered.power = s.power := by rw [State.metered, State.metering_eq]
theorem State.metered_mod (s : State) : s.metered.mod = s.mod := by rw [State.metered, State.metering_eq]
theorem State.metered_log (s : State) : s.metered.log = s.log := by rw [State.metered, State.metering_eq]

/-- What the input and the meters of a sample leave, before the cap is looked at. -/
structure State.Sampled (s : State) (vin w die : Nat) (t : State) : Prop where
  energy : ∀ p < 16, (t.slot p).energyTotal = (s.slot p).energyTotal + s.slotPower p * 100000
  doms : t.doms = s.doms
  log : t.log = s.log
  power : t.power = { s.power with vin := vin, inW := w, dieW := die }
  modRef : t.mod.ref = (s.mod.ref + 2500) % 2 ^ 64

theorem State.noteInput_sampled {s : State} (vin w die : Nat) (hlen : s.slots.length = 16) (hm : ∀ p < 16, 13 < (s.slot p).meters.v.length) :
    s.Sampled vin w die (s.noteInput vin w die).metered := by
  refine ⟨fun p hp => ?_, by rw [State.metered_doms, State.noteInput_doms], by rw [State.metered_log, State.noteInput_log],
    by rw [State.metered_power, State.noteInput_power], by rw [State.metered_mod, State.noteInput_modRef]⟩
  have htotal := State.metering_total (p := p) (List.range 16) (s.noteInput vin w die) List.nodup_range (List.mem_range.mpr hp)
  simp only [State.noteInput_slots, State.noteInput_slot, State.noteInput_slotPower] at htotal
  exact htotal (by omega) (hm p hp)

/-! ### The power cap (R565) -/

/-- The cap engages with a record, once. -/
def State.capEngaged (s : State) (w : Nat) : State :=
  if s.power.capOn then s else ({ s with power := { s.power with capOn := true } }).logErr { code := 0x2056, detail0 := w }

theorem State.capEngaged_doms (s : State) (w : Nat) : (s.capEngaged w).doms = s.doms := by
  unfold State.capEngaged
  split
  · rfl
  · rw [State.logErr_doms]
theorem State.capEngaged_slots (s : State) (w : Nat) : (s.capEngaged w).slots = s.slots := by
  unfold State.capEngaged
  split
  · rfl
  · rw [State.logErr_slots]
theorem State.capEngaged_modRef (s : State) (w : Nat) : (s.capEngaged w).mod.ref = s.mod.ref := by
  unfold State.capEngaged
  split
  · rfl
  · rw [State.logErr_modRef]
theorem State.capEngaged_power (s : State) (w : Nat) : (s.capEngaged w).power = { s.power with capOn := true } := by
  unfold State.capEngaged
  split
  next h => rw [← h]
  next => rw [State.logErr_power]
theorem State.capEngaged_of_on {s : State} (w : Nat) (h : s.power.capOn = true) : s.capEngaged w = s := if_pos h
theorem State.capEngaged_head {s : State} (w : Nat) (h : s.power.capOn = false) :
    (s.capEngaged w).log.recs.head? = some ⟨s.log.next, s.mod.ref, { code := 0x2056, detail0 := w }⟩ := by
  rw [State.capEngaged, if_neg (by simp [h]), State.logErr_head]

/-- Tile groups that are on. -/
def State.groupsOn (s : State) : List Nat := (List.range 64).filter (fun d => s.domOn d)
theorem State.mem_groupsOn {s : State} {d : Nat} : d ∈ s.groupsOn ↔ d < 64 ∧ s.domOn d = true := by
  rw [State.groupsOn, List.mem_filter, List.mem_range]

theorem State.capEngaged_domOn (s : State) (w d : Nat) : (s.capEngaged w).domOn d = s.domOn d := by
  rw [State.domOn, State.dom, s.capEngaged_doms]
  rfl
theorem State.capEngaged_groupsOn (s : State) (w : Nat) : (s.capEngaged w).groupsOn = s.groupsOn := by
  simp only [State.groupsOn, s.capEngaged_domOn]

/-- One group under a cap that began to act in `s0`. -/
def State.capFall (s0 s : State) (d : Nat) : State := (s0.lowerOnce s d).updDom d (fun x => { x with cap := true })

theorem State.capStep_above {s : State} {w : Nat} (calm : Bool) (h : s.power.capW < w) :
    s.capStep w calm = (s.capEngaged w).groupsOn.foldl (State.capFall (s.capEngaged w)) (s.capEngaged w) := by
  rw [s.capEngaged_groupsOn, State.capStep]
  exact if_pos h
theorem State.capStep_below {s : State} {w : Nat} (calm : Bool) (h : w ≤ s.power.capW) (hcap : s.power.capOn = false) : s.capStep w calm = s := by
  rw [State.capStep]
  exact (if_neg (by omega)).trans (if_neg (by simp [hcap]))

theorem State.lowerOnce_lowers (s0 s : State) (d : Nat) : s.Lowers (s0.lowerOnce s d) := by
  unfold State.lowerOnce
  split
  · exact State.stepDown_lowers 8 s d
  · exact .refl s
theorem State.noteCap_lowers (s : State) (d : Nat) : s.Lowers (s.updDom d (fun x => { x with cap := true })) := by
  have hdom : ∀ e, ∃ c, ((s.dom e).cap = true → c = true) ∧ (s.updDom d (fun x => { x with cap := true })).dom e = { s.dom e with cap := c } := by
    intro e
    by_cases he : e = d
    · subst he
      exact ⟨true, fun _ => rfl, s.dom_updDom e _⟩
    · exact ⟨_, id, s.dom_updDom_other d e _ he⟩
  refine ⟨rfl, fun e => ?_, fun e => ?_, fun e hc => ?_, fun _ h => h⟩ <;> obtain ⟨c, hcap, hd⟩ := hdom e <;> rw [hd]
  · exact .inl rfl
  · exact hcap hc
theorem State.capFall_lowers (s0 s : State) (d : Nat) : s.Lowers (s0.capFall s d) :=
  (s0.lowerOnce_lowers s d).trans (State.noteCap_lowers _ d)

section
variable {s0 s : State} {d : Nat}

/-- A group under the cap is marked, and stands at least one step below where the cap found it, unless that was its floor. -/
def State.Capped (s0 : State) (d : Nat) (u : State) : Prop :=
  (u.dom d).cap = true ∧ (domFloor d < (s0.dom d).mv → (u.dom d).mv + 10 ≤ (s0.dom d).mv)

theorem State.Capped.of_lowers {t u : State} (h : s0.Capped d t) (k : t.Lowers u) : s0.Capped d u :=
  let ⟨hcap, hfell⟩ := h
  ⟨k.cap d hcap, fun hf => (Nat.add_le_add_right (k.mv_le d) 10).trans (hfell hf)⟩

theorem State.capFall_capped (hs : s0.Lowers s) (hd : d < 64) (hon : s0.domOn d = true) : s0.Capped d (s0.capFall s d) := by
  refine ⟨by simp [State.capFall], fun hfloor => ?_⟩
  have hge := domFloor_ge d
  simp only [State.capFall, State.dom_updDom]
  rw [State.lowerOnce]
  split
  next heq =>
    rw [State.stepDown_dom 7 ⟨by simp [domVariable]; omega, (hs.domOn d).trans hon, heq ▸ hfloor⟩]
    simp only [heq]
    omega
  next hne => exact (hs.mv d).resolve_left hne

/-- Every group that is on is under the cap once the cap has acted on each. -/
theorem State.capFall_all (l : List Nat) (hs : s0.Lowers s) (hl : ∀ d ∈ l, d < 64 ∧ s0.domOn d = true) :
    ∀ d ∈ l, s0.Capped d (l.foldl (State.capFall s0) s) := by
  induction l generalizing s with
  | nil => simp
  | cons m l ih =>
    obtain ⟨hm, hl⟩ := List.forall_mem_cons.mp hl
    refine List.forall_mem_cons.mpr ⟨?_, ih (hs.trans (State.capFall_lowers s0 s m)) hl⟩
    exact (State.capFall_capped hs hm.1 hm.2).of_lowers (.foldl _ (State.capFall_lowers s0) l _)

/-- Neighbours of a tile group have variable setpoints (Table 15.3). -/
theorem lt_of_mem_neighbours {n : Nat} (hd : d < 64) (h : n ∈ neighbours d) : n < 68 := by
  have hadj := (List.mem_filter.mp h).2
  by_contra hn
  simp [adjacent, show ¬ n < 64 by omega, show ¬ 64 ≤ d by omega, show ¬ n < 68 by omega] at hadj

/-- Where no domain stands more than 90 mV above a group, the cap lowers it alone and by one step. -/
theorem State.capFall_level {m : Nat} (hd : d < 64) (hm : 600 < m) (hon : s.domOn d = true) (hmv : (s.dom d).mv = m) (h0 : (s0.dom d).mv = m)
    (hlevel : ∀ e < 68, s.domOn e = true → (s.dom e).mv ≤ m + 90) :
    ((s0.capFall s d).dom d).mv = m - 10 ∧ ∀ e, e ≠ d → (s0.capFall s d).dom e = s.dom e := by
  have hfalls : s.Falls d := ⟨by simp [domVariable]; omega, hon, by simpa [domFloor, hd, hmv] using hm⟩
  have hstep : s0.lowerOnce s d = s.setMv d (m - 10) := by
    rw [State.lowerOnce, if_pos (hmv.trans h0.symm),
      State.stepDown_alone 7 hfalls (fun n hn hon => hmv ▸ hlevel n (lt_of_mem_neighbours hd hn) hon), hmv]
  refine ⟨by simp [State.capFall, hstep], fun e he => ?_⟩
  rw [State.capFall, hstep, State.dom_updDom_other _ _ _ _ he, State.setMv_dom_other _ _ _ he]

theorem State.capFall_all_level {m : Nat} (l : List Nat) (hl : l.Nodup) (hm : 600 < m) (hon : ∀ d ∈ l, d < 64 ∧ s.domOn d = true)
    (hmv : ∀ d ∈ l, (s.dom d).mv = m) (h0 : ∀ d ∈ l, (s0.dom d).mv = m) (hlevel : ∀ e < 68, s.domOn e = true → (s.dom e).mv ≤ m + 90) :
    (∀ d ∈ l, ((l.foldl (State.capFall s0) s).dom d).mv = m - 10) ∧ ∀ e ∉ l, (l.foldl (State.capFall s0) s).dom e = s.dom e := by
  induction l generalizing s with
  | nil => simp
  | cons a l ih =>
    obtain ⟨ha, hl⟩ := List.nodup_cons.mp hl
    simp only [List.forall_mem_cons] at hon hmv h0
    obtain ⟨hself, hother⟩ := State.capFall_level hon.1.1 hm hon.1.2 hmv.1 h0.1 hlevel
    have hlow := State.capFall_lowers s0 s a
    obtain ⟨hin, hout⟩ := ih (s := s0.capFall s a) hl (fun d hd => ⟨(hon.2 d hd).1, (hlow.domOn d).trans (hon.2 d hd).2⟩)
      (fun d hd => by rw [hother d (fun h => ha (h ▸ hd))]; exact hmv.2 d hd) h0.2
      (fun e he hone => (hlow.mv_le e).trans (hlevel e he ((hlow.domOn e).symm.trans hone)))
    refine ⟨List.forall_mem_cons.mpr ⟨?_, hin⟩, fun e he => ?_⟩
    · rw [List.foldl_cons, hout a ha, hself]
    · obtain ⟨hea, hel⟩ := not_or.mp (List.mem_cons.not.mp he)
      rw [List.foldl_cons, hout e hel, hother e hea]

end

section
variable {s t u : State} {vin w die : Nat}

/-- What a sample leaves once the cap has been looked at: input, reference and the energy of every slot. -/
def State.SampleKept (s : State) (vin w die : Nat) (u : State) : Prop :=
  u.power.vin = vin ∧ u.power.inW = w ∧ u.power.dieW = die ∧ u.mod.ref = (s.mod.ref + 2500) % 2 ^ 64 ∧
    ∀ p < 16, (u.slot p).energyTotal = (s.slot p).energyTotal + s.slotPower p * 100000

theorem State.Sampled.kept (h : s.Sampled vin w die t) {b : Bool} (hslots : u.slots = t.slots) (href : u.mod.ref = t.mod.ref)
    (hpower : u.power = { t.power with capOn := b }) : s.SampleKept vin w die u := by
  rw [h.power] at hpower
  refine ⟨by rw [hpower], by rw [hpower], by rw [hpower], href.trans h.modRef, fun p hp => ?_⟩
  rw [State.slot, hslots]
  exact h.energy p hp

/-- A sample above the cap: the cap is engaged, with a record if it was not, and every tile group that is on falls. -/
theorem exec_powerCapSample_above (calm : Bool) (hlen : s.slots.length = 16) (hdark : s.mod.state ≠ .dark) (hdip : s.mod.state ≠ .dipping)
    (hmeters : ∀ p < 16, 13 < (s.slot p).meters.v.length) (hw : s.power.capW < w) :
    ∃ u, exec (.powerCapSample vin w die [] calm) s = .next u ∧ s.SampleKept vin w die u ∧ u.power.capOn = true ∧
      (∀ d, d < 64 ∧ s.domOn d = true → s.Capped d u) ∧
      (∀ m, 600 < m → (∀ d, d < 64 ∧ s.domOn d = true → (s.dom d).mv = m) →
        (∀ d, 64 ≤ d → d < 68 → s.domOn d = true → (s.dom d).mv ≤ m + 90) → ∀ d, d < 64 ∧ s.domOn d = true → (u.dom d).mv = m - 10) ∧
      (s.power.capOn = true → u.log = s.log) ∧
      (s.power.capOn = false → u.log.recs.head?.map (fun r => (r.body.code, r.body.handling, r.body.detail0)) = some (0x2056, .event, w)) := by
  have ht := State.noteInput_sampled (s := s) vin w die hlen hmeters
  rw [exec_powerCapSample vin w die calm hdark hdip]
  generalize (s.noteInput vin w die).metered = t at ht
  have hcapOn : t.power.capOn = s.power.capOn := by rw [ht.power]
  have hdom : (t.capEngaged w).dom = s.dom := funext fun d => by rw [State.dom, t.capEngaged_doms, ht.doms, State.dom]
  have hon : ∀ d, (t.capEngaged w).domOn d = s.domOn d := fun d => by rw [State.domOn, hdom, State.domOn]
  have hmem : ∀ d, d ∈ (t.capEngaged w).groupsOn ↔ d < 64 ∧ s.domOn d = true := fun d => by rw [State.mem_groupsOn, hon]
  have hlow := State.Lowers.foldl _ (State.capFall_lowers (t.capEngaged w)) (t.capEngaged w).groupsOn (t.capEngaged w)
  have hpower := hlow.power.trans (t.capEngaged_power w)
  refine ⟨_, rfl, ?_⟩
  rw [State.capStep_above calm (by rw [ht.power]; exact hw)]
  refine ⟨ht.kept (hlow.slots.trans (t.capEngaged_slots w)) ((congrArg Module.ref hlow.mod).trans (t.capEngaged_modRef w)) hpower,
    by rw [hpower], fun d hd => ?capped, fun m hm hlevel hfabrics d hd => ?level, fun hc => ?silent, fun hc => ?logged⟩
  case capped =>
    have h := State.capFall_all (t.capEngaged w).groupsOn (.refl _) (fun d hd => State.mem_groupsOn.mp hd) d ((hmem d).mpr hd)
    simpa only [State.Capped, hdom] using h
  case level =>
    have hmv : ∀ d ∈ (t.capEngaged w).groupsOn, ((t.capEngaged w).dom d).mv = m := fun d hd => by rw [hdom]; exact hlevel d ((hmem d).mp hd)
    refine (State.capFall_all_level _ (List.nodup_range.filter _) hm (fun d hd => State.mem_groupsOn.mp hd) hmv hmv ?_).1 d ((hmem d).mpr hd)
    intro e he hone
    rw [hon] at hone
    rw [hdom]
    by_cases h : e < 64
    · exact (hlevel e ⟨h, hone⟩).trans_le (Nat.le_add_right m 90)
    · exact hfabrics e (by omega) he hone
  case silent => rw [hlow.log, State.capEngaged_of_on w (hcapOn.trans hc), ht.log]
  case logged =>
    rw [hlow.log, State.capEngaged_head w (hcapOn.trans hc)]
    rfl

/-- A sample at or below a cap that is not engaged moves no setpoint. -/
theorem exec_powerCapSample_below (calm : Bool) (hlen : s.slots.length = 16) (hdark : s.mod.state ≠ .dark) (hdip : s.mod.state ≠ .dipping)
    (hmeters : ∀ p < 16, 13 < (s.slot p).meters.v.length) (hw : w ≤ s.power.capW) (hcap : s.power.capOn = false) :
    ∃ u, exec (.powerCapSample vin w die [] calm) s = .next u ∧ s.SampleKept vin w die u ∧ u.doms = s.doms ∧ u.log = s.log ∧
      u.power.capOn = false := by
  have ht := State.noteInput_sampled (s := s) vin w die hlen hmeters
  rw [exec_powerCapSample vin w die calm hdark hdip]
  generalize (s.noteInput vin w die).metered = t at ht
  have hcapOn : t.power.capOn = false := by rw [ht.power]; exact hcap
  refine ⟨_, rfl, ?_⟩
  rw [State.capStep_below calm (by rw [ht.power]; exact hw) hcapOn]
  exact ⟨ht.kept (b := false) rfl rfl (by rw [← hcapOn]), ht.doms, ht.log, hcapOn⟩

end

/-! ### Coolant and bank (R568, R578) -/

/-- The coolant's reading, and whether its rise is above 20 degrees C. -/
def State.noteCoolant (s : State) (i o : Int) : State :=
  { s with power := { s.power with inlet := i, outlet := o, coolantHigh := decide (i + 160 < o) } }

theorem exec_coolantRiseHigh {s : State} (i o : Int) (hdark : s.mod.state ≠ .dark) (hdip : s.mod.state ≠ .dipping) :
    exec (.coolantRiseHigh i o) s = .next (if i + 160 < o ∧ s.power.coolantHigh = false then (s.noteCoolant i o).logErr { code := 0x2059 }
      else s.noteCoolant i o) := by
  show Host.Outcome.next _ = _
  rw [if_neg (by simp [hdark, hdip])]
  simp [State.noteCoolant]

/-- The bank counts as failed: outcome 4 without a new measurement. -/
def State.bankFailed (s : State) (mv : Nat) : State := { s with power := { s.power with bankMv := mv }, bank := { s.bank with outcome := 4 } }

theorem exec_vbankLow_low {s : State} {mv : Nat} (hlinks : s.linksRun = true) (hmv : mv < 48000) : exec (.vbankLow mv) s =
    .next (if s.bank.outcome = 4 then s.bankFailed mv
      else ((s.bankFailed mv).logErr { code := 0x2052, handling := .halfMast }).halfMast 0x2052) :=
  congrArg Host.Outcome.next (if_pos ⟨s.linksRun_iff.mp hlinks, hmv⟩)

/-- VBANK_LOW in operation: a bank that had not failed leaves its record and a Half-mast cause. -/
theorem exec_vbankLow_fails {s : State} {mv : Nat} (hlinks : s.linksRun = true) (hmv : mv < 48000) :
    ∃ u, exec (.vbankLow mv) s = .next u ∧ u.bank = { s.bank with outcome := 4 } ∧ u.power.bankMv = mv ∧ u.slots = s.slots ∧
      (s.bank.outcome = 4 → u.log = s.log ∧ u.mod = s.mod) ∧
      (s.bank.outcome ≠ 4 → ⟨s.log.next, s.mod.ref, { code := 0x2052, handling := .halfMast }⟩ ∈ u.log.recs ∧ 0x2052 ∈ u.mod.causes ∧
        (s.mod.state = .hoisted → u.mod.state = .halfMast)) := by
  rw [exec_vbankLow_low hlinks hmv]
  by_cases hout : s.bank.outcome = 4
  · rw [if_pos hout]
    exact ⟨_, rfl, rfl, rfl, rfl, fun _ => ⟨rfl, rfl⟩, fun h => absurd hout h⟩
  · rw [if_neg hout]
    have hhead := (s.bankFailed mv).logErr_head { code := 0x2052, handling := .halfMast }
    have hm := ((s.bankFailed mv).logErr { code := 0x2052, handling := .halfMast }).halfMast_from 0x2052
    refine ⟨_, rfl, ?_, ?_, ?_, fun h => absurd h hout, fun _ => ⟨hm.log.mem_of_head (by omega) hhead, hm.cause, fun hh => hm.state ?_⟩⟩
    · rw [hm.bank, State.logErr_bank]; rfl
    · rw [hm.power, State.logErr_power]; rfl
    · rw [hm.slots, State.logErr_slots]; rfl
    · rw [State.logErr_modState]; exact hh

/-- Settles O59: one domain's reading lowers it, holds it, raises it or marks it critical by its range; a group without a working
regulator or still critical retires; a sample above the cap lowers every tile group, and one below it meters alone. -/
theorem powerControllerResponds : Obligations.PowerControllerResponds := by
  unfold Obligations.PowerControllerResponds
  refine ⟨fun s => ⟨fun hdark hdip => ?ride, fun h => ?noRide⟩, fun s d j hd hon hcool htarget => ?thermal, fun s d hlen hd => ?group,
    fun s d hlen => ⟨fun hd hlinks => ?regulator, fun hdark hrails hscan => ?sequence⟩, fun s vin w die calm hlen hdark hdip hmeters => ?cap,
    fun s i o hdark hdip => ?coolant, fun s mv => ⟨fun hlinks hmv => exec_vbankLow_fails hlinks hmv, fun hmv => ?bankHigh⟩⟩
  case ride => exact congrArg Host.Outcome.next (if_neg (by simp [hdark, hdip]))
  case noRide => exact congrArg Host.Outcome.next (if_pos h)
  case thermal =>
    have h : s.Controlled d := ⟨hd, hon, hcool, htarget⟩
    refine ⟨exec_thermalSample_hot h, fun hlo hhi => ?warm, exec_thermalSample_cool h,
      fun hj hfew hgroup _ hfloor => exec_thermalSample_critical h hj hgroup hfew hfloor, fun hj hother _ hlinks => ?strikes⟩
    case warm =>
      rw [exec_thermalSample_one, h.thermalOne_warm hlo hhi, State.sensed, State.updDom, hcool]
      rfl
    case strikes =>
      refine ⟨_, exec_thermalSample_one s d j, ?_⟩
      rw [h.thermalOne_strikes hj hother hlinks, State.logCritical]
      exact State.strike_after_record (s := (s.sensed d j).markCritical d) _ hlinks
  case group =>
    refine ⟨fun hc => ?_, fun hc hnew => ?_, fun hon hnew hdark hdip => ?_⟩
    · rw [exec_junctionCriticalTimeout, if_neg (by simp [hc])]
    · rw [exec_junctionCriticalTimeout, if_pos ⟨hd, hc⟩]
      have hret := State.retireGroup_retires 0x2055 hnew
      exact ⟨_, rfl, hret.retired, hret.domain, hret.granule, State.dropDomain_crossings _ d, hret.record, hret.halfMast⟩
    · have hrec := s.logErr_records { code := 0x2058, handling := .halfMast, siteKind := .domain, site := siteNum d }
      have hret := State.retireGroup_retires (d := d) 0x2058
        (s := s.logErr { code := 0x2058, handling := .halfMast, siteKind := .domain, site := siteNum d }) (by rw [hrec.spare]; exact hnew)
      have hhalf := hret.halfMast
      rw [hrec.modState, hrec.spare] at hhalf
      exact ⟨_, exec_regulatorFault_group hd hon hdark hdip, ⟨hret.retired, hret.domain, hret.granule, State.dropDomain_crossings _ d, hret.record,
        hhalf⟩, hret.log.mem_of_head (by omega) (s.logErr_head _)⟩
  case regulator => exact ⟨_, exec_regulatorFault_other hd hlinks, State.strike_after_record _ hlinks⟩
  case sequence =>
    refine ⟨_, exec_regulatorFault_sequence d hdark hrails hscan, rfl, rfl, rfl, by simp [State.canTurnOn, State.powerOnStop], ?_⟩
    exact State.logErr_newest s _
  case cap =>
    exact ⟨exec_powerCapSample_above calm hlen hdark hdip hmeters, exec_powerCapSample_below calm hlen hdark hdip hmeters⟩
  case coolant =>
    rw [exec_coolantRiseHigh i o hdark hdip]
    refine ⟨_, rfl, ?_⟩
    split
    next h =>
      refine ⟨by rw [State.logErr_power]; rfl, by rw [State.logErr_slots]; rfl, fun hno => ?_, fun _ _ => State.logErr_newest _ _⟩
      obtain hno | hno := hno
      · omega
      · simp [h.2] at hno
    next h => exact ⟨rfl, rfl, fun _ => rfl, fun hhigh hnew => absurd ⟨hhigh, hnew⟩ h⟩
  case bankHigh => exact congrArg Host.Outcome.next (if_neg (by omega))

end Sys2Proof.Machine
end

section
/-! PROOFS. The bounds of Proving's steps (R591, R477): what a step that exceeds its bound leaves. -/

namespace Sys2Proof.Machine

/-! ### The end of a Strike (R477) -/

@[simp] theorem State.logErr_ring (s : State) (r : ErrRec) : (s.logErr r).ring = s.ring := by rw [State.logErr_eq]
@[simp] theorem State.strikeDown_bypass (s : State) : s.strikeDown.ring.bypass = 0 := rfl

theorem State.strike_eq {s : State} (h : s.mod.state = .proving ∨ s.mod.state = .joining ∨ s.mod.state = .hoisted ∨ s.mod.state = .halfMast) :
    s.strike = s.haltAll.strikeDown.logErr { code := 0x8341, handling := .strike } := by
  simp only [State.strike, if_pos h, State.strikeDown, State.haltAll]

theorem State.faultLow_of_struck {s : State} (h : s.mod.state = .struck) : s.faultLow = true := by
  simp [State.faultLow, h]

/-! ### A step that exceeds its bound (R591) -/

/-- A module in step `n` of Proving: the steps before it are complete. -/
def State.inStep (s : State) (n : Nat) : State :=
  { s with mod := { s.mod with state := .proving }, prov := { s.prov with lastStep := n - 1 } }
@[simp] theorem State.inStep_log (s : State) (n : Nat) : (s.inStep n).log = s.log := rfl
@[simp] theorem State.inStep_modRef (s : State) (n : Nat) : (s.inStep n).mod.ref = s.mod.ref := rfl
@[simp] theorem State.inStep_modState (s : State) (n : Nat) : (s.inStep n).mod.state = .proving := rfl

/-- The record of step `n`'s bound. -/
def stepBoundRec (n : Nat) : ErrRec := { code := 0x1109, handling := .strike, detail0 := n }

theorem exec_provingStepTimeout_strikes {s : State} (n : Nat) (h : s.mod.state = .proving ∨ s.canProve = true) :
    exec (.provingStepTimeout n) s = .next ((s.inStep n).logErr (stepBoundRec n)).strike :=
  congrArg Host.Outcome.next (if_pos h.symm)

theorem exec_provingStepTimeout_idle {s : State} (n : Nat) (hstate : s.mod.state ≠ .proving) (hready : s.canProve = false) :
    exec (.provingStepTimeout n) s = .next s :=
  congrArg Host.Outcome.next (if_neg (by simp [hstate, hready]))

/-- Settles O58: a module that proves itself, or can begin to, logs the step's record in Proving, a state that can strike; the
halts of the Strike add fewer records than the log holds, so the step's record is still there under 0x8341. -/
theorem provingTimeoutStrikes : Obligations.ProvingTimeoutStrikes := by
  unfold Obligations.ProvingTimeoutStrikes
  refine fun s n _ _ _ => ⟨fun h => ⟨_, exec_provingStepTimeout_strikes n h, ?_⟩, exec_provingStepTimeout_idle n⟩
  have hhead := (s.inStep n).logErr_head (stepBoundRec n)
  have hproving : ((s.inStep n).logErr (stepBoundRec n)).mod.state = .proving := by simp
  generalize (s.inStep n).logErr (stepBoundRec n) = t at hhead hproving
  have hstruck := State.strike_struck (.inl hproving)
  refine ⟨hstruck.log.mem_of_head (by omega) hhead, hstruck.state, State.faultLow_of_struck hstruck.state, ?newest, ?bypass,
    fun d hd => hstruck.domOn hd⟩
  case newest =>
    rw [State.strike_eq (.inl hproving)]
    exact State.logErr_newest _ _
  case bypass => simp [State.strike_eq (.inl hproving)]

end Sys2Proof.Machine
end

section
/-! PROOFS. Test mode, loopbacks, the stall tile and the log (17 R608 to R625, 12 R481): who reaches their subindexes, what each
write answers and leaves, and how a loopback ends. -/

namespace Sys2Proof.Machine

/-! ### Who reaches a subindex (R525, R553) -/

/-- The access code of a subindex in the dictionary: digit 0 the host operator's, digit 2 the maintainer's. -/
def entryAcc (ix sub digit : Nat) : Acc :=
  ((famOf ix).bind (fun f => f.sub sub)).elim .none (fun e => accOf (codeDigit e.codes digit))

/-- Every index but those of the log's records is there at all times. -/
theorem State.present_of_not_record (s : State) {ix : Nat} (h : ix < 0x8800 ∨ 0x8C00 ≤ ix) : s.present ix = true :=
  if_neg (by omega)

/-- The digit of an access code that is the host operator's or the maintainer's. -/
def OwnDigit (who : Principal) (digit : Nat) : Prop := who = .host ∧ digit = 0 ∨ who = .maint ∧ digit = 2

/-- What these two reach is what the dictionary says. -/
theorem State.reach_eq_entryAcc (s : State) {via : Via} {ix digit : Nat} (sub : Nat) (hwho : OwnDigit via.who digit)
    (hix : s.present ix = true) : s.reach via ix sub = entryAcc ix sub digit := by
  unfold State.reach entryAcc
  cases famOf ix with
  | none => rfl
  | some f =>
    obtain ⟨hwho, rfl⟩ | ⟨hwho, rfl⟩ := hwho
    · cases hsub : f.sub sub <;> simp [hsub, hix, hwho]
    · cases hsub : f.sub sub <;> simp [hsub, hix, hwho]

/-- TEST_MODE is the maintainer's alone; a peer may read it at most. -/
theorem State.reach_testMode_of_not_maint (s : State) {via : Via} (hwho : via.who ≠ .maint) :
    s.reach via 0x9004 1 = .none ∨ s.reach via 0x9004 1 = .ro := by
  have hfam : famOf 0x9004 = some (recs 0x9004 1 0 [ent 1 tBool 0x0020 0 0 0, ent 2 tBool 0x0020 0 0 0]) := by decide
  have hsub : (recs 0x9004 1 0 [ent 1 tBool 0x0020 0 0 0, ent 2 tBool 0x0020 0 0 0]).sub 1 = some (ent 1 tBool 0x0020 0 0 0) := rfl
  have hpresent := s.present_of_not_record (ix := 0x9004) (by omega)
  have hcode : ∀ i ∈ [0, 1, 3], accOf (codeDigit (ent 1 tBool 0x0020 0 0 0).codes i) = .none := by decide
  simp only [State.reach, hfam, hsub, hpresent]
  cases h : via.who with
  | maint => exact absurd h hwho
  | host => simp [hcode]
  | vendor => simp [hcode]
  | tenant => simp [hcode]
  | peer => simp only [not_true_eq_false, if_false]; split <;> simp
  | anonymous => simp

/-- A module that serves does a write that the principal's code allows. -/
theorem State.guard_of_writable {s : State} (hs : Safety.Serves s) {via : Via} {ix sub : Nat} (f : State → State)
    (h : s.reach via ix sub = .rw ∨ s.reach via ix sub = .wo) : s.guard via ix sub f = f s := by
  obtain ⟨hdark, hdipping, hlimited⟩ := hs
  have hacc : s.accFor via ix sub = s.reach via ix sub := by simp [State.accFor, hlimited]
  unfold State.guard
  split
  · contradiction
  · contradiction
  · rw [hacc]
    obtain h | h := h <;> rw [h]

/-- A write without an access code that allows it answers at most. -/
theorem State.guard_of_not_writable (s : State) {via : Via} {ix sub : Nat} (f : State → State)
    (h : s.reach via ix sub = .none ∨ s.reach via ix sub = .ro) :
    s.guard via ix sub f = s ∨ ∃ st, s.guard via ix sub f = s.answer st := by
  have hacc : s.accFor via ix sub = .none ∨ s.accFor via ix sub = .ro := by
    unfold State.accFor
    split
    · exact .inl rfl
    · exact h
  unfold State.guard
  split
  · exact .inl rfl
  · exact .inr ⟨_, rfl⟩
  · obtain h | h := hacc <;> rw [h] <;> exact .inr ⟨_, rfl⟩

section
variable {s : State} {via : Via} (hs : Safety.Serves s)
include hs

/-- A write of host operator or maintainer to a subindex whose entry allows it. -/
theorem State.guard_of_entry {ix sub digit : Nat} (hwho : OwnDigit via.who digit) (f : State → State) (hix : ix < 0x8800 ∨ 0x8C00 ≤ ix)
    (hcode : entryAcc ix sub digit = .rw ∨ entryAcc ix sub digit = .wo) : s.guard via ix sub f = f s :=
  State.guard_of_writable hs f (by rwa [s.reach_eq_entryAcc sub hwho (s.present_of_not_record hix)])

/-! ### The commands, by the write each is -/

theorem exec_testMode (hwho : via.who = .maint) (v : Nat) : exec (.testMode via v) s = .next (s.writeTestMode v) :=
  congrArg Host.Outcome.next (State.guard_of_entry hs (.inr ⟨hwho, rfl⟩) _ (by omega) (by decide))
theorem exec_flyLaneDisabled (hwho : via.who = .maint) (v : Nat) : exec (.flyLaneDisabled via v) s = .next (s.writeFlyOff v) :=
  congrArg Host.Outcome.next (State.guard_of_entry hs (.inr ⟨hwho, rfl⟩) _ (by omega) (by decide))
theorem exec_deepModeTestEnable (hwho : via.who = .maint) (v : Nat) : exec (.deepModeTestEnable via v) s = .next (s.writeDeep v) :=
  congrArg Host.Outcome.next (State.guard_of_entry hs (.inr ⟨hwho, rfl⟩) _ (by omega) (by decide))
theorem exec_spareMapReset (hwho : via.who = .maint) (v : Nat) : exec (.spareMapReset via v) s = .next (s.writeSpareReset v) :=
  congrArg Host.Outcome.next (State.guard_of_entry hs (.inr ⟨hwho, rfl⟩) _ (by omega) (by decide))
theorem exec_logClear (hwho : via.who = .maint) (v : Nat) : exec (.logClear via v) s = .next (s.writeLogClear v) :=
  congrArg Host.Outcome.next (State.guard_of_entry hs (.inr ⟨hwho, rfl⟩) _ (by omega) (by decide))
theorem exec_stallTileSelect (hwho : via.who = .host) (v : Nat) : exec (.stallTileSelect via v) s = .next (s.writeStallTile v) :=
  congrArg Host.Outcome.next (State.guard_of_entry hs (.inl ⟨hwho, rfl⟩) _ (by omega) (by decide))
/-- Either principal reaches LOOPBACK_START of each of the twenty interfaces. -/
theorem exec_loopbackStart (hwho : via.who = .maint ∨ via.who = .host) {k : Nat} (hk : k < 20) (v : Nat) :
    exec (.loopbackStart via k v) s = .next (s.writeLoopStart via k v) := by
  have hcode : ∀ k < 20, entryAcc (0x9010 + k) 3 0 = .wo ∧ entryAcc (0x9010 + k) 3 2 = .wo := by decide
  obtain ⟨hhost, hmaint⟩ := hcode k hk
  have hguard : s.guard via (ixOf 0x9010 20 k) 3 (fun s => s.writeLoopStart via k v) = s.writeLoopStart via k v := by
    rw [ixOf, if_pos hk]
    obtain hwho | hwho := hwho
    · exact State.guard_of_entry hs (.inr ⟨hwho, rfl⟩) _ (by omega) (.inr hmaint)
    · exact State.guard_of_entry hs (.inl ⟨hwho, rfl⟩) _ (by omega) (.inr hhost)
  exact congrArg Host.Outcome.next hguard
end

theorem exec_loopbackEnd (s : State) (k : Nat) (x : LoopResult) : exec (.loopbackEnd k x) s = .next (s.loopEnd k x) := rfl

/-- Another principal's write of TEST_MODE leaves test state, log and slots. -/
theorem exec_testMode_of_not_maint (s : State) {via : Via} (hwho : via.who ≠ .maint) (v : Nat) :
    ∃ u, exec (.testMode via v) s = .next u ∧ u.test = s.test ∧ u.log = s.log ∧ u.slots = s.slots := by
  refine ⟨_, rfl, ?_⟩
  obtain h | ⟨st, h⟩ := s.guard_of_not_writable (fun s => s.writeTestMode v) (s.reach_testMode_of_not_maint hwho) <;> rw [h]
  · exact ⟨rfl, rfl, rfl⟩
  · exact ⟨rfl, rfl, rfl⟩

/-! ### Writes that act and writes that are refused (R532) -/

@[simp] theorem State.logErr_test (s : State) (r : ErrRec) : (s.logErr r).test = s.test := by rw [State.logErr_eq]
@[simp] theorem State.logErr_prov (s : State) (r : ErrRec) : (s.logErr r).prov = s.prov := by rw [State.logErr_eq]
@[simp] theorem State.logErr_ports (s : State) (r : ErrRec) : (s.logErr r).ports = s.ports := by rw [State.logErr_eq]

/-- A write accepted with OK: slots and module state stay. -/
def State.Did (s u : State) : Prop :=
  Safety.answered u = some (.ok, 0) ∧ u.slots = s.slots ∧ u.mod.state = s.mod.state

/-- A write refused with a code, which is logged: slots, module state, spare map and what the next Proving does stay. -/
def State.RefusedWith (s u : State) (code : Nat) : Prop :=
  Safety.answered u = some (.valueRefused, code) ∧ Safety.newest u = some (code, .refused, 0x1F) ∧
    u.slots = s.slots ∧ u.mod.state = s.mod.state ∧ u.spare = s.spare ∧ u.prov = s.prov

theorem State.did_answer {s t : State} (hslots : t.slots = s.slots) (hstate : t.mod.state = s.mod.state) : s.Did (t.answer .ok) :=
  ⟨rfl, hslots, hstate⟩

/-- An accepted write that logs an event has it as the newest record. -/
theorem State.newest_answer_logErr (s : State) (r : ErrRec) (st : Status) (d : Nat) :
    Safety.newest ((s.logErr r).answer st d) = some (r.code, r.handling, r.pennant) :=
  s.logErr_newest r

/-- A refusal without a slot is a record of the module and the answer. -/
theorem State.refuse_of_module (s : State) (code : Nat) :
    s.refuse 16 code = (s.logErr { code := code, handling := .refused }).answer .valueRefused code := rfl
@[simp] theorem State.refuse_module_test (s : State) (code : Nat) : (s.refuse 16 code).test = s.test := by simp [State.refuse_of_module]
@[simp] theorem State.refuse_module_ports (s : State) (code : Nat) : (s.refuse 16 code).ports = s.ports := by simp [State.refuse_of_module]

theorem State.refusedWith_refuse (s : State) (code : Nat) : s.RefusedWith (s.refuse 16 code) code := by
  rw [State.refuse_of_module]
  refine ⟨rfl, State.newest_answer_logErr _ _ _ _, ?_⟩
  simp

/-! ### TEST_MODE (R608) -/

/-- Where R608 lets test mode be entered. -/
def State.MayTest (s : State) : Prop := s.mod.state = .joining ∧ s.ring.permit = false ∧ ∀ x ∈ s.slots, x.state = .free

theorem State.mayTest_iff (s : State) : s.MayTest ↔
    ¬ (s.mod.state ≠ .joining ∨ s.ring.permit = true ∨ s.slots.any (fun x => decide (x.state ≠ .free)) = true) := by
  simp [State.MayTest]

/-- A join under way is cut off when test mode begins. -/
def State.cutJoin (s : State) : State := if s.ring.bypass = 1 then s.joinFail else s

/-- The end of a join changes ports and the ring's place alone. -/
theorem State.cutJoin_eq (s : State) : s.cutJoin = { s with ports := s.cutJoin.ports, ring := s.cutJoin.ring } := by
  unfold State.cutJoin
  split <;> rfl
@[simp] theorem State.cutJoin_slots (s : State) : s.cutJoin.slots = s.slots := by rw [State.cutJoin_eq]
@[simp] theorem State.cutJoin_modState (s : State) : s.cutJoin.mod.state = s.mod.state := by rw [State.cutJoin_eq]
@[simp] theorem State.cutJoin_test (s : State) : s.cutJoin.test = s.test := by rw [State.cutJoin_eq]
theorem State.cutJoin_bypass (s : State) : s.cutJoin.ring.bypass ≠ 1 := by
  unfold State.cutJoin
  split
  · exact Nat.zero_ne_one
  · assumption

theorem State.writeTestMode_enters {s : State} (hmay : s.MayTest) (hmode : s.test.mode = false) : s.writeTestMode 1 =
    (({ s.cutJoin with test := { s.cutJoin.test with mode := true } }).logErr { code := 0x9104 }).answer .ok := by
  rw [State.writeTestMode, if_neg (by omega), if_neg (by simpa using s.mayTest_iff.mp hmay), if_neg (by simp [hmode])]
  rfl
theorem State.writeTestMode_again {s : State} (hmay : s.MayTest) (hmode : s.test.mode = true) : s.writeTestMode 1 = s.answer .ok := by
  rw [State.writeTestMode, if_neg (by omega), if_neg (by simpa using s.mayTest_iff.mp hmay), if_pos hmode]
theorem State.writeTestMode_refused {s : State} {v : Nat} (hv : v ≤ 1) (h : v = 0 ∨ ¬ s.MayTest) : s.writeTestMode v = s.refuse 16 0x9101 := by
  rw [State.mayTest_iff, not_not] at h
  rw [State.writeTestMode, if_neg (by omega), if_pos h]

section
variable {s : State} {via : Via} (hs : Safety.Serves s) (hwho : via.who = .maint)
include hs hwho

theorem exec_testMode_enters (hmay : s.MayTest) (hmode : s.test.mode = false) : ∃ u, exec (.testMode via 1) s = .next u ∧
    s.Did u ∧ u.test = { s.test with mode := true } ∧ Safety.newest u = some (0x9104, .event, 0x1F) ∧ u.ring.bypass ≠ 1 := by
  refine ⟨_, exec_testMode hs hwho 1, ?_⟩
  rw [State.writeTestMode_enters hmay hmode]
  refine ⟨State.did_answer (by simp) (by simp), by simp, State.newest_answer_logErr _ _ _ _, ?_⟩
  rw [State.answer_ring, State.logErr_ring]
  exact s.cutJoin_bypass

theorem exec_testMode_again (hmay : s.MayTest) (hmode : s.test.mode = true) :
    ∃ u, exec (.testMode via 1) s = .next u ∧ s.Did u ∧ u.test = s.test ∧ u.log = s.log := by
  refine ⟨_, exec_testMode hs hwho 1, ?_⟩
  rw [State.writeTestMode_again hmay hmode]
  exact ⟨State.did_answer rfl rfl, rfl, rfl⟩

theorem exec_testMode_refused {v : Nat} (hv : v ≤ 1) (h : v = 0 ∨ ¬ s.MayTest) :
    ∃ u, exec (.testMode via v) s = .next u ∧ s.RefusedWith u 0x9101 ∧ u.test = s.test := by
  refine ⟨_, exec_testMode hs hwho v, ?_⟩
  rw [State.writeTestMode_refused hv h]
  exact ⟨s.refusedWith_refuse _, s.refuse_module_test _⟩

/-! ### The test commands (R609, R224, R620, R481) -/

theorem exec_flyLaneDisabled_acts {v : Nat} (hv : v ≤ 1) (hmode : s.test.mode = true) : ∃ u, exec (.flyLaneDisabled via v) s = .next u ∧
    s.Did u ∧ u.test = { s.test with flyOff := decide (v = 1) } ∧ u.log = s.log := by
  refine ⟨_, exec_flyLaneDisabled hs hwho v, ?_⟩
  rw [State.writeFlyOff, if_neg (by omega), if_neg (by simp [hmode])]
  exact ⟨State.did_answer rfl rfl, rfl, rfl⟩
theorem exec_flyLaneDisabled_refused {v : Nat} (hv : v ≤ 1) (hmode : s.test.mode = false) : ∃ u, exec (.flyLaneDisabled via v) s = .next u ∧
    s.RefusedWith u 0x9101 ∧ u.test = s.test := by
  refine ⟨_, exec_flyLaneDisabled hs hwho v, ?_⟩
  rw [State.writeFlyOff, if_neg (by omega), if_pos (by simp [hmode])]
  exact ⟨s.refusedWith_refuse _, s.refuse_module_test _⟩

theorem exec_deepModeTestEnable_acts {v : Nat} (hv : v ≤ 1) (h : s.mod.state = .proving ∨ s.test.mode = true) :
    ∃ u, exec (.deepModeTestEnable via v) s = .next u ∧
      s.Did u ∧ u.test = { s.test with deepTest := decide (v = 1) } ∧ u.log = s.log := by
  refine ⟨_, exec_deepModeTestEnable hs hwho v, ?_⟩
  rw [State.writeDeep, if_neg (by omega), if_neg (by tauto)]
  exact ⟨State.did_answer rfl rfl, rfl, rfl⟩
theorem exec_deepModeTestEnable_refused {v : Nat} (hv : v ≤ 1) (hstate : s.mod.state ≠ .proving) (hmode : s.test.mode = false) :
    ∃ u, exec (.deepModeTestEnable via v) s = .next u ∧ s.RefusedWith u 0x6146 ∧ u.test = s.test := by
  refine ⟨_, exec_deepModeTestEnable hs hwho v, ?_⟩
  rw [State.writeDeep, if_neg (by omega), if_pos ⟨hstate, by simp [hmode]⟩]
  exact ⟨s.refusedWith_refuse _, s.refuse_module_test _⟩

theorem exec_spareMapReset_acts (hmode : s.test.mode = true) : ∃ u, exec (.spareMapReset via 1) s = .next u ∧ s.Did u ∧
    u.spare = { s.spare with resetPending := true } ∧ u.prov = { s.prov with force := true } ∧ u.test = s.test ∧
    Safety.newest u = some (0x9106, .event, 0x1F) := by
  refine ⟨_, exec_spareMapReset hs hwho 1, ?_⟩
  rw [State.writeSpareReset, if_neg (by omega), if_neg (by simp [hmode]), if_neg (by omega)]
  exact ⟨State.did_answer (by simp) (by simp), by simp, by simp, by simp, State.newest_answer_logErr _ _ _ _⟩
theorem exec_spareMapReset_refused (hmode : s.test.mode = false) : ∃ u, exec (.spareMapReset via 1) s = .next u ∧
    s.RefusedWith u 0x9101 ∧ u.test = s.test := by
  refine ⟨_, exec_spareMapReset hs hwho 1, ?_⟩
  rw [State.writeSpareReset, if_neg (by omega), if_pos (by simp [hmode])]
  exact ⟨s.refusedWith_refuse _, s.refuse_module_test _⟩

theorem exec_logClear_empties : ∃ u, exec (.logClear via 1) s = .next u ∧ s.Did u ∧ u.log = { s.log with recs := [] } := by
  refine ⟨_, exec_logClear hs hwho 1, ?_⟩
  rw [State.writeLogClear, if_neg (by omega), if_pos rfl]
  exact ⟨State.did_answer rfl rfl, rfl⟩
end

/-- A number of a logical tile: quarter, group and tile in their fields of STALL_TILE_SELECT (R625). -/
theorem exec_stallTileSelect_selects {s : State} {via : Via} (hs : Safety.Serves s) (hwho : via.who = .host) {q g t : Nat}
    (hq : q < 4) (hg : g < 16) (ht : t < 19) : ∃ u, exec (.stallTileSelect via (512 * q + 32 * g + t)) s = .next u ∧ s.Did u ∧
      u.test = { s.test with tileSel := 512 * q + 32 * g + t, tileStall := {} } ∧ u.log = s.log := by
  refine ⟨_, exec_stallTileSelect hs hwho _, ?_⟩
  rw [State.writeStallTile, if_neg (by omega)]
  exact ⟨State.did_answer rfl rfl, rfl, rfl⟩

/-! ### Loopbacks (R611 to R616) -/

/-- The loopback object of an interface. -/
def State.loop (s : State) (k : Nat) : Loopback := tget s.test.loops k {}

@[simp] theorem State.loop_updLoop (s : State) (k : Nat) (f : Loopback → Loopback) : (s.updLoop k f).loop k = f (s.loop k) :=
  tget_tput_same _ _ _ _
theorem State.loop_updLoop_other (s : State) {k j : Nat} (f : Loopback → Loopback) (h : j ≠ k) : (s.updLoop k f).loop j = s.loop j :=
  tget_tput_other _ _ _ _ _ h
theorem State.loop_of_test {s t : State} (h : t.test = s.test) (k : Nat) : t.loop k = s.loop k := by rw [State.loop, h, State.loop]
/-- A refusal notes its status in the object besides what every refusal leaves. -/
theorem State.refusedWith_of_updLoop {s u : State} {k code : Nat} {f : Loopback → Loopback} (h : (s.updLoop k f).RefusedWith u code) :
    s.RefusedWith u code := h

/-- The object of a run that begins now. -/
def State.startedLoop (s : State) (l : Loopback) : Loopback :=
  { l with status := 1, run := true, serv := s.inService, units := 0, errors := 0, power := 0 }
/-- A port while a loopback in service runs on it: as in a retrain whose lanes stay locked (R614). -/
def loopedPort (x : Port) : Port := { x with state := .retraining, step := 3, run := 0, tries := 1 }

/-- A run begins on an interface. -/
def State.beginLoop (s : State) (k : Nat) : State :=
  if s.inService then (s.updLoop k s.startedLoop).updPort k loopedPort else s.updLoop k s.startedLoop

/-- It changes the object and in service the port alone. -/
theorem State.beginLoop_eq (s : State) (k : Nat) : s.beginLoop k = { s.updLoop k s.startedLoop with ports := (s.beginLoop k).ports } := by
  unfold State.beginLoop
  split <;> rfl
theorem State.beginLoop_slots (s : State) (k : Nat) : (s.beginLoop k).slots = s.slots := by rw [State.beginLoop_eq]; rfl
theorem State.beginLoop_mod (s : State) (k : Nat) : (s.beginLoop k).mod = s.mod := by rw [State.beginLoop_eq]; rfl
theorem State.beginLoop_log (s : State) (k : Nat) : (s.beginLoop k).log = s.log := by rw [State.beginLoop_eq]; rfl
theorem State.beginLoop_test (s : State) (k : Nat) : (s.beginLoop k).test = (s.updLoop k s.startedLoop).test := by rw [State.beginLoop_eq]

theorem State.beginLoop_port {s : State} (k : Nat) (h : s.inService = true) : (s.beginLoop k).port k = loopedPort (s.port k) := by
  rw [State.beginLoop, if_pos h]
  exact State.port_updPort _ _ _
theorem State.beginLoop_port_other (s : State) {k j : Nat} (h : j ≠ k) : (s.beginLoop k).port j = s.port j := by
  unfold State.beginLoop
  split
  · exact State.port_updPort_other _ _ _ _ h
  · rfl
theorem State.beginLoop_ports {s : State} (k : Nat) (h : s.inService = false) : (s.beginLoop k).ports = s.ports := by
  rw [State.beginLoop, if_neg (by simp [h])]
  rfl

/-- Who may start a loopback: the maintainer, and the host operator outside test mode. -/
def State.Starter (s : State) (who : Principal) : Prop := who = .maint ∨ who = .host ∧ s.test.mode = false

theorem State.Starter.not_barred {s : State} {who : Principal} (h : s.Starter who) : ¬ (s.test.mode = true ∧ who ≠ .maint) := by
  rintro ⟨hmode, hwho⟩
  obtain h | ⟨-, h⟩ := h
  · exact hwho h
  · simp [h] at hmode
theorem State.Starter.reaches {s : State} {who : Principal} (h : s.Starter who) : who = .maint ∨ who = .host := h.imp_right And.left

section
variable {s : State} {via : Via} {k : Nat} (hstarter : s.Starter via.who)
include hstarter

theorem State.writeLoopStart_begins (h : s.loopAllowed k (s.loop k).depth = true) :
    s.writeLoopStart via k 1 = (s.beginLoop k).answer .ok := by
  rw [State.writeLoopStart, ← State.loop, if_neg (by omega), if_neg (by omega), if_neg hstarter.not_barred, if_neg (not_not.mpr h)]
  rfl
theorem State.writeLoopStart_refused (h : s.loopAllowed k (s.loop k).depth = false) :
    s.writeLoopStart via k 1 = (s.updLoop k (fun l => { l with status := 4 })).refuse 16 0x9101 := by
  rw [State.writeLoopStart, ← State.loop, if_neg (by omega), if_neg (by omega), if_neg hstarter.not_barred, if_pos (by simp [h])]
end

section
variable {s : State} {via : Via} (hs : Safety.Serves s) {k : Nat} (hk : k < 20) (hstarter : s.Starter via.who)
include hs hk hstarter

theorem exec_loopbackStart_begins (h : s.loopAllowed k (s.loop k).depth = true) : ∃ u, exec (.loopbackStart via k 1) s = .next u ∧
    s.Did u ∧ u.loop k = s.startedLoop (s.loop k) ∧ (∀ j, j ≠ k → u.loop j = s.loop j ∧ u.port j = s.port j) ∧ u.log = s.log ∧
    (s.inService = true → u.port k = loopedPort (s.port k)) ∧ (s.inService = false → u.ports = s.ports) := by
  refine ⟨_, exec_loopbackStart hs hstarter.reaches hk 1, ?_⟩
  rw [State.writeLoopStart_begins hstarter h]
  have htest : ((s.beginLoop k).answer .ok).test = (s.updLoop k s.startedLoop).test := s.beginLoop_test k
  refine ⟨State.did_answer (s.beginLoop_slots k) (by rw [s.beginLoop_mod]), ?object, fun j hj => ⟨?objects, s.beginLoop_port_other hj⟩,
    s.beginLoop_log k, State.beginLoop_port k, State.beginLoop_ports k⟩
  case object => rw [State.loop_of_test htest, State.loop_updLoop]
  case objects => rw [State.loop_of_test htest, State.loop_updLoop_other _ _ hj]

theorem exec_loopbackStart_refused (h : s.loopAllowed k (s.loop k).depth = false) : ∃ u, exec (.loopbackStart via k 1) s = .next u ∧
    s.RefusedWith u 0x9101 ∧ u.loop k = { s.loop k with status := 4 } ∧ u.ports = s.ports := by
  refine ⟨_, exec_loopbackStart hs hstarter.reaches hk 1, ?_⟩
  rw [State.writeLoopStart_refused hstarter h]
  refine ⟨State.refusedWith_of_updLoop (State.refusedWith_refuse _ _), ?_, (State.refuse_module_ports _ _).trans rfl⟩
  rw [State.loop_of_test (State.refuse_module_test _ _), State.loop_updLoop]
end

/-! ### The end of a run (R613, R616) -/

theorem loopPassed_iff (k d : Nat) (x : LoopResult) :
    loopPassed k d x = true ↔ x.bad = 0 ∧ (6 ≤ k ∨ d = 0 ∨ x.corrected * 1000000 < x.units) := by
  simp [loopPassed, or_assoc]

/-- The object of an interface after a run with this outcome. -/
def endedLoop (k : Nat) (x : LoopResult) (l : Loopback) : Loopback :=
  { l with
    run := false, serv := false, status := if loopPassed k l.depth x then 2 else 3, units := x.units,
    errors := if k < 6 then x.corrected + 1000 * x.bad else x.bad, power := if k < 6 ∧ 3 ≤ l.depth then x.power else 0 }

/-- A run's figures kept and, after one in service, the port at step 3 of its retrain. -/
def State.closeLoop (s : State) (k : Nat) (x : LoopResult) : State :=
  if (s.loop k).serv then (s.updLoop k (endedLoop k x)).updPort k (fun y => { y with step := 3 }) else s.updLoop k (endedLoop k x)

theorem State.closeLoop_eq (s : State) (k : Nat) (x : LoopResult) :
    s.closeLoop k x = { s.updLoop k (endedLoop k x) with ports := (s.closeLoop k x).ports } := by
  unfold State.closeLoop
  split <;> rfl
theorem State.closeLoop_slots (s : State) (k : Nat) (x : LoopResult) : (s.closeLoop k x).slots = s.slots := by rw [State.closeLoop_eq]; rfl
theorem State.closeLoop_log (s : State) (k : Nat) (x : LoopResult) : (s.closeLoop k x).log = s.log := by rw [State.closeLoop_eq]; rfl
theorem State.closeLoop_loop (s : State) (k : Nat) (x : LoopResult) : (s.closeLoop k x).loop k = endedLoop k x (s.loop k) := by
  rw [State.closeLoop_eq]
  exact State.loop_updLoop s k _
theorem State.closeLoop_port {s : State} {k : Nat} (x : LoopResult) (h : (s.loop k).serv = true) : ((s.closeLoop k x).port k).step = 3 := by
  rw [State.closeLoop, if_pos h, State.port_updPort]
theorem State.closeLoop_ports {s : State} {k : Nat} (x : LoopResult) (h : (s.loop k).serv = false) : (s.closeLoop k x).ports = s.ports := by
  rw [State.closeLoop, if_neg (by simp [h])]
  rfl

/-- The record of a failed run. -/
def loopFailRec (k d : Nat) : ErrRec :=
  { code := 0x9102, siteKind := if k < 6 then .port else .module, site := if k < 6 then siteNum k else 0, detail0 := k, detail1 := d }

section
variable {s : State} {k : Nat}

theorem State.loopEnd_of_idle (x : LoopResult) (h : (s.loop k).run = false) : s.loopEnd k x = s :=
  if_pos (by simpa [State.loop] using h)
theorem State.loopEnd_of_run (x : LoopResult) (h : (s.loop k).run = true) : s.loopEnd k x =
    if loopPassed k (s.loop k).depth x then s.closeLoop k x else (s.closeLoop k x).logErr (loopFailRec k (s.loop k).depth) :=
  if_neg (by simpa [State.loop] using h)

/-- Passed or failed, the object, the slots and the ports are as `closeLoop` leaves them. -/
theorem State.loopEnd_loop (x : LoopResult) (h : (s.loop k).run = true) : (s.loopEnd k x).loop k = endedLoop k x (s.loop k) := by
  rw [State.loopEnd_of_run x h]
  split
  · exact s.closeLoop_loop k x
  · rw [State.loop_of_test (State.logErr_test _ _), s.closeLoop_loop k x]
theorem State.loopEnd_slots (x : LoopResult) (h : (s.loop k).run = true) : (s.loopEnd k x).slots = s.slots := by
  rw [State.loopEnd_of_run x h]
  split <;> simp [State.closeLoop_slots]
theorem State.loopEnd_ports (x : LoopResult) (h : (s.loop k).run = true) : (s.loopEnd k x).ports = (s.closeLoop k x).ports := by
  rw [State.loopEnd_of_run x h]
  split <;> simp

theorem State.loopEnd_passed {x : LoopResult} (h : (s.loop k).run = true) (hpass : loopPassed k (s.loop k).depth x = true) :
    ((s.loopEnd k x).loop k).status = 2 ∧ (s.loopEnd k x).log = s.log := by
  rw [State.loopEnd_loop x h, State.loopEnd_of_run x h, if_pos hpass]
  exact ⟨if_pos hpass, s.closeLoop_log k x⟩
theorem State.loopEnd_failed {x : LoopResult} (h : (s.loop k).run = true) (hfail : ¬ loopPassed k (s.loop k).depth x = true) :
    ((s.loopEnd k x).loop k).status = 3 ∧ (s.loopEnd k x).log.recs.head?.map (fun r => r.body) = some (loopFailRec k (s.loop k).depth) := by
  rw [State.loopEnd_loop x h, State.loopEnd_of_run x h, if_neg hfail, State.logErr_head]
  exact ⟨if_neg hfail, rfl⟩
end

/-! ### The obligation -/

/-- Settles O60: each write is let through by its access code and then takes the branch that its rule names; a loopback keeps its
figures whether it passed or failed, and the one or the other is the condition of R613. -/
theorem testModeAndObservation : Obligations.TestModeAndObservation := by
  unfold Obligations.TestModeAndObservation
  refine ⟨fun s via hs => ⟨fun hwho v => exec_testMode_of_not_maint s hwho v, fun hwho => ⟨?enters, ?again, ?refused, ?zero, ?commands,
    ?spareMap, ?spareMapRefused, ?logClear⟩, ?start, ?stallTile⟩, fun s k x => ⟨?idle, ?ends⟩⟩
  case enters => exact exec_testMode_enters hs hwho
  case again => exact exec_testMode_again hs hwho
  case refused => exact fun hmay => exec_testMode_refused hs hwho le_rfl (.inr hmay)
  case zero => exact exec_testMode_refused hs hwho (Nat.zero_le 1) (.inl rfl)
  case commands =>
    exact fun v hv => ⟨exec_flyLaneDisabled_acts hs hwho hv, exec_flyLaneDisabled_refused hs hwho hv,
      exec_deepModeTestEnable_acts hs hwho hv, exec_deepModeTestEnable_refused hs hwho hv⟩
  case spareMap => exact exec_spareMapReset_acts hs hwho
  case spareMapRefused => exact exec_spareMapReset_refused hs hwho
  case logClear => exact exec_logClear_empties hs hwho
  case start =>
    refine fun k hk hstarter => ⟨fun h => ?_, exec_loopbackStart_refused hs hk hstarter⟩
    obtain ⟨u, hexec, hdid, hloop, hothers, hlog, hport, hports⟩ := exec_loopbackStart_begins hs hk hstarter h
    refine ⟨u, hexec, hdid, hloop, hothers, hlog, fun hservice => ?_, hports⟩
    rw [hport hservice]
    exact ⟨rfl, rfl, rfl⟩
  case stallTile => exact fun hwho q g t => exec_stallTileSelect_selects hs hwho
  case idle => exact fun h => congrArg Host.Outcome.next (State.loopEnd_of_idle x h)
  case ends =>
    intro h
    have hloop := State.loopEnd_loop x h
    refine ⟨_, exec_loopbackEnd s k x, congrArg Loopback.run hloop, congrArg Loopback.units hloop, congrArg Loopback.errors hloop,
      State.loopEnd_slots x h, fun hbad hrate => ?passed, fun hfail => ?failed, fun hserv => ?port, fun hserv => ?ports⟩
    case passed => exact State.loopEnd_passed h ((loopPassed_iff _ _ _).mpr ⟨hbad, hrate⟩)
    case failed =>
      have hnot : ¬ loopPassed k (s.loop k).depth x = true := by
        rw [loopPassed_iff, State.loop]
        omega
      obtain ⟨hstatus, hrecord⟩ := State.loopEnd_failed h hnot
      refine ⟨hstatus, ?_⟩
      have hfields := congrArg (Option.map (fun b => (b.code, b.handling, b.detail0, b.detail1))) hrecord
      rwa [Option.map_map] at hfields
    case port =>
      rw [State.port, State.loopEnd_ports x h]
      exact State.closeLoop_port x hserv
    case ports => rw [State.loopEnd_ports x h, State.closeLoop_ports x hserv]

end Sys2Proof.Machine
end
